-- ==== Sys2Proof/Word.lean ====
section
/-! DEFINITION. Sys2Proof/Word.lean: the words of the machine (R4) and a sparse table keyed by a number. -/

namespace Sys2Proof

abbrev Byte := BitVec 8
/-- A portable word (R55). -/
abbrev W32 := BitVec 32
abbrev W64 := BitVec 64
/-- One bit for each of the 128 lanes of a warp (R191). -/
abbrev LaneSet := BitVec 128

/-- A sparse table: entries sorted by key, no key twice. -/
abbrev Tbl (α : Type) := List (Nat × α)

namespace Tbl

variable {α : Type}

def get? (k : Nat) : Tbl α → Option α
  | [] => none
  | (k', v) :: t => if k = k' then some v else get? k t

/-- The entry of `k`, or `d` where there is none. -/
def get (d : α) (k : Nat) (t : Tbl α) : α := (get? k t).getD d

def set (k : Nat) (v : α) : Tbl α → Tbl α
  | [] => [(k, v)]
  | (k', v') :: t =>
    if k < k' then (k, v) :: (k', v') :: t
    else if k = k' then (k, v) :: t
    else (k', v') :: set k v t

def del (k : Nat) (t : Tbl α) : Tbl α := t.filter fun p => p.1 ≠ k

/-- Apply `f` to every value. -/
def mapVals (f : Nat → α → α) (t : Tbl α) : Tbl α := t.map fun p => (p.1, f p.1 p.2)

end Tbl

end Sys2Proof
end

