-- ==== Sys2Proof/Config.lean ====
section
/-! DEFINITION. Sys2Proof/Config.lean: what the manual fixes for the part (figures of R21 and R22) and the values it
leaves open. An open value is an opaque constant: nothing can be proved of it, so a statement holds whatever it is. -/

namespace Sys2Proof.Config

/-- Figures of R22 and R116, by die kind (`true` is W2E). -/
def mainRegs (w2e : Bool) : Nat := if w2e then 384 else 512
def ckptBytes (w2e : Bool) : Nat := if w2e then 98304 else 131072
def scratchUnits (w2e : Bool) : Nat := if w2e then 2048 else 1536
def bstageUnits (w2e : Bool) : Nat := if w2e then 64 else 128
def accUnits (w2e : Bool) : Nat := if w2e then 4 else 8
def operandUnits : Nat := 128
def coresPerCluster : Nat := 192
def walkersPerCluster : Nat := 32
def poolEntries : Nat := 4096
def landingSlots : Nat := 64
def pinRecords : Nat := 1024
def detWindow : Nat := 256
/-- Bytes of device memory behind one die (R294). -/
def dieBytes : Nat := 0x3000000000
/-- DIE_ORIENT of each site (R13). -/
def orient : Nat → W64
  | 0 => 0x30240000#64
  | 1 => 0x21241351#64
  | 2 => 0x30066622#64
  | _ => 0x21067573#64

/-- Free: the f32 result of the approximate functions of R167 where R167 names no exact value; used where it keeps R167's bound, which
Machine/Approx.lean checks (log 7). -/
opaque approx : Nat → BitVec 32 → BitVec 32
/-- Free: the keyed hash of a line (R300), by the boot, whose secret makes the keys, the domain and the bytes (log 8). -/
opaque lineHash : Nat → Nat → List Byte → BitVec 64
/-- Free: TagSet of a line (R296, R297), by the boot, for which it is fixed, and the line (log 8). -/
opaque tagSet : Nat → Nat → Nat
/-- Free: the L1 set of a line, which R327 does not name (log 10). -/
opaque l1Set : Nat → Nat
/-- What the lapidary chooses freely in a unit (R104, R105): where bundle 0 lies in the unit image, SLIPW, the bundles in order, the portable
index of each slot of each bundle (R81), location entries beside those at region heads (R82), the constant pool, and a length for each
region where it lists no bundles. -/
structure UnitDraft where
  bbase : Nat
  slipw : Nat
  bundles : List (BitVec 256)
  pixs : List (List Nat)
  locs : List (List W64)
  pool : List Byte
  lens : List Nat
  deriving DecidableEq, Repr, Inhabited

/-- Free: the lapidary's choices for a unit, by the inputs of R105: measured microcode, module words, function, die kind, budget. What R68 to
R135 fix of a unit does not come from here (Machine/Alloc.lean, Machine/Units.lean), and a draft that breaks one of those rules is not used
(log 9). -/
opaque unitDraft : List Byte → List W32 → Nat → Bool → Nat → UnitDraft
/-- Free: where the region after a wait begins (R185), by the inputs of R105 and the wait's portable index (log 6). -/
opaque waitChoice : List Byte → List W32 → Nat → Bool → Nat → Nat → Nat
/-- Free: whether a long region is split at a block's head (R122), by the inputs of R105 and the block's first index (log 9). -/
opaque splitChoice : List Byte → List W32 → Nat → Bool → Nat → Nat → Bool
/-- Free: one draw of a sampling interval (R413), before its reduction to the range (log 8). -/
opaque sampleDraw : Nat → Nat
/-- Free: a value the manual does not state, a fresh one for each count (log 12). -/
opaque freeValue : Nat → W64
/-- Free: SHA-512 of bytes (R320, R425, R428), which the manual names and does not define (log 13). -/
opaque sha512 : List Byte → BitVec 512
/-- Free: what Beryl signs and answers (R429), by request kind and bytes (log 14). -/
opaque beryl : Nat → List Byte → List Byte
/-- Free: a sensor's reading (R440), by sensor and count (log 14). -/
opaque sensor : Nat → Nat → W32

/-- Free: a byte of a saved object whose layout the manual does not give (R425), by the object's fields (log 32). -/
opaque recordByte : List Nat → Nat → Byte

/-- Free: what a physical address that is no device memory reads as (R294; log 17). -/
opaque absentByte : Nat → Byte

end Sys2Proof.Config
end

