-- ==== Sys2Proof/Syntax.lean ====
section
/-! DEFINITION. Sys2Proof/Syntax.lean: the steps of the machine, one constructor of `Instr` per row of
spec/opcode_table.json: portable instructions (R66), native-only operations (R75) and the happenings that have no
encoding. Operand words are R58-R60, types R30, modifiers each instruction's own rule. -/

namespace Sys2Proof

/-- Element formats, in the order of their codes (R30). -/
inductive Fmt where
  | void | p | b8 | b16 | b32 | b64 | f16 | bf16 | f32 | f64 | e4m3 | e5m2 | i4 | cb4 | cb6 | dyn
  deriving DecidableEq, Repr

/-- Packings, in the order of their codes (R30). -/
inductive Pack where
  | x1 | x2 | x4 | x8
  deriving DecidableEq, Repr

/-- A type: an element format and a packing (R30). -/
structure Ty where
  fmt : Fmt
  pack : Pack := .x1
  deriving DecidableEq, Repr

/-- Spaces, in the order of their codes (R65). -/
inductive Space where
  | global | scratch | cluster | const | param | host
  deriving DecidableEq, Repr

/-- Scopes, in the order of their codes (R330). -/
inductive Scope where
  | core | cluster | die | package | domain | system
  deriving DecidableEq, Repr

/-- Engine tags 1 to 5 of R70. -/
inductive Eng where
  | S | L | V | M | X
  deriving DecidableEq, Repr

/-- Native register specifiers (R73). -/
inductive NReg where
  | v (i : Fin 128) | w (i : Fin 16) | z (i : Fin 4) | zero | lane | ones | lit | k (i : Fin 12) | s (i : Fin 64)
  deriving DecidableEq, Repr

/-- An operand: the operand words of R58 to R60, and a native specifier where an instruction stands in a native slot
(R70), which no portable word encodes. -/
inductive Opnd where
  | ref (d : BitVec 30)
  | imm (v : BitVec 30)
  | lit32 (v : BitVec 32)
  | lit64 (v : BitVec 64)
  | sym (i : BitVec 29)
  | nat (r : NReg)
  deriving DecidableEq, Repr

/-- A block target with its edge arguments (R38, R59). -/
structure Target where
  block : BitVec 20
  args : List Opnd
  deriving DecidableEq, Repr

/-- A `.pred` operand: the mask it names (R139). -/
abbrev Pred := Option (Fin 12)

inductive Hint where | none | likely | unlikely | uniform deriving DecidableEq, Repr
inductive VoteMode where | any | all | uni deriving DecidableEq, Repr
/-- COND of `cmp` and `flagw` (R143). -/
inductive Cond where | eq | ne | lt | le | gt | ge deriving DecidableEq, Repr
/-- COND of `fcmp` (R164). -/
inductive FCond where | eq | ne | lt | le | gt | ge | ord | uno deriving DecidableEq, Repr
inductive ShflMode where | idx | up | down | xor deriving DecidableEq, Repr
/-- Operations of `scan` and `wred` (R157). -/
inductive ScanOp where | add | min | max | and | or | xor | fadd | fmin | fmax deriving DecidableEq, Repr
/-- RM of `frnd` (R165). -/
inductive RndMode where | ne | rz | rp | rm deriving DecidableEq, Repr
/-- Operations of `atom` and `red` (R339). -/
inductive AtomOp where
  | add | min | max | and | or | xor | exch | inc | dec | fadd | fmin | fmax
  deriving DecidableEq, Repr
/-- ORD and SCOPE of a strong access (R336): SCOPE stands only beside an ordering. -/
inductive Ord where
  | none | acq (s : Scope) | rel (s : Scope) | acqrel (s : Scope)
  deriving DecidableEq, Repr
inductive FenceOrd where | acq | rel | acqrel deriving DecidableEq, Repr
/-- OPC of `cctl` (R319). -/
inductive CctlOp where | wb | evict | zero | cold deriving DecidableEq, Repr
/-- OPX of `cpyq` (R291). -/
inductive CpyqOp where | add | min | max | fadd | fmin | fmax deriving DecidableEq, Repr
/-- FMT of `orsv` (R355). -/
inductive MFmt where | b8 | f16 | bf16 | e4m3 | e5m2 | i4 | cb4 | cb6 deriving DecidableEq, Repr
/-- BLK of `orsv` (R99, R355). -/
inductive Blk where | none | b16 | b32 | b64 | b128 deriving DecidableEq, Repr
/-- SPM and SPN of `orsv` (R355): dense, or N kept of M. -/
inductive Sparsity where
  | dense | of4 (n : Fin 4) | of8 (n : Fin 8) | of16 (n : Fin 16)
  deriving DecidableEq, Repr
/-- MOD[1:0] of `tprf` (R138). -/
inductive TprfKind where | own | other | both deriving DecidableEq, Repr
inductive SmplMode where | on | off | now deriving DecidableEq, Repr
/-- Why a unit is pre-empted (R404). -/
inductive Cause where | priority | progress | timeSlice | coreError | ctxSave deriving DecidableEq, Repr

/-- Register blocks that an outside write reaches (R6, R182, R232, R309). -/
inductive RegBlock where
  | pf (site : Nat) | vf (site v : Nat) | fw (site : Nat) | core (c : Nat)
  deriving DecidableEq, Repr

/-- The failing storage of an uncorrectable error (R392). `datum` marks a byte of device memory. -/
inductive ErrSource where
  | datum (pa : Nat)
  | regFile (core slot : Nat)
  | scratch (core wgslot : Nat)
  | ckpt (core slot : Nat)
  | accum (core unit : Nat)
  | hold (core idx : Nat)
  | l1 (core line : Nat)
  deriving DecidableEq, Repr

/-- What a scrub cleans (R426). -/
inductive ScrubItem where
  | scratch (core wgslot : Nat) | warpSlot (core slot : Nat) | die (site : Nat)
  deriving DecidableEq, Repr

/-- The steps. `core` counts 0-3071 (`%cluster` x 192 + `%core`), `slot` is a warp slot, `site` a die. -/
inductive Instr where
  -- control (R186-R195)
  | nop
  | br (pipe : Bool) (t : Target)
  | brc (hint : Hint) (pipe : Bool) (c : Opnd) (t f : Target)
  | switch (uniform : Bool) (i : Opnd) (dflt : Target) (cases : List Target)
  | call (ty : Ty) (f : BitVec 29) (args : List Opnd)
  | ret
  | retValue (v : Opnd)
  | exit
  | unreachable
  | select (ty : Ty) (pred : Pred) (c a b : Opnd)
  | regn
  | yield
  | join (k : Fin 12)
  | joinCond (k : Fin 12) (c : Opnd)
  | leave (k : Fin 12)
  | leaveCond (k : Fin 12) (c : Opnd)
  | waitm (k : Fin 12)
  | mrdP (k : Fin 12)
  | mrdB64 (k : Fin 12) (h : Fin 2)
  | vote (mode : VoteMode) (c : Opnd) (k : Fin 12)
  | voteBallot (c : Opnd) (h : Fin 2) (k : Fin 12)
  -- integer (R143-R153)
  | add (ty : Ty) (sgn sat : Bool) (pred : Pred) (a b : Opnd)
  | sub (ty : Ty) (sgn sat : Bool) (pred : Pred) (a b : Opnd)
  | mul (ty : Ty) (sgn sat : Bool) (pred : Pred) (a b : Opnd)
  | mulhi (ty : Ty) (sgn : Bool) (pred : Pred) (a b : Opnd)
  | mad (ty : Ty) (sgn sat : Bool) (pred : Pred) (a b c : Opnd)
  | div (ty : Ty) (sgn sat trapz : Bool) (pred : Pred) (a b : Opnd)
  | rem (ty : Ty) (sgn trapz : Bool) (pred : Pred) (a b : Opnd)
  | neg (ty : Ty) (sgn sat : Bool) (pred : Pred) (a : Opnd)
  | abs (ty : Ty) (sat : Bool) (pred : Pred) (a : Opnd)
  | min (ty : Ty) (sgn : Bool) (pred : Pred) (a b : Opnd)
  | max (ty : Ty) (sgn : Bool) (pred : Pred) (a b : Opnd)
  | and (ty : Ty) (pred : Pred) (a b : Opnd)
  | or (ty : Ty) (pred : Pred) (a b : Opnd)
  | xor (ty : Ty) (pred : Pred) (a b : Opnd)
  | not (ty : Ty) (pred : Pred) (a : Opnd)
  | shl (ty : Ty) (pred : Pred) (a b : Opnd)
  | shr (ty : Ty) (sgn : Bool) (pred : Pred) (a b : Opnd)
  | rot (ty : Ty) (pred : Pred) (a b : Opnd)
  | clz (ty : Ty) (pred : Pred) (a : Opnd)
  | popc (ty : Ty) (pred : Pred) (a : Opnd)
  | bfx (ty : Ty) (sgn : Bool) (pred : Pred) (x off len : Opnd)
  | bfi (ty : Ty) (pred : Pred) (x ins off len : Opnd)
  | brev (ty : Ty) (pred : Pred) (a : Opnd)
  | cmp (ty : Ty) (cond : Cond) (sgn : Bool) (pred : Pred) (a b : Opnd)
  | lea (sgn : Bool) (pred : Pred) (base idx : Opnd) (shift : Fin 8)
  | cvti (ty : Ty) (sgn sat : Bool) (pred : Pred) (x : Opnd)
  | cst (ty : Ty) (v : Opnd)
  | sreg (ty : Ty) (sel : Fin 14)
  -- collectives (R154-R158)
  | shfl (ty : Ty) (mode : ShflMode) (seg : Fin 7) (x sel : Opnd) (k : Fin 12)
  | bcast (ty : Ty) (x src : Opnd) (k : Fin 12)
  | bcastFirst (ty : Ty) (x : Opnd) (k : Fin 12)
  | scan (ty : Ty) (op : ScanOp) (sgn excl : Bool) (x : Opnd) (k : Fin 12)
  | wred (ty : Ty) (op : ScanOp) (sgn : Bool) (x : Opnd) (k : Fin 12)
  -- floating point (R159-R176)
  | fadd (ty : Ty) (sat rz : Bool) (pred : Pred) (a b : Opnd)
  | fsub (ty : Ty) (sat rz : Bool) (pred : Pred) (a b : Opnd)
  | fmul (ty : Ty) (sat rz : Bool) (pred : Pred) (a b : Opnd)
  | fma (ty : Ty) (sat rz : Bool) (pred : Pred) (a b c : Opnd)
  | fmin (ty : Ty) (pred : Pred) (a b : Opnd)
  | fmax (ty : Ty) (pred : Pred) (a b : Opnd)
  | fabs (ty : Ty) (pred : Pred) (a : Opnd)
  | fneg (ty : Ty) (pred : Pred) (a : Opnd)
  | fcmp (ty : Ty) (cond : FCond) (pred : Pred) (a b : Opnd)
  | fdiv (ty : Ty) (sat rz : Bool) (pred : Pred) (a b : Opnd)
  | fsqrt (ty : Ty) (sat rz : Bool) (pred : Pred) (a : Opnd)
  | frcp (ty : Ty) (sat rz : Bool) (pred : Pred) (a : Opnd)
  | frsq (ty : Ty) (sat rz : Bool) (pred : Pred) (a : Opnd)
  | fexp2 (ty : Ty) (sat rz : Bool) (pred : Pred) (a : Opnd)
  | flog2 (ty : Ty) (sat rz : Bool) (pred : Pred) (a : Opnd)
  | fsin (ty : Ty) (sat rz : Bool) (pred : Pred) (a : Opnd)
  | fcos (ty : Ty) (sat rz : Bool) (pred : Pred) (a : Opnd)
  | ftanh (ty : Ty) (sat rz : Bool) (pred : Pred) (a : Opnd)
  | fsig (ty : Ty) (sat rz : Bool) (pred : Pred) (a : Opnd)
  | frnd (ty : Ty) (mode : RndMode) (pred : Pred) (a : Opnd)
  | fcvt (ty : Ty) (sat rz : Bool) (pred : Pred) (x : Opnd)
  | f2i (ty : Ty) (sgn sat rz : Bool) (pred : Pred) (x : Opnd)
  | i2f (ty : Ty) (sgn sat rz : Bool) (pred : Pred) (x : Opnd)
  | fclass (ty : Ty) (pred : Pred) (a : Opnd)
  | pdot (ty : Ty) (sgn sat rz : Bool) (pred : Pred) (a b c : Opnd)
  | pwid (ty : Ty) (df : Fmt) (sgn il : Bool) (part : Fin 4) (pred : Pred) (x : Opnd)
  | pnar (ty : Ty) (sgn sat rz il : Bool) (pred : Pred) (xs : List Opnd)
  | cbdec (ty : Ty) (hi : Bool) (pred : Pred) (codes : Opnd) (slot : Fin 8)
  | cbenc (ty : Ty) (pred : Pred) (x : Opnd) (slot : Fin 8)
  | fldx (ty : Ty) (sat rz : Bool) (pred : Pred) (x n : Opnd)
  | ftag (pred : Pred) (x tag : Opnd)
  | ftagGet (pred : Pred) (x : Opnd)
  -- memory and strong accesses (R258-R261, R319, R336-R339)
  | ld (ty : Ty) (space : Space) (na : Bool) (pred : Pred) (addr : Opnd) (off : Option (BitVec 30))
  | st (ty : Ty) (space : Space) (na : Bool) (pred : Pred) (addr v : Opnd) (off : Option (BitVec 30))
  | ldb (ty : Ty) (ord : Ord) (space : Space) (pred : Pred) (addr : Opnd) (off : Option (BitVec 30))
  | stb (ty : Ty) (ord : Ord) (space : Space) (pred : Pred) (addr v : Opnd) (off : Option (BitVec 30))
  | prefetch (csc : Bool) (space : Space) (addr : Opnd) (off : Option (BitVec 30))
  | cctl (op : CctlOp) (addr : Opnd) (off : Option (BitVec 30))
  | atom (ty : Ty) (op : AtomOp) (sgn : Bool) (ord : Ord) (space : Space) (pred : Pred) (addr v : Opnd)
      (off : Option (BitVec 30))
  | atomc (ty : Ty) (ord : Ord) (space : Space) (pred : Pred) (addr cmp new : Opnd) (off : Option (BitVec 30))
  | red (ty : Ty) (op : AtomOp) (sgn : Bool) (ord : Ord) (space : Space) (pred : Pred) (addr v : Opnd)
      (off : Option (BitVec 30))
  | fence (ord : FenceOrd) (scope : Scope)
  | phase
  -- shapes and copies (R263-R265, R272-R278, R289-R292)
  | gld (idx : Bool) (scope : Scope) (ss ds : Space) (dst base h : Opnd) (cs : List Opnd) (tag : Fin 64)
      (fp : Option (BitVec 29))
  | gst (idx : Bool) (scope : Scope) (ss ds : Space) (dst base h : Opnd) (cs : List Opnd) (tag : Fin 64)
      (fp : Option (BitVec 29))
  | shp (desc : Opnd)
  | shpFree (h : Opnd)
  | taddr (base h : Opnd) (cs : List Opnd)
  | ldt (space : Space) (na : Bool) (pred : Pred) (h addr : Opnd)
  | cpy (scope : Scope) (ss ds : Space) (dst src len : Opnd) (tag : Fin 64) (fp : Option (BitVec 29))
  | cpyShape (scatter : Bool) (scope : Scope) (ss ds : Space) (dst src h : Opnd) (tag : Fin 64)
      (fp : Option (BitVec 29))
  | cpyw (trap : Bool) (tag : Fin 64)
  | cpyf (ty : Ty) (scope : Scope) (ds : Space) (dst len pat : Opnd) (tag : Fin 64) (fp : Option (BitVec 29))
  | cpyq (ty : Ty) (op : CpyqOp) (sgn sat : Bool) (scope : Scope) (ss ds : Space) (dst src n : Opnd)
      (tag : Fin 64) (fp : Option (BitVec 29))
  | cjoin (key m : Opnd)
  | cleave
  | cmap (m : Opnd)
  | colr (tag : Fin 64) (c : Fin 4)
  -- matrix (R355-R367, R371) and convergence (R199)
  | orsv (side : Bool) (fmt : MFmt) (blk : Blk) (rows32 : Bool) (sp : Sparsity) (k : Opnd) (cbs : Fin 8)
      (soff : BitVec 12)
  | orel (r : Opnd)
  | ofill (meta_ : Bool) (space : Space) (r addr stride : Opnd)
  | bfill (space : Space) (r addr stride : Opnd)
  | sclq (space : Space) (r addr bi : Opnd)
  | cbld (cb6 : Bool) (slot : Fin 8) (sym : BitVec 29)
  | cbldAddr (cb6 : Bool) (space : Space) (slot : Fin 8) (addr : Opnd)
  | aacq (rows32 : Bool)
  | arel (a : Opnd)
  | mma (a ra rb : Opnd) (cv : Option (Fin 16))
  | mmsp (a ra rb : Opnd) (cv : Option (Fin 16))
  | acrd (ty : Ty) (sat rz : Bool) (pred : Pred) (a r c : Opnd)
  | acwr (ty : Ty) (pred : Pred) (a r c v : Opnd)
  | acwrZero (a : Opnd)
  | sign (cv : Fin 16)
  | cvset (cv : Fin 16) (n : Opnd)
  | gsync
  | mstat (clr : Bool)
  -- barriers (R348), waiting (R201, R202)
  | barv (nb : Fin 64) (cnt : Option Opnd)
  | barw (nb : Fin 64) (g : Opnd)
  | bars (nb : Fin 64) (cnt : Option Opnd)
  | bmem (scope : Scope) (nb : Fin 64) (cnt : Option Opnd)
  | bcnt (nb : Fin 64)
  | prgqB64
  | prgqP
  | sleep (val : Bool) (n : Opnd)
  | flagw (ty : Ty) (cond : Cond) (sgn : Bool) (addr v : Opnd)
  -- launches (R225-R230)
  | launch (trapfull : Bool) (rec : Opnd)
  | ljoin
  | lquery (sel : Fin 5)
  | wsplit
  | migrate (trap : Bool) (addr : Opnd)
  | wdone
  -- traps, prefetch, Sampler (R138, R386, R387, R414-R418)
  | trap (code : BitVec 16) (pred : Pred)
  | brkpt (n : BitVec 16)
  | tprf (kinds : TprfKind) (sym : BitVec 29)
  | tprfHandle (kinds : TprfKind) (h : Opnd) (budget : Fin 16)
  | clock (pkg : Bool)
  | smpl (mode : SmplMode)
  | watch (trap : Bool) (base len : Opnd)
  | unwatch (id : Opnd)
  | logm (ty : Ty) (pred : Pred) (v : Opnd) (tag : BitVec 16)
  -- native-only operations (R75)
  | rgn (region : BitVec 16)
  | ckst (src : NReg) (slot : Fin 16) (rbase : Bool)
  | ckld (dst : NReg) (slot : Fin 16) (rbase : Bool)
  | vsp (src : NReg) (slot : BitVec 16)
  | vfl (dst : NReg) (slot : BitVec 16)
  | rotWindow (vb : Fin 128) (n : Fin 64)
  | waitc (eng : Eng) (cls : Fin 4) (count : BitVec 8)
  | mvw (dst src : NReg)
  | mvz (dst src : NReg)
  | qpsh (src : NReg) (scale : Bool)
  | qpop (dst : NReg) (scale : Bool)
  -- happenings of a warp and its scheduler
  | bundleStep (core slot : Nat) (eng : Eng)
  | loadComplete (core slot idx : Nat)
  | schedulerIssue (core sch : Nat)
  | firmwareCredit (core sch : Nat)
  | fairnessTimerExpiry (core slot : Nat)
  | hang (core slot : Nat)
  | sleepWake (core slot : Nat)
  | flagwRepoll (core slot : Nat)
  -- translation
  | translationDemand (core slot : Nat)
  | translationServe (cluster : Nat)
  | translationComplete (cluster : Nat)
  -- queues and launches; `vf` 0 is the physical function; `src` none is the pending pool
  | hqDoorbell (site vf q : Nat) (widx : W64)
  | hqEnable (site q : Nat) (cfg : W64)
  | hqDisable (site q : Nat) (cfg : W64)
  | packetRead (site : Nat)
  | launchAccept (site : Nat) (src : Option Nat)
  | launchCompletion (asid lseq : Nat)
  | walkerDispatch (cluster walker : Nat)
  | splitRequest (core asid lseq : Nat)
  | split (cluster walker : Nat)
  | drainNotice (cluster walker : Nat)
  | unitBlocked (cluster walker : Nat)
  | priorityPreemption (cluster walker : Nat)
  | timeSlice (cluster walker asid : Nat)
  | preemption (core wgslot : Nat) (cause : Cause)
  | resumePlacement (site : Nat)
  | parkResume (site : Nat)
  | landedWarpPlacement (site landing : Nat)
  | warpRestart (core slot : Nat)
  | workgroupRelease (core wgslot : Nat)
  -- jobs and tile operations
  | jobStart (core job : Nat)
  | jobComplete (core job : Nat)
  | tileOpComplete (core : Nat)
  | scaleEntryArrival (core idx : Nat)
  -- memory
  | sliceWrite (core idx : Nat)
  | lineFill (asid : Nat) (va : W64)
  | pageWalk (core asid : Nat) (host : Bool) (va : W64) (write : Bool)
  | faultRecordPost (core slot : Nat)
  | faultRetry (site : Nat) (resp : W64)
  | faultFail (site : Nat) (resp : W64)
  | tlbInvalidate (site : Nat) (ctl : W64)
  | tlbInvalidateComplete (site : Nat)
  | detWindowRelease (site slice : Nat)
  | snapshotArm (site : Nat) (ctl : W64)
  | snapshotBackgroundCopy (site frame line : Nat)
  -- faults, debugger, dumps
  | faultFrame (core slot : Nat)
  | disposition (core slot : Nat)
  | handlerReturn (core slot : Nat)
  | coreDump (core slot : Nat)
  | dwReadValue (core : Nat) (sel : W64)
  | dwWriteValue (core : Nat) (sel : W64)
  | dwReadControl (core : Nat) (sel : W64)
  | dwResume (core : Nat) (sel : W64)
  | debugDetach (site vf : Nat) (ctl : W64)
  | uncorrectable (src : ErrSource)
  | dieReset (site : Nat)
  | dieEnable (site : Nat)
  | flrPf (site : Nat)
  | flrVf (site vf : Nat)
  -- contexts
  | ctxLoad (site slot : Nat)
  | ctxTeardown (site slot : Nat)
  | ctxSave (site slot : Nat)
  | ctxRestore (site slot : Nat)
  -- the Sampler
  | smpArm (site : Nat) (ctl : W64)
  | smpDisarm (site : Nat) (ctl : W64)
  | smpLimitRaise (site : Nat) (limit : W64)
  | sampleTag (core sch : Nat)
  | sampleRecord (core sch : Nat)
  -- firmware, errors, snapshots
  | fwwdtKick (site : Nat) (v : W64)
  | fwwdtFire (site : Nat)
  | correctedError (site : Nat)
  | shardRestore (site : Nat) (v : W64)
  | packageBoot (topologyOk signatureOk : Bool)
  | scrubComplete (item : ScrubItem)
  | backingStoreFetch (cluster : Nat)
  | xbsCfgWrite (site : Nat) (v : W64)
  -- trust and management
  | lockInterface (site vf : Nat)
  | startInterface (site vf : Nat)
  | stopInterface (site vf : Nat)
  | ideKmKey (site vf : Nat) (key : Nat)
  | spdmGetMeasurements (req : List Byte)
  | spdmGetCertificate (req : List Byte)
  | spdmChallenge (req : List Byte)
  | spdmKeyExchange (req : List Byte)
  | pldmPowerLimit (watts : Nat)
  | pldmFirmwareUpdate (image : List Byte)
  | pldmSensorRead (sensor : Nat)
  | hostPortTrain (port : Nat)
  | registerWrite (blk : RegBlock) (off : Nat) (v : W64)
  | coreReturnedToService (core : Nat)
  deriving DecidableEq, Repr

end Sys2Proof
end

