-- ==== Sys2Proof/Machine/Num.lean ====
section
/-! DEFINITION. Sys2Proof/Machine/Num.lean: types and packings (R30, R31), exact values, the floating-point formats
(R84, R85), Round (R89, R90), conversions to integers (R91), FA48 and MatrixCell (R100-R102), codebooks (R97, R98). -/

namespace Sys2Proof

/-! ## Types -/

/-- Element bits (R30). -/
def Fmt.width : Fmt → Nat
  | .void | .dyn => 0
  | .p => 1
  | .b8 | .e4m3 | .e5m2 => 8
  | .b16 | .f16 | .bf16 => 16
  | .b32 | .f32 => 32
  | .b64 | .f64 => 64
  | .i4 | .cb4 => 4
  | .cb6 => 6

def Fmt.code : Fmt → Nat
  | .void => 0 | .p => 1 | .b8 => 2 | .b16 => 3 | .b32 => 4 | .b64 => 5 | .f16 => 6 | .bf16 => 7
  | .f32 => 8 | .f64 => 9 | .e4m3 => 10 | .e5m2 => 11 | .i4 => 12 | .cb4 => 13 | .cb6 => 14 | .dyn => 15

def Fmt.ofCode (c : Nat) : Fmt :=
  match c with
  | 1 => .p | 2 => .b8 | 3 => .b16 | 4 => .b32 | 5 => .b64 | 6 => .f16 | 7 => .bf16 | 8 => .f32 | 9 => .f64
  | 10 => .e4m3 | 11 => .e5m2 | 12 => .i4 | 13 => .cb4 | 14 => .cb6 | 15 => .dyn | _ => .void

def Pack.code : Pack → Nat
  | .x1 => 0 | .x2 => 1 | .x4 => 2 | .x8 => 3

def Pack.ofCode (c : Nat) : Pack :=
  match c with
  | 1 => .x2 | 2 => .x4 | 3 => .x8 | _ => .x1

def Pack.count : Pack → Nat
  | .x1 => 1 | .x2 => 2 | .x4 => 4 | .x8 => 8

def Pack.ofCount (c : Nat) : Pack :=
  match c with
  | 2 => .x2 | 4 => .x4 | 8 => .x8 | _ => .x1

/-- The TY field (R30). -/
def Ty.code (t : Ty) : BitVec 6 := BitVec.ofNat 6 (t.pack.code * 16 + t.fmt.code)

def Ty.ofCode (c : BitVec 6) : Ty := { fmt := Fmt.ofCode (c.toNat % 16), pack := Pack.ofCode (c.toNat / 16) }

def Ty.count (t : Ty) : Nat := t.pack.count
def Ty.width (t : Ty) : Nat := t.fmt.width

/-- Lane bits of a type (R30): i4, cb4 and cb6 fill 8-bit and 32-bit containers. -/
def Ty.bits (t : Ty) : Nat :=
  match t.fmt, t.pack with
  | .void, _ => 0
  | .p, _ => 1
  | .dyn, _ => 64
  | .i4, .x1 | .cb4, .x1 | .cb6, .x1 => 8
  | .cb6, _ => 32
  | f, k => f.width * k.count

/-- The legal combinations of R30. -/
def Ty.legal (t : Ty) : Bool :=
  match t.fmt, t.pack with
  | .void, k | .p, k | .dyn, k => k = .x1
  | .cb6, k => k = .x1 || k = .x4
  | f, k => f.width * k.count ≤ 64

/-- Bytes of a value in memory. -/
def Ty.bytes (t : Ty) : Nat := t.bits / 8

def Ty.isInt (t : Ty) : Bool := t.fmt = .b8 || t.fmt = .b16 || t.fmt = .b32 || t.fmt = .b64

def Fmt.isFloat : Fmt → Bool
  | .f16 | .bf16 | .f32 | .f64 | .e4m3 | .e5m2 => true
  | _ => false

def Ty.isFloat (t : Ty) : Bool := t.fmt.isFloat

/-- A tag that a dyn value may carry (R93). -/
def Ty.dynTag (t : Ty) : Bool := t.legal && 2 ≤ t.fmt.code && t.fmt.code ≤ 14

def tyP : Ty := { fmt := .p }
def tyB32 : Ty := { fmt := .b32 }
def tyB64 : Ty := { fmt := .b64 }
def tyF32 : Ty := { fmt := .f32 }
def tyVoid : Ty := { fmt := .void }
def tyDyn : Ty := { fmt := .dyn }

namespace Machine

/-! ## Elements -/

/-- The elements of a container, element 0 lowest (R31). -/
def elems (t : Ty) (v : W64) : List Nat :=
  (List.range t.count).map fun i => (v.toNat >>> (i * t.width)) % 2 ^ t.width

def packNat (w : Nat) : List Nat → Nat
  | [] => 0
  | x :: xs => x % 2 ^ w + packNat w xs * 2 ^ w

/-- A container filled with the elements, unused bits zero (R31). -/
def packElems (t : Ty) (es : List Nat) : W64 := BitVec.ofNat 64 (packNat t.width es)

/-- A container with its unused bits zero (R31). -/
def normBits (t : Ty) (v : W64) : W64 := packElems t (elems t v)

/-- The low `w` bits of an exact integer (R143 Wrap). -/
def wrapInt (w : Nat) (x : Int) : Nat := (x % (2 ^ w : Int)).toNat

/-- Two's complement reading. -/
def toSigned (w : Nat) (x : Nat) : Int := if x % 2 ^ w < 2 ^ (w - 1) then (x % 2 ^ w : Nat) else (x % 2 ^ w : Nat) - (2 ^ w : Int)

def readInt (sgn : Bool) (w : Nat) (x : Nat) : Int := if sgn then toSigned w x else ((x % 2 ^ w : Nat) : Int)

def maxInt (sgn : Bool) (w : Nat) : Int := if sgn then 2 ^ (w - 1) - 1 else 2 ^ w - 1
def minInt (sgn : Bool) (w : Nat) : Int := if sgn then -(2 ^ (w - 1)) else 0

def clampInt (sgn : Bool) (w : Nat) (x : Int) : Int :=
  if x < minInt sgn w then minInt sgn w else if maxInt sgn w < x then maxInt sgn w else x

/-- Wrap or Clamp of R143, as element bits. -/
def fitInt (sgn sat : Bool) (w : Nat) (x : Int) : Nat := wrapInt w (if sat then clampInt sgn w x else x)

/-! ## Exact values -/

/-- An exact value: NaN, an infinity, or a sign, a fraction num/den and a power of two. -/
inductive XR where
  | nan
  | inf (neg : Bool)
  | fin (neg : Bool) (num den : Nat) (e : Int)
  deriving DecidableEq, Repr

/-- A floating-point format (R84). `hasInf` is false for e4m3 alone. -/
structure FFmt where
  ebits : Nat
  fbits : Nat
  bias : Nat
  hasInf : Bool := true
  deriving DecidableEq, Repr

def ffF16 : FFmt := { ebits := 5, fbits := 10, bias := 15 }
def ffBf16 : FFmt := { ebits := 8, fbits := 7, bias := 127 }
def ffF32 : FFmt := { ebits := 8, fbits := 23, bias := 127 }
def ffF64 : FFmt := { ebits := 11, fbits := 52, bias := 1023 }
def ffE4m3 : FFmt := { ebits := 4, fbits := 3, bias := 7, hasInf := false }
def ffE5m2 : FFmt := { ebits := 5, fbits := 2, bias := 15 }
def ffFa48 : FFmt := { ebits := 9, fbits := 38, bias := 255 }

/-- The layout of a floating element format; f32 for a format that is no float. -/
def ffOf : Fmt → FFmt
  | .f16 => ffF16 | .bf16 => ffBf16 | .f64 => ffF64 | .e4m3 => ffE4m3 | .e5m2 => ffE5m2 | _ => ffF32

def FFmt.width (f : FFmt) : Nat := 1 + f.ebits + f.fbits
def FFmt.emin (f : FFmt) : Int := 1 - (f.bias : Int)

/-- Magnitude code of the largest finite value (R85). -/
def FFmt.maxCode (f : FFmt) : Nat :=
  if f.hasInf then 2 ^ (f.ebits + f.fbits) - 2 ^ f.fbits - 1 else 2 ^ (f.ebits + f.fbits) - 2

def FFmt.infCode (f : FFmt) : Nat := 2 ^ (f.ebits + f.fbits) - 2 ^ f.fbits

/-- The canonical NaN (R85). -/
def FFmt.qnan (f : FFmt) : Nat := if f.hasInf then f.infCode + 2 ^ (f.fbits - 1) else 2 ^ (f.ebits + f.fbits) - 1

def FFmt.signed (f : FFmt) (neg : Bool) (code : Nat) : Nat := if neg then code + 2 ^ (f.ebits + f.fbits) else code

/-- The value of a pattern (R84). -/
def decodeF (f : FFmt) (bits : Nat) : XR :=
  let b := bits % 2 ^ f.width
  let neg := decide (2 ^ (f.ebits + f.fbits) ≤ b)
  let E := (b >>> f.fbits) % 2 ^ f.ebits
  let F := b % 2 ^ f.fbits
  let emax := 2 ^ f.ebits - 1
  if E = emax && f.hasInf then (if F = 0 then .inf neg else .nan)
  else if E = emax && F = 2 ^ f.fbits - 1 then .nan
  else if E = 0 then .fin neg F 1 (1 - (f.bias : Int) - f.fbits)
  else .fin neg (2 ^ f.fbits + F) 1 ((E : Int) - f.bias - f.fbits)

/-- Floor(Log2) of num/den × 2^e for a nonzero num. -/
def ilog2 (num den : Nat) (e : Int) : Int :=
  let a := Nat.log2 num
  let b := Nat.log2 den
  let below := if b ≤ a then decide (num < den <<< (a - b)) else decide (num <<< (b - a) < den)
  (a : Int) - b + e - (if below then 1 else 0)

/-- num/den × 2^s as a quotient of naturals. -/
def scaled (num den : Nat) (s : Int) : Nat × Nat :=
  if 0 ≤ s then (num <<< s.toNat, den) else (num, den <<< (-s).toNat)

def halfEven (n d : Nat) : Nat :=
  let y := n / d
  let r := n % d
  if d < 2 * r then y + 1 else if 2 * r = d then (if y % 2 = 1 then y + 1 else y) else y

/-- Round of R89: `tz` is the TZ mode. Answers the bits of the result format. -/
def roundF (f : FFmt) (tz sat : Bool) : XR → Nat
  | .nan => f.qnan
  | .inf neg => if sat then f.signed neg f.maxCode else if f.hasInf then f.signed neg f.infCode else f.qnan
  | .fin neg num den e =>
    if num = 0 then f.signed neg 0
    else
      let E := max (ilog2 num den e) f.emin
      let (n, d) := scaled num den (e - (E - f.fbits))
      let y := if tz then n / d else halfEven n d
      let code := (E - f.emin).toNat * 2 ^ f.fbits + y
      if f.maxCode < code then
        if sat || tz then f.signed neg f.maxCode else if f.hasInf then f.signed neg f.infCode else f.qnan
      else f.signed neg code

def XR.isNan : XR → Bool
  | .nan => true
  | _ => false

def XR.neg : XR → XR
  | .nan => .nan
  | .inf n => .inf (!n)
  | .fin n a d e => .fin (!n) a d e

/-- The exact sum (R161). -/
def XR.add : XR → XR → XR
  | .nan, _ | _, .nan => .nan
  | .inf a, .inf b => if a = b then .inf a else .nan
  | .inf a, _ => .inf a
  | _, .inf b => .inf b
  | .fin s1 n1 d1 e1, .fin s2 n2 d2 e2 =>
    let e := min e1 e2
    let a := (n1 <<< (e1 - e).toNat) * d2
    let b := (n2 <<< (e2 - e).toNat) * d1
    if s1 = s2 then .fin s1 (a + b) (d1 * d2) e
    else if a = b then .fin false 0 1 0
    else if b < a then .fin s1 (a - b) (d1 * d2) e
    else .fin s2 (b - a) (d1 * d2) e

def XR.mul : XR → XR → XR
  | .nan, _ | _, .nan => .nan
  | .inf a, .inf b => .inf (a != b)
  | .inf a, .fin b n _ _ | .fin b n _ _, .inf a => if n = 0 then .nan else .inf (a != b)
  | .fin s1 n1 d1 e1, .fin s2 n2 d2 e2 => .fin (s1 != s2) (n1 * n2) (d1 * d2) (e1 + e2)

def XR.div : XR → XR → XR
  | .nan, _ | _, .nan => .nan
  | .inf _, .inf _ => .nan
  | .inf a, .fin b _ _ _ => .inf (a != b)
  | .fin a _ _ _, .inf b => .fin (a != b) 0 1 0
  | .fin s1 n1 d1 e1, .fin s2 n2 d2 e2 =>
    if n2 = 0 then (if n1 = 0 then .nan else .inf (s1 != s2))
    else .fin (s1 != s2) (n1 * d2) (d1 * n2) (e1 - e2)

/-- Floor of the square root, bit by bit from bit `k`. -/
def isqrt : Nat → Nat → Nat → Nat
  | 0, _, r => r
  | k + 1, m, r =>
    let r' := r + 2 ^ k
    isqrt k m (if r' * r' ≤ m then r' else r)

/-- The square root of R161, with a sticky bit far below any format's precision; sources have den 1. -/
def XR.sqrt : XR → XR
  | .nan => .nan
  | .inf n => if n then .nan else .inf false
  | .fin neg num den e =>
    if num = 0 then .fin neg 0 1 0
    else if neg then .nan
    else
      let odd := decide (e % 2 = 1)
      let m := (if odd then num * 2 else num) * 2 ^ 128
      let e' := (if odd then e - 1 else e)
      let r := isqrt 96 m 0
      .fin false (2 * r + (if r * r = m then 0 else 1)) den (e' / 2 - 65)

def XR.one : XR := .fin false 1 1 0

/-- a < b on numbers that are no NaN; -0 equals +0. -/
def XR.lt : XR → XR → Bool
  | .nan, _ | _, .nan => false
  | .inf a, .inf b => a && !b
  | .inf a, _ => a
  | _, .inf b => !b
  | .fin s1 n1 d1 e1, .fin s2 n2 d2 e2 =>
    let e := min e1 e2
    let a : Int := ((n1 <<< (e1 - e).toNat) * d2 : Nat)
    let b : Int := ((n2 <<< (e2 - e).toNat) * d1 : Nat)
    decide ((if s1 then -a else a) < (if s2 then -b else b))

def XR.eq (a b : XR) : Bool := !a.isNan && !b.isNan && !a.lt b && !b.lt a

def XR.isNeg : XR → Bool
  | .nan => false
  | .inf n => n
  | .fin n _ _ _ => n

def XR.abs : XR → XR
  | .nan => .nan
  | .inf _ => .inf false
  | .fin _ n d e => .fin false n d e

def XR.ofInt (x : Int) : XR := .fin (decide (x < 0)) x.natAbs 1 0

/-- Rounding of an exact finite magnitude to an integer: 0 nearest-even, 1 toward zero, 2 toward +Inf, 3 toward -Inf. -/
def roundInt (mode : Nat) (neg : Bool) (num den : Nat) (e : Int) : Int :=
  let (n, d) := scaled num den e
  let q := n / d
  let r := n % d
  let m : Nat :=
    match mode with
    | 0 => halfEven n d
    | 1 => q
    | 2 => if r ≠ 0 && !neg then q + 1 else q
    | _ => if r ≠ 0 && neg then q + 1 else q
  if neg then -(m : Int) else m

/-- The conversion to an integer of R91. -/
def floatToInt (sgn sat tz : Bool) (w : Nat) (x : XR) : Nat :=
  let indef := if sgn then 2 ^ (w - 1) else 2 ^ w - 1
  match x with
  | .nan => if sat then 0 else indef
  | .inf neg => if sat then wrapInt w (if neg then minInt sgn w else maxInt sgn w) else indef
  | .fin neg num den e =>
    let v := roundInt (if tz then 1 else 0) neg num den e
    if v < minInt sgn w then (if sat then wrapInt w (minInt sgn w) else indef)
    else if maxInt sgn w < v then (if sat then wrapInt w (maxInt sgn w) else indef)
    else wrapInt w v

/-! ## Codebooks -/

/-- CbDecode of R97: none is the FORMAT it raises. `six` is the code's kind. -/
def cbIndex (entries : List (BitVec 16)) (c : Nat) : BitVec 16 := entries.getD c 0

/-- Exact distance |x - y| of finite values. -/
def XR.dist (x y : XR) : XR := (x.add y.neg).abs

/-- The lowest code whose distance is least among the finite candidates. -/
def cbNearestGo (x : XR) : List (BitVec 16) → Nat → Option (Nat × XR) → Option (Nat × XR)
  | [], _, best => best
  | c :: cs, i, best =>
    match decodeF ffBf16 c.toNat with
    | .fin n a d e =>
      let dd := x.dist (.fin n a d e)
      match best with
      | none => cbNearestGo x cs (i + 1) (some (i, dd))
      | some (j, bd) => cbNearestGo x cs (i + 1) (if dd.lt bd then some (i, dd) else some (j, bd))
    | _ => cbNearestGo x cs (i + 1) best

/-- The lowest code of greatest (`up`) or least value among the non-NaN candidates. -/
def cbExtremeGo (up : Bool) : List (BitVec 16) → Nat → Option (Nat × XR) → Option (Nat × XR)
  | [], _, best => best
  | c :: cs, i, best =>
    let v := decodeF ffBf16 c.toNat
    if v.isNan then cbExtremeGo up cs (i + 1) best
    else
      match best with
      | none => cbExtremeGo up cs (i + 1) (some (i, v))
      | some (j, b) => cbExtremeGo up cs (i + 1) (if (if up then b.lt v else v.lt b) then some (i, v) else some (j, b))

def cbNan : List (BitVec 16) → Nat → Nat
  | [], _ => 0
  | c :: cs, i => if (decodeF ffBf16 c.toNat).isNan then i else cbNan cs (i + 1)

/-- CbNearest of R98. -/
def cbNearest (cands : List (BitVec 16)) (x : XR) : Nat :=
  match x with
  | .nan => cbNan cands 0
  | .inf neg => ((cbExtremeGo (!neg) cands 0 none).map Prod.fst).getD 0
  | .fin neg num den e =>
    match cbNearestGo (.fin neg num den e) cands 0 none with
    | some (i, _) => i
    | none => ((cbExtremeGo (!neg || num = 0) cands 0 none).map Prod.fst).getD 0

/-! ## FA48 -/

/-- Exact zero sums of R102: -0 when every term is -0, else +0. `XR.add` keeps that rule from a -0 start. `pdot` (R171) sums by it too, where
the manual is silent on the sign of an exactly zero sum (DESIGN CHOICE, log 35). -/
def groupSum (terms : List XR) : XR := terms.foldl XR.add (.fin true 0 1 0)

/-- One group and one accumulator step of MatrixCell (R101, R102). -/
def cellStep (acc : BitVec 48) (terms : List XR) : BitVec 48 :=
  let t := roundF ffFa48 false false (groupSum terms)
  BitVec.ofNat 48 (roundF ffFa48 false false ((decodeF ffFa48 acc.toNat).add (decodeF ffFa48 t)))

end Machine

end Sys2Proof
end

