-- ==== Sys2Proof/Machine/Approx.lean ====
section
/-! DEFINITION. Sys2Proof/Machine/Approx.lean: the approximate functions of R167: the values required exactly, and the bound that every other
result keeps. The true value of a function is computed in whole numbers of 2^-256, far below any bound. -/

namespace Sys2Proof.Machine

open Sys2Proof

/-- The exponent of a power of two; none for another number. -/
def pow2Exp (num : Nat) (e : Int) : Option Int :=
  if num = 2 ^ Nat.log2 num then some ((Nat.log2 num : Int) + e) else none

def f32Of (x : XR) : Nat := roundF ffF32 false false x

/-- An integer value of a finite number, when it is one and lies within the bound. -/
def intValue (neg : Bool) (num den : Nat) (e : Int) : Option Int :=
  let (n, d) := scaled num den e
  if n % d = 0 then some (if neg then -((n / d : Nat) : Int) else ((n / d : Nat) : Int)) else none

/-- The functions of R167. -/
inductive ApproxFn where
  | rsq | exp2 | log2 | sin | cos | tanh | sig
  deriving DecidableEq, Repr

def ApproxFn.num : ApproxFn → Nat
  | .rsq => 0 | .exp2 => 1 | .log2 => 2 | .sin => 3 | .cos => 4 | .tanh => 5 | .sig => 6

/-- The value that R167 requires exactly; none elsewhere. -/
def approxExact (fn : ApproxFn) (x : XR) : Option XR :=
  match fn, x with
  | _, .nan => some .nan
  | .rsq, .inf neg => some (if neg then .nan else .fin false 0 1 0)
  | .rsq, .fin neg num _ e =>
    if num = 0 then some (.inf neg) else if neg then some .nan
    else (match pow2Exp num e with | some k => if k % 2 = 0 then some (.fin false 1 1 (-(k / 2))) else none | none => none)
  | .exp2, .inf neg => some (if neg then .fin false 0 1 0 else .inf false)
  | .exp2, .fin neg num den e =>
    if !(XR.fin neg num den e).lt (.fin false 128 1 0) then some (.inf false)
    else
      match intValue neg num den e with
      | some k => if k ≤ -150 then some (.fin false 0 1 0) else some (.fin false 1 1 k)
      | none => none
  | .log2, .inf neg => some (if neg then .nan else .inf false)
  | .log2, .fin neg num _ e =>
    if num = 0 then some (.inf true) else if neg then some .nan
    else (match pow2Exp num e with | some k => some (XR.ofInt k) | none => none)
  | .sin, .inf _ => some .nan
  | .sin, .fin neg num _ _ => if num = 0 then some (.fin neg 0 1 0) else none
  | .cos, .inf _ => some .nan
  | .cos, .fin _ num _ _ => if num = 0 then some XR.one else none
  | .tanh, .inf neg => some (.fin neg 1 1 0)
  | .tanh, .fin neg num den e =>
    if num = 0 then some (.fin neg 0 1 0)
    else if !(XR.fin false num den e).lt (.fin false 73 8 0) then some (.fin neg 1 1 0) else none
  | .sig, .inf neg => some (if neg then .fin false 0 1 0 else XR.one)
  | .sig, .fin _ num _ _ => if num = 0 then some (.fin false 1 1 (-1)) else none

/-! ## Values in units of 2^-256 -/

def fxBits : Nat := 256
def fxOne : Int := 2 ^ 256
/-- ln 2 in units of 2^-256. -/
def fxLn2 : Int := 0xb17217f7d1cf79abc9e3b39803f2f6af40f343267298b62d8a0d175b8baafa2b
/-- 2π in units of 2^-512. -/
def twoPi512 : Int :=
  0x6487ed5110b4611a62633145c06e0e68948127044533e63a0105df531d89cd9128a5043cc71a026ef7ca8cd9e69d218d98158536f92f8a1ba7f09ab6b6a8e122f

def fxMul (a b : Int) : Int := a * b / fxOne
def fxDiv (a b : Int) : Int := a * fxOne / b

/-- num/den × 2^e in units of 2^-p. -/
def unitsOf (p : Nat) (neg : Bool) (num den : Nat) (e : Int) : Int :=
  let (n, d) := scaled num den (e + p)
  if neg then -((n / d : Nat) : Int) else ((n / d : Nat) : Int)

/-- The sum of a power series whose term k is term (k - 1) times `r k`. -/
def fxSeries (first : Int) (r : Nat → Int → Int) (n : Nat) : Int :=
  ((List.range n).foldl (fun (p : Int × Int) k => let t := r (k + 1) p.2; (p.1 + t, t)) (first, first)).1

/-- e^x for 0 ≤ x ≤ 1. -/
def fxExp (x : Int) : Int := fxSeries fxOne (fun k t => fxMul t x / (k : Int)) 64

/-- 2^a, `a` in units of 2^-256. -/
def fxExp2 (a : Int) : Int :=
  let n := a / fxOne
  let m := fxExp (fxMul (a % fxOne) fxLn2)
  if 0 ≤ n then m * 2 ^ n.toNat else m / 2 ^ (-n).toNat

/-- e^a for 0 ≤ a, `a` in units of 2^-256. -/
def fxExpPos (a : Int) : Int := fxExp2 (fxDiv a fxLn2)

/-- log2 of num × 2^e: the exponent, and 2 artanh((m - 1) / (m + 1)) / ln 2 of the significand m. -/
def fxLog2 (num den : Nat) (e : Int) : Int :=
  let k := ilog2 num den e
  let m := unitsOf 256 false num den (e - k)
  let z := fxDiv (m - fxOne) (m + fxOne)
  let z2 := fxMul z z
  let at_ := ((List.range 100).foldl (fun (p : Int × Int) (i : Nat) => (p.1 + p.2 / (2 * (i : Int) + 1), fxMul p.2 z2)) (0, z)).1
  k * fxOne + fxDiv (2 * at_) fxLn2

/-- An angle reduced to [0, 2π), in units of 2^-256. -/
def fxAngle (neg : Bool) (num den : Nat) (e : Int) : Int := unitsOf 512 neg num den e % twoPi512 / 2 ^ 256

def fxSin (x : Int) : Int := fxSeries x (fun k t => -(fxMul (fxMul t x) x / ((2 * k : Int) * (2 * k + 1)))) 48
def fxCos (x : Int) : Int := fxSeries fxOne (fun k t => -(fxMul (fxMul t x) x / ((2 * k - 1 : Int) * (2 * k)))) 48

/-- The true value of a function of R167 at a finite nonzero argument where the table names no exact value. -/
def approxTrue (fn : ApproxFn) (neg : Bool) (num den : Nat) (e : Int) : Int :=
  let a := unitsOf 256 neg num den e
  match fn with
  | .rsq => let (n, d) := scaled den num (512 - e); (Nat.sqrt (n / d) : Nat)
  | .exp2 => fxExp2 a
  | .log2 => fxLog2 num den e
  | .sin => fxSin (fxAngle neg num den e)
  | .cos => fxCos (fxAngle neg num den e)
  | .tanh => let x := fxExpPos (2 * (if neg then -a else a)); let y := fxDiv (x - fxOne) (x + fxOne); if neg then -y else y
  | .sig =>
    if 200 * fxOne ≤ a then fxOne else if a ≤ -(200 * fxOne) then 0
    else if neg then fxDiv fxOne (fxOne + fxExpPos (-a)) else let x := fxExpPos a; fxDiv x (x + fxOne)

/-- The spacing of f32 at a value, both in units of 2^-256. -/
def fxUlp (y : Int) : Int := 2 ^ (Nat.max (Nat.log2 y.natAbs) (256 - 126) - 23)

/-- The bound of R167's table: in ulps of the true value, or absolute. -/
def approxBound (fn : ApproxFn) (y : Int) : Int :=
  match fn with
  | .rsq => fxUlp y
  | .exp2 | .log2 => 2 * fxUlp y
  | .sin | .cos | .tanh => 2 ^ (256 - 21)
  | .sig => 2 ^ (256 - 22)

/-- An f32 result keeps the bound, but for what the true value's own computation may be off: the bound's 2^-40th part (log 7). -/
def approxWithin (fn : ApproxFn) (y : Int) (r : Nat) : Bool :=
  match decodeF ffF32 r with
  | .fin neg num den e =>
    let b := approxBound fn y
    decide ((unitsOf 256 neg num den e - y).natAbs ≤ (b + b / 2 ^ 40).toNat)
  | _ => false

/-- Approx of R167 on an element converted exactly to f32: the value required exactly; else a free value within the bound (log 7). -/
def approxF32 (fn : ApproxFn) (x : XR) : Nat :=
  match approxExact fn x, x with
  | some y, _ => f32Of y
  | none, .fin neg num den e =>
    let y := approxTrue fn neg num den e
    let r := (Config.approx fn.num (BitVec.ofNat 32 (f32Of x))).toNat
    if approxWithin fn y r then r else f32Of (.fin (decide (y < 0)) y.natAbs 1 (-256))
  | none, _ => ffF32.qnan

end Sys2Proof.Machine
end

