-- ==== Sys2Proof/Machine/Codes.lean ====
section
/-! DEFINITION. Sys2Proof/Machine/Codes.lean: the event codes of R374 and the portable opcodes of R66. -/

namespace Sys2Proof.Machine

def evIllegalOp : Nat := 0x01
def evType : Nat := 0x02
def evVerify : Nat := 0x03
def evXlateLimit : Nat := 0x04
def evFormat : Nat := 0x08
def evDivZero : Nat := 0x09
def evUnreachable : Nat := 0x0A
def evUserTrap : Nat := 0x0B
def evBreak : Nat := 0x0C
def evAddrUnmapped : Nat := 0x10
def evAddrPerm : Nat := 0x11
def evAddrAlign : Nat := 0x12
def evHandleStale : Nat := 0x13
def evScratchBounds : Nat := 0x14
def evGroupRevoked : Nat := 0x15
def evQueueImbalance : Nat := 0x18
def evReserveFull : Nat := 0x19
def evAccExhaust : Nat := 0x1A
def evMatrixShape : Nat := 0x1B
def evWaitOrphan : Nat := 0x20
def evBarrierMismatch : Nat := 0x21
def evBarrierOrphan : Nat := 0x22
def evMaskMisuse : Nat := 0x23
def evConvergenceMismatch : Nat := 0x24
def evLogFull : Nat := 0x28
def evWatchHit : Nat := 0x29
def evGangLost : Nat := 0x30
def evUncorrectable : Nat := 0x31
def evDieReset : Nat := 0x32
def evTranslationEvicted : Nat := 0x38
def evRetranslate : Nat := 0x39
def evPreempt : Nat := 0x3A
def evHang : Nat := 0x40
def evPoolFull : Nat := 0x41
def evMigrateDenied : Nat := 0x42
def evRestoreMixed : Nat := 0x43

/-- Whether a registered handler may receive the event (R374). -/
def evHandled (c : Nat) : Bool :=
  (0x08 ≤ c && c ≤ 0x0C) || (0x10 ≤ c && c ≤ 0x15) || (0x18 ≤ c && c ≤ 0x1B) || (0x20 ≤ c && c ≤ 0x24) ||
  (0x28 ≤ c && c ≤ 0x29) || c = 0x41 || c = 0x42

end Sys2Proof.Machine
end

