-- ==== Sys2Proof/Machine/State.lean ====
section
/-! DEFINITION. Sys2Proof/Machine/State.lean: every piece of state the manual gives the package, as plain data, and the
state after reset. Sparse tables hold an entry only where it differs from a stated default; `core` is a package-wide core
number (`%cluster` x 192 + `%core`), a warp's key is core x 16 + warp slot, a workgroup's core x 16 + resident slot. -/

namespace Sys2Proof.Machine

open Sys2Proof

/-- Why a step stops. No rule of the manual stops the machine: its events are next states (R375). -/
inductive Fault where
  /-- Raised by `exec` when a portable or native instruction is executed while no warp is issued, or the issued warp has
  no such thread. No run whose agenda holds only happenings meets it. Safe. -/
  | noIssue
  /-- Raised by `step` when the words at the issued warp's instruction do not decode. Translation refuses such a module
  before any of its threads runs (R110), so only a state that no launch built meets it. Safe. -/
  | undecodable
  deriving DecidableEq, Repr

/-- Why an instruction has no meaning. -/
inductive Refusal where
  /-- The constructor's arm has no meaning yet. Safe. -/
  | notModelled (mnemonic : String)
  deriving DecidableEq, Repr

/-- A value with its format tag (R92). -/
structure Val where
  bits : W64 := 0
  tag : BitVec 6 := 0
  deriving DecidableEq, Repr

/-- A portable program counter: function symbol and portable instruction index (R81). -/
structure PC where
  fsym : Nat := 0
  pix : Nat := 0
  deriving DecidableEq, Repr

/-- One entry of a thread's call stack (R74), with the caller's values held across the call (R441). -/
structure CallFrame where
  ret : PC
  dest : Option Nat
  vals : Tbl Val
  sbInc : Nat := 0
  deriving DecidableEq, Repr

/-- Where an instruction stands when a step executes it: a portable block, or a native slot (R70, R71). -/
inductive Mode where
  | portable
  | native (eng : Eng) (dest : NReg) (lit : W64)
  deriving DecidableEq, Repr

/-- The issue latch: the warp that issues and the instruction's place. `n` is the number the next defined value would
receive (R40). -/
structure Issue where
  core : Nat
  slot : Nat
  n : Nat := 0
  mode : Mode := .portable
  deriving DecidableEq, Repr

/-- What a thread waits for (R181). -/
inductive Wait where
  | none
  | mask (k : Fin 12)
  | coll (k : Fin 12) (iss : Issue) (i : Instr)
  | barrier (phys gen : Nat) (acq : Option Scope)
  | gang (gen : Nat)
  | sleep (until_ : Nat)
  | flag (done : Option W64) (iss : Issue) (i : Instr)
  | ljoin (iss : Issue)
  | sign (phys : Nat)
  | migrate (iss : Issue) (i : Instr)
  /-- A queued page fault (R315): page, kind, address, space, whether the thread's own access failed, and whether a record counts it. -/
  | page (vpage kind : Nat) (addr : W64) (space : Space) (own joined : Bool)
  deriving DecidableEq, Repr

/-- The committed region head of a thread: what a restart rebuilds (R128, R184). -/
structure Ckpt where
  pc : PC := {}
  vals : Tbl Val := []
  stack : List CallFrame := []
  sb : Nat := 0
  wait : Wait := .none
  detN : Nat := 0
  redN : Nat := 0
  deriving DecidableEq, Repr

/-- The native counters of a thread's group (R76, R81, R134), keyed by engine tag: the unit's function and the bundle at which each
engine stands, the bundles it has passed on its path, its stream index, the S engine's branch outcomes it has not yet taken (path
position, function, bundle), the engine and slot of a step whose instruction waits, with the branch target that an earlier slot of the
step chose and the registers and masks of the group as they were before the step, the engine and slot that a skip passes over (R381), and
whether a region-ending instruction has taken effect whose successor's checkpoint has not committed (R127). Positions count from the
engine that is furthest behind. -/
structure NCtr where
  at_ : Tbl (Nat × Nat) := []
  pos : Tbl Nat := []
  six : Tbl Nat := []
  outcomes : Tbl (List (Nat × Nat × Nat)) := []
  pend : Option (Nat × Nat) := none
  jump : Option (Nat × Nat) := none
  undo : Option (Tbl Val × List LaneSet) := none
  skip : Option (Nat × Nat) := none
  ended : Bool := false
  deriving DecidableEq, Repr

/-- What a handler's thread returns to (R381). -/
structure HandlerSave where
  pc : PC
  vals : Tbl Val
  stack : List CallFrame
  sb : Nat
  ck : Ckpt
  /-- The wait that the event ended, if one. -/
  wait : Wait := .none
  /-- The group's native counters and its threads' registers, which the handler's unit overwrites. -/
  nat : NCtr := {}
  regs : Tbl Val := []
  action : Option W64 := none
  deriving DecidableEq, Repr

structure Thread where
  lane : Nat
  live : Bool := true
  wid : W64 := 0
  pc : PC := {}
  vals : Tbl Val := []
  stack : List CallFrame := []
  /-- SB of R441. -/
  sb : Nat := 0
  wait : Wait := .none
  grp : Nat := 0
  halted : Bool := false
  ck : Ckpt := {}
  detN : Nat := 0
  redN : Nat := 0
  /-- Per-thread RBC and BANK (R183); CREG names the region of the committed head `ck` (R125). -/
  rbc : Nat := 0
  bank : BitVec 16 := 0
  /-- The instruction exempt from watch traps at its next execution (R419). -/
  exempt : Option PC := none
  handler : Option HandlerSave := none
  /-- A strong access that waits at its home (R341, R410): issued, then the value it read. -/
  home : Option (Option W64) := none
  /-- The physical copy tag for which `cpyw` stalls, then the code it returns (R272). -/
  cwait : Option (Nat × Option Nat) := none
  /-- A multiply has consumed its convergence register and stalls for scales (R361, R365). -/
  consumed : Bool := false
  /-- The number of the last `.region idem` whose head the thread committed, and that checkpoint (R49, R372). -/
  idem : Option (Nat × Ckpt) := none
  /-- The frame that a halted group keeps, or that its handler answers (R381, R385). -/
  frame : List W64 := []
  /-- What the thread's spill slots hold, by slot of its window (R130, R441). -/
  spilled : Tbl Val := []
  nat : NCtr := {}
  deriving DecidableEq, Repr

/-- An outstanding native load or fill, which writes its result at completion (R134): its destination, the value and its width for
each lane. -/
structure Outstanding where
  dest : NReg
  vals : List (Nat × Val × Nat)
  deriving DecidableEq, Repr

/-- The native state of a warp slot (R73-R76, R115, R125). Registers are keyed file base + number x 128 + lane, with
bases v 0, w 32768, z 36864, s 40960 (an s register uses lane 0). -/
structure Native where
  regs : Tbl Val := []
  slots : Tbl Val := []
  spillTags : Tbl (BitVec 6) := []
  rbase : Nat := 0
  preg : Nat := 0
  pv : Bool := false
  pend : BitVec 16 := 0
  rbp : Nat := 0
  wb : Nat := 0
  wn : Nat := 0
  wv : Bool := false
  /-- The window as the control block holds it: WB, WN, WV (R125). -/
  ckWb : Nat := 0
  ckWn : Nat := 0
  ckWv : Bool := false
  outstanding : List Outstanding := []
  /-- Results of the L slot that executes, which become outstanding (R134). -/
  landing : List (Nat × Val × Nat) := []
  qTile : List (List (Nat × Val)) := []
  qScale : List (List (Nat × Val)) := []
  deriving DecidableEq, Repr

/-- An event raised in a warp and not yet framed (R375). -/
structure Event where
  code : Nat
  qual : Nat := 0
  faddr : W64 := 0
  flanes : LaneSet := 0
  glanes : LaneSet := 0
  precise : Bool := true
  /-- The engine and slot that raised it in a native step; 0 and none for a portable one. -/
  eng : Nat := 0
  slot : Option Nat := none
  /-- It was raised before the halt broadcast of a dump that takes its warp in: it still takes a frame (R397). -/
  early : Bool := false
  deriving DecidableEq, Repr

structure Warp where
  wg : Nat := 0
  asid : Nat := 0
  lseq : Nat := 0
  tidx : Nat := 0
  modIdx : Nat := 0
  budget : Nat := 8
  widx : Nat := 0
  gmember : Nat := 0
  masks : List LaneSet := List.replicate 12 0
  threads : List Thread := []
  turn : Nat := 0
  turnStart : Nat := 0
  /-- FAIRT as the turn under way has it, where it has been written during the turn (R182). -/
  fairPin : Option W64 := none
  /-- When each group last held the turn, and those that yielded (R181). -/
  stamps : Tbl Nat := []
  yielded : List Nat := []
  nextGrp : Nat := 1
  stampClock : Nat := 1
  hangBase : Nat := 0
  lastIssue : Nat := 0
  ccnt : Nat := 0
  sample : Bool := true
  sampleNow : Bool := false
  /-- Number of the warp's next phase boundary (R328). -/
  boundary : Nat := 0
  event : Option Event := none
  frame : List W64 := List.replicate 16 0
  native : Native := {}
  chk : Bool := false
  slipw : Nat := 1
  /-- A register-file error was seen since the last commit (R392). -/
  regErr : Bool := false
  /-- Placed again and not yet restarted (R128): the spill slots to write back, as first byte offset in the window and bytes (R131). -/
  pendingRestart : Option (Tbl (List Byte)) := none
  deriving DecidableEq, Repr

/-- One of a workgroup's sixteen windows (R265, R266). -/
structure Window where
  open_ : Bool := false
  target : Nat := 0
  gen : Nat := 1
  deriving DecidableEq, Repr

structure Workgroup where
  asid : Nat := 0
  lseq : Nat := 0
  tidx : Nat := 0
  modIdx : Nat := 0
  gmember : Nat := 0
  warps : List Nat := []
  nwarps : Nat := 1
  budget : Nat := 8
  ckBytes : Nat := 0
  /-- Grant in units of 256 bytes (R254) and its bytes; an unlisted byte is zero (R256). -/
  grant : Nat := 0
  scratch : List Host.Cell := []
  start : Nat := 0
  /-- When it took its present core (R247). -/
  placed : Nat := 0
  prio : Nat := 0
  /-- Group entry of the cluster and member index (R262). -/
  group : Option (Nat × Nat) := none
  isGang : Bool := false
  windows : List Window := List.replicate 16 {}
  tags : Tbl Nat := []
  cvs : Tbl Nat := []
  cbs : Tbl Nat := []
  nbs : Tbl Nat := []
  scaleQ : Bool := false
  joined : Nat := 0
  failed : Nat := 0
  childLaunched : Bool := false
  /-- Generation of the gang barrier (R371). -/
  gangGen : Nat := 0
  mstat : W64 := 0
  /-- The parameter block as read at the workgroup's start (R35), and whether it has been read since the workgroup took its core. -/
  params : List Byte := []
  blockRead : Bool := false
  /-- A parking under way: issue has stopped; of a parked unit's member, that it waits at `ljoin` (R227). -/
  parking : Bool := false
  /-- Ended: every thread has exited or the workgroup was stopped; awaits release (R288). -/
  ended : Bool := false
  /-- Cluster and walker that dispatched the unit. -/
  walker : Nat × Nat := (0, 0)
  /-- A pre-emption under way: issue has stopped (R389). -/
  stop : Option Cause := none
  /-- A dump under way (R396): the warp slot that faulted, the cycle of the halt broadcast. -/
  dumping : Option (Nat × Nat) := none
  deriving DecidableEq, Repr

/-- A line of device memory or of host memory (R327, R259). -/
structure PLine where
  host : Bool
  line : Nat
  deriving DecidableEq, Repr

/-- A warp by its logical names (R406), with the member index of its workgroup in a gang. -/
structure WarpName where
  asid : Nat
  lseq : Nat
  tidx : Nat
  gmember : Nat
  widx : Nat
  deriving DecidableEq, Repr

/-- One line entry of a hold buffer (R325). `va` is the address through which its line was last stored to (R314), `phase` the boundary that
publishes it, `logged` its reserved record (R407). -/
structure HoldEntry where
  owner : WarpName
  slot : Nat
  pl : PLine
  va : Nat := 0
  dom : Nat := 0
  nc : Bool := false
  bytes : Tbl (Byte × Nat) := []
  phase : Option Nat := none
  logged : Option Nat := none
  deriving DecidableEq, Repr

/-- A line of an L1 (R327), with the context and page address it was filled through. `used`: read since the last acquire. -/
structure L1Line where
  bytes : List Byte
  /-- Bytes whose datum was uncorrectable at the fill (R392). -/
  bad : List Nat := []
  asid : Nat := 0
  va : Nat := 0
  used : Bool := true
  lru : Nat := 0
  deriving DecidableEq, Repr

/-- A translation held by a TLB (R313). -/
structure TlbEntry where
  asid : Nat
  host : Bool
  base : Nat
  log2 : Nat
  frame : Nat
  w : Bool
  pub : Bool
  nc : Bool
  dirtySet : Bool
  deriving DecidableEq, Repr

/-- A byte range of a job's footprint (R280, R283). -/
structure FpRange where
  space : Space
  /-- Owning workgroup's key for scratch and cluster ranges. -/
  wg : Nat := 0
  lo : Nat
  len : Nat
  deriving DecidableEq, Repr

/-- A place a job reads or writes: space, workgroup key for scratch, address. -/
structure JLoc where
  space : Space
  wg : Nat := 0
  addr : Nat := 0
  deriving DecidableEq, Repr

/-- A valid shape descriptor (R274). -/
structure Shape where
  ety : Ty
  strides : List Nat
  extents : List Nat
  boxes : List Nat
  deriving DecidableEq, Repr

inductive JobOp where
  | copy (dst src : JLoc) (len : Nat)
  | shaped (scatter : Bool) (dst src : JLoc) (sh : Shape)
  | fill (dst : JLoc) (len size : Nat) (pat : W64)
  | reduce (ty : Ty) (op : CpyqOp) (sgn sat : Bool) (dst src : JLoc) (n : Nat)
  | load (dst base : JLoc) (sh : Shape) (cs : List Int) (idx : Option JLoc)
  | store (src base : JLoc) (sh : Shape) (cs : List Int) (idx : Option JLoc)
  deriving DecidableEq, Repr

/-- An engine job (R279). `owner`: the warp that issued it; `drain`: its held lines to be published first (R284). -/
structure Job where
  id : Nat
  asid : Nat
  wg : Nat
  owner : WarpName
  tag : Nat
  /-- The tag's CLASS at issue (R273). -/
  cls : Nat := 1
  scope : Scope
  op : JobOp
  reads : List FpRange
  writes : List FpRange
  /-- Declared footprints under FP (R280). -/
  declared : Bool := false
  edges : List Nat := []
  drain : List PLine := []
  started : Bool := false
  /-- The translations pinned at the start (R282), one per 64 KiB page. -/
  pages : List TlbEntry := []
  deriving DecidableEq, Repr

/-- A physical copy tag (R270, R271). -/
structure CopyTag where
  owner : Nat := 0xFF
  name : Nat := 0
  cls : Nat := 1
  pend : Bool := false
  count : Nat := 0
  err : Nat := 0
  /-- Issue order of the failed job whose code `err` holds, and the space and kind of the access that failed (R374). -/
  errOrder : Nat := 0
  errQual : Nat := 0
  /-- Device lines written since the last wait, and since COUNT last fell to 0 (R272, R285). -/
  lines : List Nat := []
  fresh : List Nat := []
  deriving DecidableEq, Repr

inductive CvState where | idle | open_ | ready | broken deriving DecidableEq, Repr

/-- A physical convergence register (R198, R200). -/
structure CvReg where
  state : CvState := .idle
  sig : Nat := 0
  cnt : Nat := 0
  gen : Nat := 0
  name : Nat := 0
  wgslot : Nat := 0xFF
  signed : List Nat := []
  deriving DecidableEq, Repr

/-- A reservation record (R351, R356). Contents are element codes keyed row x 8192 + k for A and k x 64 + n for B. -/
structure Resv where
  held : Option Nat := none
  gen : Nat := 1
  side : Bool := false
  fmt : MFmt := .b8
  blk : Blk := .none
  rows32 : Bool := false
  sp : Sparsity := .dense
  k : Nat := 0
  cbs : Nat := 0
  soff : Nat := 0
  base : Nat := 0
  units : Nat := 0
  data : Tbl Nat := []
  index : Tbl Nat := []
  /-- Keys of poisoned elements, and of poisoned entries of the index map (R357). -/
  poison : List Nat := []
  indexPoison : List Nat := []
  deriving DecidableEq, Repr

/-- An accumulator unit of 32 rows (R350, R362). Elements are FA48, keyed row x 64 + column; unlisted ones are +0. -/
structure AccUnit where
  held : Option Nat := none
  gen : Nat := 1
  first : Bool := false
  second : Option Nat := none
  elems : Tbl (BitVec 48) := []
  deriving DecidableEq, Repr

inductive CbState where | empty | cb4 | cb6 deriving DecidableEq, Repr

/-- A codebook slot (R96). -/
structure CbSlot where
  owner : Option Nat := none
  state : CbState := .empty
  entries : List (BitVec 16) := []
  poison : List Nat := []
  deriving DecidableEq, Repr

/-- A scale entry (R360), its scales as read at acceptance. -/
structure ScaleEntry where
  wg : Nat
  resv : Nat
  gen : Nat
  bi : Nat
  arrived : Bool := false
  scales : List (BitVec 16) := []
  poison : List Nat := []
  deriving DecidableEq, Repr

/-- An accepted tile operation that has not completed (R353): the items it touches, and the cycle before which a multiply still
occupies the array (R366). -/
structure TileOp where
  slot : Nat
  wg : Nat
  items : List Nat := []
  due : Nat := 0
  deriving DecidableEq, Repr

/-- A scheduler's sample tag (R413): issues still to count, or the tagged slot by its logical names. -/
structure SampleTag where
  busy : Bool := false
  due : Option Nat := none
  slot : Nat := 0
  lseq : Nat := 0
  tidx : Nat := 0
  widx : Nat := 0
  fsym : Nat := 0
  pix : Nat := 0
  eng : Nat := 0
  lane : Nat := 0
  deriving DecidableEq, Repr

structure Core where
  fairt : W64 := 512
  fwshare : W64 := 5
  hangcfg : W64 := 32
  credits : List Nat := [0, 0, 0, 0]
  creditAt : List Nat := [0, 0, 0, 0]
  /-- The cycle in which each scheduler issued last (R243). -/
  issuedAt : List (Option Nat) := [none, none, none, none]
  hold : List HoldEntry := []
  holdSeq : Nat := 0
  /-- The line entries for which a store waits: the buffer makes room for them (R325). -/
  roomFor : Nat := 0
  l1 : Tbl L1Line := []
  /-- The micro-TLB, oldest first: at most 32 entries (R313). -/
  utlb : List TlbEntry := []
  l1Clock : Nat := 0
  tags : Tbl CopyTag := []
  jobs : List Job := []
  nextJob : Nat := 0
  cvs : Tbl CvReg := []
  resv : Tbl Resv := []
  acc : Tbl AccUnit := []
  cbslots : Tbl CbSlot := []
  scaleq : List ScaleEntry := []
  scaleqOwner : Option Nat := none
  tileOps : List TileOp := []
  dwSel : W64 := 0
  dwData : W64 := 0
  dwAux : W64 := 0
  dwStat : W64 := 0
  samples : List SampleTag := [{}, {}, {}, {}]
  inService : Bool := true
  lastDispatch : Option Nat := none
  /-- Allotments released and not yet scrubbed (R426): scratch units and warp slots. -/
  scrubScratch : Tbl Nat := []
  scrubSlots : List Nat := []
  /-- The frame area of the warp slots: the last frame taken in each, VALID cleared (R375). -/
  frames : Tbl (List W64) := []
  deriving DecidableEq, Repr

inductive WkState where | free | active | draining deriving DecidableEq, Repr

/-- A walker (R215, R231). -/
structure Walker where
  state : WkState := .free
  asid : Nat := 0
  lseq : Nat := 0
  tcur : Nat := 0
  tend : Nat := 0
  nsplit : Nat := 0
  /-- The first cycle at which it may dispatch (R216, R217). -/
  nextAt : Nat := 0
  /-- The core a split or hand-off dispatches to first (R239). -/
  prefer : Option Nat := none
  /-- When the dispatch now refused was first tried (R220, R246). -/
  triedAt : Option Nat := none
  /-- Room has been made for its next unit, or is being made (R220, R246, R247). -/
  owed : Bool := false
  deriving DecidableEq, Repr

/-- A split request on its way to a victim walker (R217, R238). -/
structure SplitReq where
  core : Nat
  nw : Nat
  asid : Nat
  lseq : Nat
  victim : Nat
  arrive : Nat
  deriving DecidableEq, Repr

/-- A translation request or unit name (R104, R108). -/
structure UnitKey where
  asid : Nat
  modIdx : Nat
  fsym : Nat
  w2e : Bool
  budget : Nat
  deriving DecidableEq, Repr

structure XReq where
  unit : UnitKey
  region : Nat := 0
  deriving DecidableEq, Repr

/-- A unit in the backing store (R104): its bundles as stored, its constant pool, its side table in 64-bit words (R79-R82), the figures of
its header, and the bundle whose slot fault discarded it before (R77). -/
structure UnitImg where
  key : UnitKey
  bbase : Nat := 0
  slipw : Nat := 1
  nck : Nat := 0
  nspill : Nat := 0
  bundles : List (BitVec 256)
  pool : List Byte := []
  table : List W64 := []
  lru : Nat := 0
  faulted : Option Nat := none
  deriving DecidableEq, Repr

/-- A named barrier (R346). `arrived` names the threads that have arrived in the generation. -/
structure NBar where
  owner : Option Nat := none
  name : Nat := 0
  gen : Nat := 0
  cnt : Option Nat := none
  all : Bool := false
  arr : Nat := 0
  abg : Nat := 0
  abv : Bool := false
  arrived : List (Nat × Nat) := []
  deriving DecidableEq, Repr

/-- A sharing-group entry of a cluster (R262). `members` maps member index to workgroup key. -/
structure GroupEntry where
  asid : Nat
  key : Nat
  gang : Option (Nat × Nat) := none
  members : Tbl Nat := []
  deriving DecidableEq, Repr

structure Cluster where
  walkers : Tbl Walker := []
  splitReqs : List SplitReq := []
  /-- The unit that the lapidary translates, with the region it was asked for first, and the unit's regions done (R108, R109). -/
  current : Option XReq := none
  done : List Nat := []
  demands : List XReq := []
  prefetch : List UnitKey := []
  tc : List XReq := []
  fetching : List XReq := []
  nbs : Tbl NBar := []
  groups : Tbl GroupEntry := []
  tlb : List TlbEntry := []
  deriving DecidableEq, Repr

/-- Registers of one host queue (R232) and its packets (R235). -/
structure HostQueue where
  base : W64 := 0
  asid : Nat := 0
  en : Bool := false
  log2n : Nat := 0
  pmax : Nat := 0
  state : Nat := 0
  widx : W32 := 0
  ridx : W32 := 0
  err : Nat := 0
  packet : Option (List W64) := none
  /-- The number of the read that brought the packet (R236). -/
  readNo : Nat := 0
  live : List Nat := []
  savedState : Nat := 0
  deriving DecidableEq, Repr

/-- Quota registers and counters of a domain on a die (R309). -/
structure DomRegs where
  min : Nat := 0
  max : Nat := 0x180000
  unsh : Nat := 0
  coll : Nat := 0
  deriving DecidableEq, Repr

/-- A CSC tag (R296). A DIRTY tag keeps the 128 bytes its frame holds in HBM; `entry` none is ZERO. -/
structure CscTag where
  dom : Nat
  entry : Option Nat
  dirty : Option (List Byte) := none
  lru : Nat := 0
  deriving DecidableEq, Repr

/-- A CSC data entry (R296): its content is that of every line whose tag points at it. -/
structure CscEntry where
  slice : Nat
  ref : Nat
  creator : Nat
  canon : Option (BitVec 64) := none
  lru : Nat := 0
  deriving DecidableEq, Repr

/-- An outstanding fault record (R317). -/
structure FaultRec where
  asid : Nat
  vpage : Nat
  deriving DecidableEq, Repr

structure PinRec where
  asid : Nat
  lo : Nat
  len : Nat
  /-- Holder: a job (core, id) or a launch (lseq). -/
  job : Option (Nat × Nat)
  lseq : Nat
  deriving DecidableEq, Repr

/-- A strong access issued and not yet performed at its home (R324): it waits for its own warp's publications (R328, R333), in
the DET window (R341), or for its place in a replayed log (R410: `seq`). `log` is its reserved record, `watch` the reserved
WATCH records with their word and entry; `rel` the scope of its release. -/
structure HomeOp where
  owner : WarpName
  core : Nat
  slot : Nat
  lane : Nat
  wid : Nat
  n : Nat
  arrive : Nat
  host : Bool
  va : Nat
  pa : Nat
  dom : Nat
  nc : Bool
  instr : Instr
  ty : Ty
  v : W64
  cmp : W64
  det : Bool
  rel : Option Scope
  log : Option Nat
  watch : List (Nat × Nat × Nat)
  seq : Option Nat
  deriving DecidableEq, Repr

/-- A buffered DET reduction (R342). -/
structure RedEntry where
  asid : Nat
  lseq : Nat
  wid : Nat
  n : Nat
  pa : Nat
  ty : Ty
  v : W64
  dom : Nat
  nc : Bool
  spilled : Bool := false
  deriving DecidableEq, Repr

structure PoolEntry where
  order : Nat
  record : List W64
  asid : Nat
  prio : Nat
  accepted : Option Nat := none
  /-- The parent workgroup of a joined child: launch, unit, member. -/
  parent : Option (Nat × Nat × Nat) := none
  deriving DecidableEq, Repr

/-- A pre-empted or parked unit: its members' state, whole (R390, R425). -/
structure SavedMember where
  wg : Workgroup
  warps : List Warp
  tags : Tbl CopyTag := []
  cvs : Tbl CvReg := []
  cbs : Tbl CbSlot := []
  nbs : Tbl NBar := []
  resv : Tbl Resv := []
  acc : Tbl AccUnit := []
  scales : List ScaleEntry := []
  /-- Scratchpad and matrix state are lost (R257, R369). -/
  lost : Bool := false
  deriving DecidableEq, Repr

structure SavedUnit where
  asid : Nat
  lseq : Nat
  tidx : Nat
  prio : Nat
  start : Nat
  cluster : Nat
  members : List SavedMember
  group : Option GroupEntry := none
  parked : Bool := false
  deriving DecidableEq, Repr

/-- A landed migrating warp (R251). -/
structure Landing where
  wg : Workgroup
  warp : Warp
  deriving DecidableEq, Repr

/-- A loaded context descriptor (R421): words 0 to 20 as read at load. -/
structure CtxDesc where
  words : List W64
  saved : Bool := false
  /-- A teardown is under way (R423 step 3). -/
  closing : Bool := false
  /-- SCYC of its save area (R425). -/
  scyc : Nat := 0
  evHead : Nat := 0
  lost : Nat := 0
  saveUnits : List SavedUnit := []
  savedWalkers : List (Nat × Nat × Walker) := []
  savedPool : List PoolEntry := []
  savedLandings : List (Nat × Landing) := []
  deriving DecidableEq, Repr

inductive TdiState where | unlocked | locked | run | error deriving DecidableEq, Repr

/-- State of one virtual function (R384, R420, R431). -/
structure VFunc where
  bound : Bool := false
  slot : Nat := 0
  dbgCtl : W64 := 0
  haltSet : W64 := 0
  tdi : TdiState := .unlocked
  keys : List Nat := []
  deriving DecidableEq, Repr

/-- A snapshot under way (R321, R322): source and destination frames (64 KiB) and the lines copied. -/
structure Snapshot where
  frames : List (Nat × Nat)
  copied : List (Nat × Nat) := []
  /-- The domain of the context whose pool holds the table, in which an untagged line is filled for its copy (R322), and the source frames
  that the context maps NC, whose lines are never hashed (R299). -/
  dom : Nat := 0
  ncFrames : List Nat := []
  deriving DecidableEq, Repr

structure QueueCtl where
  seq : Nat := 0
  image : Nat := 0
  deriving DecidableEq, Repr

/-- A compute die. DESIGN CHOICE (log 32, unsafe): the manual carves the translation backing store (R18) and the save areas' contents out of
device memory at no stated place; the model keeps translated units beside memory, takes no frame from it and leaves every frame mappable. -/
structure Die where
  orient : W64 := 0
  enabled : Bool := false
  resetAt : Nat := 0
  hq : Tbl HostQueue := []
  /-- The queue to be looked at first, for each PMAX, and the packets read (R236). -/
  hqNext : Tbl Nat := []
  hqReads : Nat := 0
  schedcfg : W64 := 0x103E80040
  xbscfg : W64 := 4
  doms : Tbl DomRegs := []
  tags : Tbl CscTag := []
  entries : Tbl CscEntry := []
  nextEntry : Nat := 0
  /-- The boot for which TagSet and the hash keys were drawn (R296, R297, R300). -/
  bootNo : Nat := 0
  lruClock : Nat := 0
  tlbVa : W64 := 0
  tlbCtl : W64 := 0
  fqBase : W64 := 0
  fqCfg : W64 := 0
  fqHead : Nat := 0
  fqTail : Nat := 0
  fqRespVa : W64 := 0
  fseq : Nat := 0
  faults : List FaultRec := []
  pins : List PinRec := []
  snapSft : W64 := 0
  snapCtl : W64 := 0
  snapStep : W64 := 0
  snap : Option Snapshot := none
  detcfg : W64 := 1024
  det : List HomeOp := []
  reds : List RedEntry := []
  smpBase : W64 := 0
  smpLimit : W64 := 0
  smpHead : W64 := 0
  smpCtl : W64 := 0
  smpScfg : W64 := 12
  smpDrop : W64 := 0
  /-- Records reserved and not yet written, a write of MODE 0 that waits for them (R401), when an operation last stalled
  for space (R409), and records consumed in replay (R410), by address. -/
  smpOut : List Nat := []
  smpOff : Bool := false
  smpStall : Option Nat := none
  smpUsed : List Nat := []
  sliceSeq : Tbl Nat := []
  draws : Nat := 0
  ctxBase : W64 := 0
  ctxCmd : W64 := 0
  vfs : Tbl VFunc := []
  ctxs : Tbl CtxDesc := []
  fwwdt : W64 := 600000
  fwKickAt : Nat := 0
  cerrCfg : W64 := 0x40000F4240
  cerrs : List Nat := []
  shardRestore : W64 := 0
  pool : List PoolEntry := []
  poolOrder : Nat := 0
  landings : Tbl Landing := []
  /-- Restored landings that wait for a landing slot (R252). -/
  reland : List Landing := []
  resume : List SavedUnit := []
  parked : List SavedUnit := []
  units : List UnitImg := []
  /-- Units discarded for a slot fault and not yet translated afresh, with the bundle index (R77). -/
  badUnits : List (UnitKey × Nat) := []
  eseq : Nat := 0
  qctl : Tbl QueueCtl := []
  lastSlice : Tbl Nat := []
  scrubbing : Bool := false
  deriving DecidableEq, Repr

/-- A launch from its check (R209) to its completion (R211). -/
structure Launch where
  asid : Nat
  lseq : Nat
  record : List W64
  modIdx : Nat := 0
  ksym : Nat := 0
  prio : Nat := 0
  n : Nat := 0
  /-- Clusters that take part, and how many chunks of its share each has taken (R215, R237). -/
  clusters : List Nat := []
  share : Tbl Nat := []
  /-- Indices started above PROGWM, and PROGWM itself (R220, R221). -/
  wm : Nat := 0
  started : List Nat := []
  acceptedAt : Nat := 0
  logged : Bool := false
  draining : Bool := false
  early : Bool := false
  status : Nat := 0
  code : Nat := 0
  done : Bool := false
  /-- Budget on each die (R117). -/
  budgets : Tbl Nat := []
  queue : Option (Nat × Nat) := none
  pool : Option (Nat × Nat) := none
  parent : Option (Nat × Nat × Nat) := none
  deriving DecidableEq, Repr

/-- A module image loaded into a context (R207). -/
structure Module where
  asid : Nat
  load : Nat
  modid : W64
  words : List W32
  deriving DecidableEq, Repr

/-- A shape-table slot (R275). -/
structure ShapeSlot where
  gen : Nat := 1
  shape : Option Shape := none
  retired : Bool := false
  deriving DecidableEq, Repr

/-- A watch entry of a context (R418). -/
structure WatchEntry where
  live : Bool := false
  base : Nat := 0
  len : Nat := 0
  trap : Bool := false
  gen : Nat := 1
  deriving DecidableEq, Repr

/-- What a context holds that belongs to no one die. -/
structure CtxInfo where
  nextLseq : Nat := 0
  /-- The die whose failure warning has a snapshot waiting for the context's launches to end (R436). -/
  snapPending : Option Nat := none
  shapes : Tbl ShapeSlot := []
  watches : Tbl WatchEntry := []
  deriving DecidableEq, Repr

/-- An entry of the agenda: the core clock advances, or a happening takes place. -/
inductive Turn where
  | cycle
  | happen (i : Instr)
  /-- A write of bytes of device memory by the host (R302, R438). -/
  | hostWrite (pa : Nat) (bytes : List Byte)
  deriving DecidableEq, Repr

/-- Events on the management interface (R77, R394, R435, R436). -/
inductive PldmEvent where
  | slotFault (cluster : Nat) | dieEnabled (site : Nat) | watchdog (site : Nat) | failureWarning (site : Nat)
  deriving DecidableEq, Repr

/-- Beryl, the hub and the management interface (R427-R440). -/
structure Pkg where
  booted : Bool := false
  safeMode : Bool := false
  topologyOk : Bool := true
  ports : List Nat := []
  powerLimit : Nat := 3400
  /-- The lapidary's microcode as the boot ROM measured it (R20, R428). -/
  microcode : List Byte := []
  /-- Package boots so far: what R297, R300 and R413 draw at boot is drawn anew for each. -/
  boots : Nat := 0
  /-- The firmware image that booted, where an update brought it, and the one for the next boot (R440). -/
  image : Option (List Byte) := none
  nextImage : Option (List Byte) := none
  /-- PLDM events raised, newest first. -/
  pldm : List PldmEvent := []
  /-- Measurement 6 of each die, as reported at LOCK (R428). -/
  config : Tbl (List W64) := []
  sessions : Nat := 0
  /-- The last answer of Beryl or of a sensor. -/
  answer : List Byte := []
  deriving DecidableEq, Repr

structure State where
  /-- Core cycles since package boot, of the 600 MHz clock (R5). -/
  cycle : Nat
  pkg : Pkg
  dies : Tbl Die
  clusters : Tbl Cluster
  cores : Tbl Core
  warps : Tbl Warp
  wgs : Tbl Workgroup
  launches : List Launch
  modules : List Module
  infos : Tbl CtxInfo
  mem : List Host.Cell
  hostMem : List Host.Cell
  /-- Bytes of device memory whose datum is uncorrectable (R392). -/
  poison : List Nat
  issue : Option Issue
  agenda : List Turn
  /-- Counter of the free values taken so far (log 12). -/
  freeCtr : Nat
  deriving DecidableEq, Repr

/-- A die after reset: straps loaded (R12, R13), every other field at its reset value. -/
def Die.reset (site : Nat) : Die := { orient := Config.orient site }

/-- The package right after reset: R6's reset values, nothing resident, nothing loaded, memory with nothing listed. -/
def State.reset : State where
  cycle := 0
  pkg := {}
  dies := [(0, Die.reset 0), (1, Die.reset 1), (2, Die.reset 2), (3, Die.reset 3)]
  clusters := []
  cores := []
  warps := []
  wgs := []
  launches := []
  modules := []
  infos := []
  mem := []
  hostMem := []
  poison := []
  issue := none
  agenda := []
  freeCtr := 0

end Sys2Proof.Machine
end

