-- ==== Sys2Proof/Machine/Flags.lean ====
section
/-! DEFINITION. Sys2Proof/Machine/Flags.lean: the conditions of comparisons (R143, R164) and the format-tag check of
polymorphic instructions (R92-R94). -/

namespace Sys2Proof.Machine

open Sys2Proof

/-- COND of `cmp` and `flagw` over exact integers (R143, R149). -/
def condHolds (c : Cond) (a b : Int) : Bool :=
  match c with
  | .eq => a = b | .ne => a ≠ b | .lt => a < b | .le => a ≤ b | .gt => b < a | .ge => b ≤ a

/-- COND of `fcmp` (R164). -/
def fcondHolds (c : FCond) (a b : XR) : Bool :=
  match c with
  | .eq => a.eq b
  | .ne => a.isNan || b.isNan || !a.eq b
  | .lt => a.lt b
  | .le => a.lt b || a.eq b
  | .gt => b.lt a
  | .ge => b.lt a || a.eq b
  | .ord => !a.isNan && !b.isNan
  | .uno => a.isNan || b.isNan

/-- A predicate as a bit. -/
def boolBits (b : Bool) : W64 := if b then 1 else 0

def mkVal (t : Ty) (b : W64) : Val := { bits := b, tag := t.code }

/-- The common type of polymorphic operands, where the check of R94 passes. -/
def commonTag (accept : Ty → Bool) (vs : List Val) : Option Ty :=
  match vs with
  | [] => none
  | v :: rest =>
    let t := Ty.ofCode v.tag
    if t.dynTag && accept t && rest.all (fun u => u.tag = v.tag) then some t else none

/-- The type an instruction works with in one thread: TY where it is static, the common tag where it is dyn. -/
def laneTy (ty : Ty) (accept : Ty → Bool) (vs : List Val) : Option Ty :=
  if ty = tyDyn then commonTag accept vs else some ty

end Sys2Proof.Machine
end

