-- ==== Sys2Proof/WellFormed.lean ====
section
/-! DEFINITION. Sys2Proof/WellFormed.lean: the checks an instruction passes on its own (R52, R67): the types its opcode
accepts (`typeOk`, whose breach is TYPE) and its operand forms, modifiers and counts (`formOk`, whose breach is VERIFY). The
checks that need the module around it (value types, availability, symbols) are in Machine/Verify.lean. -/

namespace Sys2Proof

/-! ## Type classes of the opcodes -/

def Ty.x1 (t : Ty) : Bool := t.pack = .x1
/-- Every combination of R30 but void, p and dyn. -/
def Ty.plain (t : Ty) : Bool := t.legal && t.fmt ≠ .void && t.fmt ≠ .p && t.fmt ≠ .dyn
/-- The integer types of R143. -/
def Ty.int (t : Ty) : Bool := t.legal && t.isInt
def Ty.intX1 (t : Ty) : Bool := t.isInt && t.x1
def Ty.logic (t : Ty) : Bool := t.int || (t.fmt = .p && t.x1)
def Ty.word (t : Ty) : Bool := t = tyB32 || t = tyB64
/-- The float types of R159. -/
def Ty.float (t : Ty) : Bool := t.legal && t.isFloat
def Ty.floatDyn (t : Ty) : Bool := t.float || t = tyDyn
def Ty.floatX1 (t : Ty) : Bool := t.isFloat && t.x1
/-- The types of fdiv, fsqrt and frcp (R160). -/
def Ty.wideFloat (t : Ty) : Bool := t.float && t.fmt ≠ .e4m3 && t.fmt ≠ .e5m2
/-- The types of R167. -/
def Ty.approxFloat (t : Ty) : Bool := t.wideFloat && t.fmt ≠ .f64
def Ty.intI4 (t : Ty) : Bool := t.legal && (t.isInt || t.fmt = .i4)

/-- The source types of a static `pdot` (R171). -/
def Ty.pdot (t : Ty) : Bool :=
  match t.fmt, t.pack with
  | .f16, .x2 | .bf16, .x2 | .f16, .x4 | .bf16, .x4 | .e4m3, .x4 | .e5m2, .x4 | .e4m3, .x8 | .e5m2, .x8
  | .b8, .x4 | .b8, .x8 | .i4, .x8 => true
  | _, _ => false

/-- The widening pairs of R172. -/
def widePair (src dst : Fmt) : Bool :=
  match src, dst with
  | .e4m3, .f16 | .e4m3, .bf16 | .e4m3, .f32 | .e5m2, .f16 | .e5m2, .bf16 | .e5m2, .f32
  | .f16, .f32 | .bf16, .f32 | .i4, .b8 | .i4, .b16 | .b8, .b16 | .b8, .b32 => true
  | _, _ => false

/-- Elements that `pwid` gives from a source of count `c` (R172). -/
def pwidCount (c : Nat) (df : Fmt) : Nat := Nat.min c (64 / df.width)

/-- The types of the operations of `scan` and `wred` (R157). -/
def scanTy (op : ScanOp) (t : Ty) : Bool :=
  match op with
  | .add | .min | .max => t.int
  | .and | .or | .xor => t.logic
  | .fadd | .fmin | .fmax => t.floatDyn

/-- The types of the atomic operations (R339). -/
def atomTy (op : AtomOp) (t : Ty) : Bool :=
  match op with
  | .fadd | .fmin | .fmax => t = tyF32 || t = { fmt := .f64 } || t = { fmt := .f16, pack := .x2 } || t = { fmt := .bf16, pack := .x2 }
  | _ => t.word

/-- The types of the reduce-copies (R291). -/
def cpyqTy (op : CpyqOp) (t : Ty) : Bool :=
  match op with
  | .add | .min | .max => t.int
  | .fadd | .fmin | .fmax => t.wideFloat

/-- The type a special value has (R42). -/
def sregTy (sel : Fin 14) : Ty := if sel.val = 2 then tyB64 else tyB32

/-- Whether the instruction's TY is one its opcode accepts (R52, R140). Happenings and native-only operations have none. -/
def Instr.typeOk : Instr → Bool
  | .call ty _ _ => ty.legal
  | .select ty _ _ _ _ => ty.legal && ty.fmt ≠ .void
  | .add ty _ _ _ _ _ | .sub ty _ _ _ _ _ | .mul ty _ _ _ _ _ | .mulhi ty _ _ _ _ | .mad ty _ _ _ _ _ _
  | .div ty _ _ _ _ _ _ | .rem ty _ _ _ _ _ | .neg ty _ _ _ _ | .abs ty _ _ _ | .min ty _ _ _ _ | .max ty _ _ _ _
  | .shl ty _ _ _ | .shr ty _ _ _ _ | .rot ty _ _ _ | .clz ty _ _ | .popc ty _ _ | .brev ty _ _ => ty.int
  | .and ty _ _ _ | .or ty _ _ _ | .xor ty _ _ _ | .not ty _ _ => ty.logic
  | .bfx ty _ _ _ _ _ | .bfi ty _ _ _ _ _ => ty.word
  | .cmp ty _ _ _ _ _ => ty.intX1
  | .cvti ty _ _ _ _ => ty.intI4
  | .cst ty _ => ty.legal && ty.fmt ≠ .void && ty.fmt ≠ .dyn
  | .shfl ty _ _ _ _ _ | .bcast ty _ _ _ | .bcastFirst ty _ _ => ty.legal && ty.fmt ≠ .void
  | .scan ty op _ _ _ _ | .wred ty op _ _ _ => scanTy op ty
  | .fadd ty _ _ _ _ _ | .fsub ty _ _ _ _ _ | .fmul ty _ _ _ _ _ | .fma ty _ _ _ _ _ _ | .fmin ty _ _ _ | .fmax ty _ _ _
  | .fabs ty _ _ | .fneg ty _ _ | .frnd ty _ _ _ | .fldx ty _ _ _ _ _ => ty.floatDyn
  | .fcmp ty _ _ _ _ | .fclass ty _ _ => ty.floatX1 || ty = tyDyn
  | .fdiv ty _ _ _ _ _ | .fsqrt ty _ _ _ _ | .frcp ty _ _ _ _ => ty.wideFloat
  | .frsq ty _ _ _ _ | .fexp2 ty _ _ _ _ | .flog2 ty _ _ _ _ | .fsin ty _ _ _ _ | .fcos ty _ _ _ _ | .ftanh ty _ _ _ _
  | .fsig ty _ _ _ _ => ty.approxFloat
  | .fcvt ty _ _ _ _ => ty.float
  | .f2i ty _ _ _ _ _ => ty.intI4
  | .i2f ty _ _ _ _ _ => ty.float
  | .pdot ty _ _ _ _ _ _ _ => ty.pdot || ty = tyDyn
  | .pwid ty df _ _ _ _ _ => (ty.legal && widePair ty.fmt df) || (ty = tyDyn && df ∈ [.f16, .bf16, .f32, .b8, .b16, .b32])
  | .pnar ty _ _ _ _ _ _ => ty.legal && (ty.fmt = .e4m3 || ty.fmt = .e5m2 || ty.fmt = .f16 || ty.fmt = .bf16 || ty.fmt = .i4 || ty.fmt = .b8)
  | .cbdec ty _ _ _ _ => ty.legal && (ty.fmt = .cb4 || ty.fmt = .cb6)
  | .cbenc ty _ _ _ => ty.legal && ((ty.fmt = .cb4 && ty.pack ≠ .x8) || ty.fmt = .cb6)
  | .ld ty _ _ _ _ _ | .ldb ty _ _ _ _ _ | .stb ty _ _ _ _ _ _ => ty.plain
  | .st ty _ _ _ _ _ _ => ty.plain || ty = tyDyn
  | .atom ty op _ _ _ _ _ _ _ | .red ty op _ _ _ _ _ _ _ => atomTy op ty
  | .atomc ty _ _ _ _ _ _ _ => ty.word
  | .cpyf ty _ _ _ _ _ _ _ => ty.intX1
  | .cpyq ty op _ _ _ _ _ _ _ _ _ _ => cpyqTy op ty
  | .acrd ty _ _ _ _ _ _ | .acwr ty _ _ _ _ _ => ty.floatX1
  | .flagw ty _ _ _ _ => ty.word
  | .logm ty _ _ _ => ty.word
  | _ => true

/-! ## Forms -/

/-- An operand that portable words encode (R58). -/
def Opnd.portable : Opnd → Bool
  | .ref d => d ≠ 0
  | .nat _ => false
  | _ => true

def Target.wf (t : Target) : Bool := t.args.length ≤ 64 && t.args.all Opnd.portable

/-- Spaces an instruction may name (R46, R258, R279, R336). -/
def Space.isPC : Space → Bool
  | .const | .param => true
  | _ => false
def Space.gh (s : Space) : Bool := s = .global || s = .host
/-- A job's source (R279). -/
def Space.jobSrc (s : Space) : Bool := s ≠ .param
/-- A job's destination (R279). -/
def Space.jobDst (s : Space) : Bool := !s.isPC
/-- The spaces of the matrix instructions (R357, R359, R360). -/
def Space.mat (s : Space) : Bool := s = .global || s = .scratch || s = .cluster || s = .const
def Space.sc (s : Space) : Bool := s = .scratch || s = .cluster

def Ord.loadOk : Ord → Bool
  | .none | .acq _ => true
  | _ => false
def Ord.storeOk : Ord → Bool
  | .none | .rel _ => true
  | _ => false

/-- The atomics of host space (R336). -/
def hostAtomOk (space : Space) (op : AtomOp) (t : Ty) : Bool :=
  space ≠ .host || ((op = .add || op = .exch) && t.word)

def Sparsity.ok : Sparsity → Bool
  | .dense => true
  | .of4 n => n.val ≠ 0
  | .of8 n => n.val ≠ 0
  | .of16 n => n.val ≠ 0

/-- An immediate within bounds, as a signed number (R58). -/
def Opnd.immIn (lo hi : Int) : Opnd → Bool
  | .imm v => lo ≤ v.toInt && v.toInt ≤ hi
  | _ => true

def Opnd.isImm : Opnd → Bool
  | .imm _ => true
  | _ => false
def Opnd.isRef : Opnd → Bool
  | .ref _ => true
  | _ => false
def Opnd.isSym : Opnd → Bool
  | .sym _ => true
  | _ => false
/-- A value or a K = 01 immediate (R199, R201, R348, R355, R357, R360). -/
def Opnd.refOrImm (o : Opnd) : Bool := o.isImm || o.isRef

/-- Operands of the instruction in word order, edge arguments included; the words that name resources, symbols, masks,
offsets and immediates of fixed meaning are not among them. -/
def Instr.opnds : Instr → List Opnd
  | .br _ t => t.args
  | .brc _ _ c t f => c :: t.args ++ f.args
  | .switch _ i d cs => i :: d.args ++ (cs.map Target.args).flatten
  | .call _ _ args => args
  | .retValue v => [v]
  | .select _ _ c a b => [c, a, b]
  | .joinCond _ c | .leaveCond _ c | .vote _ c _ | .voteBallot c _ _ => [c]
  | .add _ _ _ _ a b | .sub _ _ _ _ a b | .mul _ _ _ _ a b | .mulhi _ _ _ a b | .div _ _ _ _ _ a b | .rem _ _ _ _ a b
  | .min _ _ _ a b | .max _ _ _ a b | .and _ _ a b | .or _ _ a b | .xor _ _ a b | .shl _ _ a b | .shr _ _ _ a b
  | .rot _ _ a b | .cmp _ _ _ _ a b | .lea _ _ a b _ | .fadd _ _ _ _ a b | .fsub _ _ _ _ a b | .fmul _ _ _ _ a b
  | .fmin _ _ a b | .fmax _ _ a b | .fcmp _ _ _ a b | .fdiv _ _ _ _ a b | .fldx _ _ _ _ a b => [a, b]
  | .mad _ _ _ _ a b c | .fma _ _ _ _ a b c | .pdot _ _ _ _ _ a b c => [a, b, c]
  | .neg _ _ _ _ a | .abs _ _ _ a | .not _ _ a | .clz _ _ a | .popc _ _ a | .brev _ _ a | .cvti _ _ _ _ a
  | .fabs _ _ a | .fneg _ _ a | .fsqrt _ _ _ _ a | .frcp _ _ _ _ a | .frsq _ _ _ _ a | .fexp2 _ _ _ _ a | .flog2 _ _ _ _ a
  | .fsin _ _ _ _ a | .fcos _ _ _ _ a | .ftanh _ _ _ _ a | .fsig _ _ _ _ a | .frnd _ _ _ a | .fcvt _ _ _ _ a
  | .f2i _ _ _ _ _ a | .i2f _ _ _ _ _ a | .fclass _ _ a | .pwid _ _ _ _ _ _ a | .cbdec _ _ _ a _ | .cbenc _ _ a _
  | .ftagGet _ a => [a]
  | .bfx _ _ _ x o l => [x, o, l]
  | .bfi _ _ x i o l => [x, i, o, l]
  | .cst _ v => [v]
  | .shfl _ _ _ x s _ => [x, s]
  | .bcast _ x s _ => [x, s]
  | .bcastFirst _ x _ | .scan _ _ _ _ x _ | .wred _ _ _ x _ => [x]
  | .pnar _ _ _ _ _ _ xs => xs
  | .ftag _ x t => [x, t]
  | .ld _ _ _ _ a _ | .ldb _ _ _ _ a _ | .prefetch _ _ a _ | .cctl _ a _ => [a]
  | .st _ _ _ _ a v _ | .stb _ _ _ _ a v _ | .atom _ _ _ _ _ _ a v _ | .red _ _ _ _ _ _ a v _ => [a, v]
  | .atomc _ _ _ _ a c n _ => [a, c, n]
  | .gld _ _ _ _ d b h cs _ _ | .gst _ _ _ _ d b h cs _ _ => [d, b, h] ++ cs
  | .shp d | .shpFree d => [d]
  | .taddr b h cs => [b, h] ++ cs
  | .ldt _ _ _ h a => [h, a]
  | .cpy _ _ _ d s l _ _ => [d, s, l]
  | .cpyShape _ _ _ _ d s h _ _ => [d, s, h]
  | .cpyf _ _ _ d l p _ _ => [d, l, p]
  | .cpyq _ _ _ _ _ _ _ d s n _ _ => [d, s, n]
  | .cjoin k m => [k, m]
  | .cmap m => [m]
  | .orsv _ _ _ _ _ k _ _ => [k]
  | .orel r | .arel r | .acwrZero r => [r]
  | .ofill _ _ r a s | .bfill _ r a s | .sclq _ r a s => [r, a, s]
  | .cbldAddr _ _ _ a => [a]
  | .mma a x y _ | .mmsp a x y _ => [a, x, y]
  | .acrd _ _ _ _ a r c => [a, r, c]
  | .acwr _ _ a r c v => [a, r, c, v]
  | .cvset _ n => [n]
  | .barv _ c | .bars _ c | .bmem _ _ c => c.toList
  | .barw _ g => [g]
  | .sleep _ n => [n]
  | .flagw _ _ _ a v => [a, v]
  | .launch _ r => [r]
  | .migrate _ a => [a]
  | .tprfHandle _ h _ => [h]
  | .watch _ b l => [b, l]
  | .unwatch i => [i]
  | .logm _ _ v _ => [v]
  | _ => []

/-- Operand forms, modifiers and counts (R67). -/
def Instr.formOk (i : Instr) : Bool :=
  i.opnds.all Opnd.portable &&
  match i with
  | .br _ t => t.wf
  | .brc _ _ _ t f => t.wf && f.wf
  | .switch _ _ d cs => d.wf && cs.all Target.wf && i.opnds.length + cs.length + 1 ≤ 256
  | .call _ _ args => args.length ≤ 255
  | .cst t v =>
    match v with
    | .imm x => t ≠ tyP || x = 0 || x = 1
    | .lit32 x => t.bits ≤ 32 && (t ≠ tyP || x = 0 || x = 1) && decide (x.toNat < 2 ^ t.bits)
    | .lit64 _ => t.bits = 64
    | _ => false
  | .sreg ty sel => ty = sregTy sel
  | .cvti ty sgn _ _ _ => ty.fmt ≠ .i4 || sgn
  | .f2i ty sgn _ _ _ _ => ty.fmt ≠ .i4 || sgn
  | .scan _ op sgn _ _ _ | .wred _ op sgn _ _ => !sgn || op = .min || op = .max
  | .pdot ty sgn _ _ _ _ _ _ => !sgn || ty.isInt || ty.fmt = .i4 || ty = tyDyn
  | .pwid ty df sgn _ part _ _ =>
    (ty.fmt ≠ .i4 || sgn) && (ty = tyDyn || part.val < ty.count / pwidCount ty.count df)
  | .pnar ty sgn _ _ _ _ xs => (xs.length = 1 || xs.length = 2 || xs.length = 4) && (ty.fmt ≠ .i4 || sgn)
  | .cbdec ty hi _ _ _ => !hi || (ty.fmt = .cb4 && ty.pack = .x8)
  | .ld _ space na _ _ _ => !na || space.gh
  | .st _ space na _ _ _ _ => (!na || space.gh) && !space.isPC
  | .ldt space na _ _ _ => (!na || space.gh) && space ≠ .param
  | .ldb _ ord space _ _ _ => ord.loadOk && !space.isPC
  | .stb _ ord space _ _ _ _ => ord.storeOk && !space.isPC
  | .prefetch _ space _ _ => space.gh
  | .atom ty op sgn _ space _ _ _ _ => !space.isPC && (!sgn || op = .min || op = .max) && hostAtomOk space op ty
  | .atomc _ _ space _ _ _ _ _ => !space.isPC
  | .red _ op sgn ord space _ _ _ _ =>
    !space.isPC && space ≠ .host && ord.storeOk && (!sgn || op = .min || op = .max) && op ≠ .exch && op ≠ .inc && op ≠ .dec
  | .gld _ _ ss ds _ _ _ cs _ _ => ss.gh && ds.sc && 1 ≤ cs.length && cs.length ≤ 10
  | .gst _ _ ss ds _ _ _ cs _ _ => ss.sc && ds.gh && 1 ≤ cs.length && cs.length ≤ 10
  | .taddr _ _ cs => 1 ≤ cs.length && cs.length ≤ 10
  | .cpy _ ss ds _ _ _ _ _ | .cpyShape _ _ ss ds _ _ _ _ _ => ss.jobSrc && ds.jobDst
  | .cpyf _ _ ds _ _ _ _ _ => ds.jobDst
  | .cpyq _ op sgn sat _ ss ds _ _ _ _ _ =>
    ss.jobSrc && ds.jobDst && (!sgn || op = .add || op = .min || op = .max) && (!sat || op = .add || op = .fadd)
  | .orsv side fmt _ rows32 sp k cbs _ =>
    k.refOrImm && (!side || (!rows32 && sp = .dense)) && sp.ok && (fmt = .cb4 || fmt = .cb6 || cbs.val = 0)
  | .ofill _ space _ _ x | .bfill space _ _ x | .sclq space _ _ x => space.mat && x.refOrImm
  | .cbldAddr _ space _ a => space.mat && !a.isSym
  | .cvset _ n => n.refOrImm && n.immIn 1 2048
  | .barv _ c | .bars _ c | .bmem _ _ c => c.all fun n => n.refOrImm && n.immIn 1 262144
  | .sleep val n => if val then n.isRef else n.isImm && n.immIn 0 1048575
  | _ => true

/-- A portable instruction: it has an opcode of R66. -/
def Instr.isPortable : Instr → Bool
  | .rgn .. | .ckst .. | .ckld .. | .vsp .. | .vfl .. | .rotWindow .. | .waitc .. | .mvw .. | .mvz .. | .qpsh .. | .qpop ..
  | .bundleStep .. | .loadComplete .. | .schedulerIssue .. | .firmwareCredit .. | .fairnessTimerExpiry .. | .hang ..
  | .sleepWake .. | .flagwRepoll .. | .translationDemand .. | .translationServe .. | .translationComplete ..
  | .hqDoorbell .. | .hqEnable .. | .hqDisable .. | .packetRead .. | .launchAccept .. | .launchCompletion ..
  | .walkerDispatch .. | .splitRequest .. | .split .. | .drainNotice .. | .unitBlocked .. | .priorityPreemption ..
  | .timeSlice .. | .preemption .. | .resumePlacement .. | .parkResume .. | .landedWarpPlacement .. | .warpRestart ..
  | .workgroupRelease .. | .jobStart .. | .jobComplete .. | .tileOpComplete .. | .scaleEntryArrival .. | .sliceWrite ..
  | .lineFill .. | .pageWalk .. | .faultRecordPost .. | .faultRetry .. | .faultFail .. | .tlbInvalidate ..
  | .tlbInvalidateComplete .. | .detWindowRelease .. | .snapshotArm .. | .snapshotBackgroundCopy .. | .faultFrame ..
  | .disposition .. | .handlerReturn .. | .coreDump .. | .dwReadValue .. | .dwWriteValue .. | .dwReadControl ..
  | .dwResume .. | .debugDetach .. | .uncorrectable .. | .dieReset .. | .dieEnable .. | .flrPf .. | .flrVf ..
  | .ctxLoad .. | .ctxTeardown .. | .ctxSave .. | .ctxRestore .. | .smpArm .. | .smpDisarm .. | .smpLimitRaise ..
  | .sampleTag .. | .sampleRecord .. | .fwwdtKick .. | .fwwdtFire .. | .correctedError .. | .shardRestore ..
  | .packageBoot .. | .xbsCfgWrite .. | .lockInterface .. | .startInterface .. | .stopInterface .. | .ideKmKey ..
  | .spdmGetMeasurements .. | .spdmGetCertificate .. | .spdmChallenge .. | .spdmKeyExchange .. | .pldmPowerLimit ..
  | .pldmFirmwareUpdate .. | .pldmSensorRead .. | .hostPortTrain .. | .registerWrite .. | .coreReturnedToService ..
  | .scrubComplete .. | .backingStoreFetch .. => false
  | _ => true

/-- A well-formed portable instruction. -/
def Instr.wf (i : Instr) : Bool := i.isPortable && i.typeOk && i.formOk

end Sys2Proof
end

