-- ==== Sys2Proof/Decode.lean ====
section
/-! DEFINITION. Sys2Proof/Decode.lean: the decoder of portable instructions (R56-R60, R66, R67), total on any words and
rejecting by event code; the encoder after it. -/

namespace Sys2Proof

open Machine

/-! ## Operand words -/

/-- An operand word before the instruction's shape is known. -/
inductive Raw where
  | o (x : Opnd)
  | blk (argc : BitVec 9) (idx : BitVec 20)
  deriving DecidableEq, Repr

/-- One operand word with its literal (R58-R60); none is VERIFY. -/
def parseOp : List W32 → Option (Raw × List W32)
  | [] => none
  | w :: ws =>
    let body : BitVec 30 := w.extractLsb' 0 30
    match (w.extractLsb' 30 2).toNat with
    | 0 => if body = 0 then none else some (.o (.ref body), ws)
    | 1 => some (.o (.imm body), ws)
    | 2 =>
      if (w.extractLsb' 29 1) = 0 then
        if (w.extractLsb' 20 9).toNat ≤ 64 then some (.blk (w.extractLsb' 20 9) (w.extractLsb' 0 20), ws) else none
      else some (.o (.sym (w.extractLsb' 0 29)), ws)
    | _ =>
      if body = 0 then (match ws with | l :: ws' => some (.o (.lit32 l), ws') | _ => none)
      else if body = 1 then (match ws with | l :: h :: ws' => some (.o (.lit64 (h ++ l)), ws') | _ => none)
      else none

def parseOps : Nat → List W32 → Option (List Raw × List W32)
  | 0, ws => some ([], ws)
  | n + 1, ws =>
    match parseOp ws with
    | none => none
    | some (r, ws') =>
      match parseOps n ws' with
      | none => none
      | some (rs, ws'') => some (r :: rs, ws'')

/-- Operands only: none when a block word stands among them. -/
def rawArgs : List Raw → Option (List Opnd)
  | [] => some []
  | .o x :: rs => (rawArgs rs).map (x :: ·)
  | .blk .. :: _ => none

/-- A block word and its arguments (R59). -/
def takeTarget : List Raw → Option (Target × List Raw)
  | .blk n b :: rs =>
    if n.toNat ≤ rs.length then
      match rawArgs (rs.take n.toNat) with
      | some as => some ({ block := b, args := as }, rs.drop n.toNat)
      | none => none
    else none
  | _ => none

/-- The targets of a `switch`, by fuel. -/
def takeTargets : Nat → List Raw → Option (List Target)
  | _, [] => some []
  | 0, _ => none
  | f + 1, rs =>
    match takeTarget rs with
    | some (t, rs') => (takeTargets f rs').map (t :: ·)
    | none => none

/-! ## Fields of MOD -/

def mb (m i : Nat) : Bool := m.testBit i
def mf (m lo w : Nat) : Nat := (m >>> lo) % 2 ^ w
/-- No bit outside the mask is set. -/
def modIn (mask m : Nat) : Bool := m &&& mask = m

def fin? (n : Nat) (x : Nat) : Option (Fin n) := if h : x < n then some ⟨x, h⟩ else none

/-- An immediate word that holds an index. -/
def rawFin (n : Nat) : Raw → Option (Fin n)
  | .o (.imm v) => fin? n v.toNat
  | _ => none

/-- The mask of `.pred` (R139): the last word when MOD[14] is set. -/
def splitPred (m : Nat) (rs : List Raw) : Option (Pred × List Raw) :=
  if mb m 14 then
    match rs.getLast? with
    | some r => (rawFin 12 r).map fun k => (some k, rs.dropLast)
    | none => none
  else some (none, rs)

def un (mask m : Nat) (rs : List Raw) (f : Pred → Opnd → Instr) : Option Instr :=
  if modIn mask m then (match splitPred m rs with | some (p, [.o a]) => some (f p a) | _ => none) else none

def bin (mask m : Nat) (rs : List Raw) (f : Pred → Opnd → Opnd → Instr) : Option Instr :=
  if modIn mask m then (match splitPred m rs with | some (p, [.o a, .o b]) => some (f p a b) | _ => none) else none

def ter (mask m : Nat) (rs : List Raw) (f : Pred → Opnd → Opnd → Opnd → Instr) : Option Instr :=
  if modIn mask m then (match splitPred m rs with | some (p, [.o a, .o b, .o c]) => some (f p a b c) | _ => none) else none

/-- `%addr[, off]` after the predicate is split off. -/
def addrOff (p : Option (Pred × List Raw)) (f : Pred → Opnd → Option (BitVec 30) → Option Instr) : Option Instr :=
  match p with
  | some (p, [.o a]) => f p a none
  | some (p, [.o a, .o (.imm v)]) => f p a (some v)
  | _ => none

def addrValOff (p : Option (Pred × List Raw)) (f : Pred → Opnd → Opnd → Option (BitVec 30) → Option Instr) : Option Instr :=
  match p with
  | some (p, [.o a, .o v]) => f p a v none
  | some (p, [.o a, .o v, .o (.imm o)]) => f p a v (some o)
  | _ => none

def nullary (m : Nat) (rs : List Raw) (i : Instr) : Option Instr := if m = 0 && rs = [] then some i else none

def Space.ofCode? (c : Nat) : Option Space :=
  match c with
  | 0 => some .global | 1 => some .scratch | 2 => some .cluster | 3 => some .const | 4 => some .param | 5 => some .host
  | _ => none
def Space.code : Space → Nat
  | .global => 0 | .scratch => 1 | .cluster => 2 | .const => 3 | .param => 4 | .host => 5

def Scope.ofCode? (c : Nat) : Option Scope :=
  match c with
  | 0 => some .core | 1 => some .cluster | 2 => some .die | 3 => some .package | 4 => some .domain | 5 => some .system
  | _ => none
def Scope.code : Scope → Nat
  | .core => 0 | .cluster => 1 | .die => 2 | .package => 3 | .domain => 4 | .system => 5

/-- ORD and SCOPE of R336. -/
def Ord.ofMod? (m : Nat) : Option Ord :=
  match Scope.ofCode? (mf m 11 3), mf m 9 2 with
  | some .core, 0 => some .none
  | some s, 1 => some (.acq s)
  | some s, 2 => some (.rel s)
  | some s, 3 => some (.acqrel s)
  | _, _ => Option.none
def Ord.mod : Ord → Nat
  | .none => 0
  | .acq s => s.code * 2048 + 512
  | .rel s => s.code * 2048 + 1024
  | .acqrel s => s.code * 2048 + 1536

def Cond.ofCode? (c : Nat) : Option Cond :=
  match c with
  | 0 => some .eq | 1 => some .ne | 2 => some .lt | 3 => some .le | 4 => some .gt | 5 => some .ge | _ => none
def Cond.code : Cond → Nat
  | .eq => 0 | .ne => 1 | .lt => 2 | .le => 3 | .gt => 4 | .ge => 5

def FCond.ofCode? (c : Nat) : Option FCond :=
  match c with
  | 0 => some .eq | 1 => some .ne | 2 => some .lt | 3 => some .le | 4 => some .gt | 5 => some .ge | 6 => some .ord
  | 7 => some .uno | _ => none
def FCond.code : FCond → Nat
  | .eq => 0 | .ne => 1 | .lt => 2 | .le => 3 | .gt => 4 | .ge => 5 | .ord => 6 | .uno => 7

def ScanOp.ofCode? (c : Nat) : Option ScanOp :=
  match c with
  | 0 => some .add | 1 => some .min | 2 => some .max | 3 => some .and | 4 => some .or | 5 => some .xor | 6 => some .fadd
  | 7 => some .fmin | 8 => some .fmax | _ => none
def ScanOp.code : ScanOp → Nat
  | .add => 0 | .min => 1 | .max => 2 | .and => 3 | .or => 4 | .xor => 5 | .fadd => 6 | .fmin => 7 | .fmax => 8

def AtomOp.ofCode? (c : Nat) : Option AtomOp :=
  match c with
  | 0 => some .add | 1 => some .min | 2 => some .max | 3 => some .and | 4 => some .or | 5 => some .xor | 6 => some .exch
  | 7 => some .inc | 8 => some .dec | 9 => some .fadd | 10 => some .fmin | 11 => some .fmax | _ => none
def AtomOp.code : AtomOp → Nat
  | .add => 0 | .min => 1 | .max => 2 | .and => 3 | .or => 4 | .xor => 5 | .exch => 6 | .inc => 7 | .dec => 8 | .fadd => 9
  | .fmin => 10 | .fmax => 11

def CpyqOp.ofCode? (c : Nat) : Option CpyqOp :=
  match c with
  | 0 => some .add | 1 => some .min | 2 => some .max | 3 => some .fadd | 4 => some .fmin | 5 => some .fmax | _ => none
def CpyqOp.code : CpyqOp → Nat
  | .add => 0 | .min => 1 | .max => 2 | .fadd => 3 | .fmin => 4 | .fmax => 5

def CctlOp.ofCode? (c : Nat) : Option CctlOp :=
  match c with
  | 0 => some .wb | 1 => some .evict | 2 => some .zero | 3 => some .cold | _ => none
def CctlOp.code : CctlOp → Nat
  | .wb => 0 | .evict => 1 | .zero => 2 | .cold => 3

def MFmt.ofCode? (c : Nat) : Option MFmt :=
  match c with
  | 2 => some .b8 | 6 => some .f16 | 7 => some .bf16 | 10 => some .e4m3 | 11 => some .e5m2 | 12 => some .i4 | 13 => some .cb4
  | 14 => some .cb6 | _ => none
def MFmt.code : MFmt → Nat
  | .b8 => 2 | .f16 => 6 | .bf16 => 7 | .e4m3 => 10 | .e5m2 => 11 | .i4 => 12 | .cb4 => 13 | .cb6 => 14

def Blk.ofCode? (c : Nat) : Option Blk :=
  match c with
  | 0 => some .none | 1 => some .b16 | 2 => some .b32 | 3 => some .b64 | 4 => some .b128 | _ => Option.none
def Blk.code : Blk → Nat
  | .none => 0 | .b16 => 1 | .b32 => 2 | .b64 => 3 | .b128 => 4

def Sparsity.ofMod? (spm spn : Nat) : Option Sparsity :=
  match spm with
  | 0 => if spn = 0 then some .dense else none
  | 1 => (fin? 4 spn).map .of4
  | 2 => (fin? 8 spn).map .of8
  | _ => (fin? 16 spn).map .of16
def Sparsity.mod : Sparsity → Nat
  | .dense => 0
  | .of4 n => 16 + n.val
  | .of8 n => 32 + n.val
  | .of16 n => 48 + n.val

def Hint.ofCode (c : Nat) : Hint := match c with | 1 => .likely | 2 => .unlikely | 3 => .uniform | _ => .none
def Hint.code : Hint → Nat | .none => 0 | .likely => 1 | .unlikely => 2 | .uniform => 3

def ShflMode.ofCode (c : Nat) : ShflMode := match c with | 0 => .idx | 1 => .up | 2 => .down | _ => .xor
def ShflMode.code : ShflMode → Nat | .idx => 0 | .up => 1 | .down => 2 | .xor => 3

def RndMode.ofCode (c : Nat) : RndMode := match c with | 0 => .ne | 1 => .rz | 2 => .rp | _ => .rm
def RndMode.code : RndMode → Nat | .ne => 0 | .rz => 1 | .rp => 2 | .rm => 3

/-! ## The opcode grid, row by row -/

/-- Row 0 of R66: R186-R195. -/
def build0 (lo : Nat) (ty : Ty) (m : Nat) (rs : List Raw) : Option Instr :=
  match lo with
  | 0 => nullary m rs .nop
  | 1 =>
    if modIn 1 m then (match takeTarget rs with | some (t, []) => some (.br (mb m 0) t) | _ => none) else none
  | 2 =>
    if modIn 7 m then
      match rs with
      | .o c :: rs' =>
        match takeTarget rs' with
        | some (t, rs'') =>
          match takeTarget rs'' with
          | some (f, []) => some (.brc (Hint.ofCode (mf m 1 2)) (mb m 0) c t f)
          | _ => none
        | none => none
      | _ => none
    else none
  | 3 =>
    if m = 0 || m = 6 then
      match rs with
      | .o i :: rs' =>
        match takeTargets rs'.length rs' with
        | some (d :: cs) => some (.switch (m = 6) i d cs)
        | _ => none
      | _ => none
    else none
  | 4 =>
    if m = 0 then
      match rs with
      | .o (.sym f) :: rs' => (rawArgs rs').map (.call ty f)
      | _ => none
    else none
  | 5 =>
    if m = 0 then (match rs with | [] => some .ret | [.o v] => some (.retValue v) | _ => none) else none
  | 6 => nullary m rs .exit
  | 7 => nullary m rs .unreachable
  | 8 => ter 0x4000 m rs (fun p c a b => .select ty p c a b)
  | 9 => nullary m rs .regn
  | 10 => nullary m rs .yield
  | 11 | 12 =>
    if m = 0 then
      match rs with
      | [k] => if ty = tyVoid then (rawFin 12 k).map (if lo = 11 then .join else .leave) else none
      | [k, .o c] => if ty = tyP then (rawFin 12 k).map (fun k => if lo = 11 then .joinCond k c else .leaveCond k c) else none
      | _ => none
    else none
  | 13 => if m = 0 then (match rs with | [k] => (rawFin 12 k).map .waitm | _ => none) else none
  | 14 =>
    if m = 0 then
      match rs with
      | [k] => if ty = tyP then (rawFin 12 k).map .mrdP else none
      | [k, h] =>
        if ty = tyB64 then (match rawFin 12 k, rawFin 2 h with | some k, some h => some (.mrdB64 k h) | _, _ => none) else none
      | _ => none
    else none
  | _ =>
    if modIn 3 m then
      match rs with
      | [.o c, k] =>
        if m = 3 then none
        else (rawFin 12 k).map (.vote (match m with | 0 => .any | 1 => .all | _ => .uni) c)
      | [.o c, h, k] =>
        if m = 3 then (match rawFin 2 h, rawFin 12 k with | some h, some k => some (.voteBallot c h k) | _, _ => none) else none
      | _ => none
    else none

/-- Row 1: R144, R147. -/
def build1 (lo : Nat) (ty : Ty) (m : Nat) (rs : List Raw) : Option Instr :=
  let s := mb m 0
  let t := mb m 1
  match lo with
  | 0 => bin 0x4003 m rs (fun p a b => .add ty s t p a b)
  | 1 => bin 0x4003 m rs (fun p a b => .sub ty s t p a b)
  | 2 => bin 0x4003 m rs (fun p a b => .mul ty s t p a b)
  | 3 => bin 0x4001 m rs (fun p a b => .mulhi ty s p a b)
  | 4 => ter 0x4003 m rs (fun p a b c => .mad ty s t p a b c)
  | 5 => bin 0x4007 m rs (fun p a b => .div ty s t (mb m 2) p a b)
  | 6 => bin 0x4005 m rs (fun p a b => .rem ty s (mb m 2) p a b)
  | 7 => un 0x4003 m rs (fun p a => .neg ty s t p a)
  | 8 => un 0x4002 m rs (fun p a => .abs ty t p a)
  | 9 => bin 0x4001 m rs (fun p a b => .min ty s p a b)
  | 10 => bin 0x4001 m rs (fun p a b => .max ty s p a b)
  | 11 => bin 0x4000 m rs (fun p a b => .and ty p a b)
  | 12 => bin 0x4000 m rs (fun p a b => .or ty p a b)
  | 13 => bin 0x4000 m rs (fun p a b => .xor ty p a b)
  | 14 => un 0x4000 m rs (fun p a => .not ty p a)
  | _ => bin 0x4000 m rs (fun p a b => .shl ty p a b)

/-- Row 2: R146-R158. -/
def build2 (lo : Nat) (ty : Ty) (m : Nat) (rs : List Raw) : Option Instr :=
  let s := mb m 0
  match lo with
  | 0 => bin 0x4001 m rs (fun p a b => .shr ty s p a b)
  | 1 => bin 0x4000 m rs (fun p a b => .rot ty p a b)
  | 2 => un 0x4000 m rs (fun p a => .clz ty p a)
  | 3 => un 0x4000 m rs (fun p a => .popc ty p a)
  | 4 => ter 0x4001 m rs (fun p a b c => .bfx ty s p a b c)
  | 5 =>
    if modIn 0x4000 m then
      match splitPred m rs with
      | some (p, [.o a, .o b, .o c, .o d]) => some (.bfi ty p a b c d)
      | _ => none
    else none
  | 6 => un 0x4000 m rs (fun p a => .brev ty p a)
  | 7 =>
    match Cond.ofCode? (mf m 2 3) with
    | some c => bin 0x401D m rs (fun p a b => .cmp ty c s p a b)
    | none => none
  | 8 =>
    if modIn 0x4001 m then
      match splitPred m rs with
      | some (p, [.o a, .o b, k]) => (rawFin 8 k).map (.lea s p a b)
      | _ => none
    else none
  | 9 => un 0x4003 m rs (fun p a => .cvti ty s (mb m 1) p a)
  | 10 => if m = 0 then (match rs with | [.o v] => some (.cst ty v) | _ => none) else none
  | 11 => if m = 0 then (match rs with | [r] => (rawFin 14 r).map (.sreg ty) | _ => none) else none
  | 12 =>
    if modIn 0x1F m then
      match rs with
      | [.o x, .o sel, k] =>
        match fin? 7 (mf m 2 3), rawFin 12 k with
        | some g, some k => some (.shfl ty (ShflMode.ofCode (mf m 0 2)) g x sel k)
        | _, _ => none
      | _ => none
    else none
  | 13 =>
    if modIn 1 m then
      match rs with
      | [.o x, .o src, k] => if m = 0 then (rawFin 12 k).map (.bcast ty x src) else none
      | [.o x, k] => if m = 1 then (rawFin 12 k).map (.bcastFirst ty x) else none
      | _ => none
    else none
  | 14 =>
    match ScanOp.ofCode? (mf m 0 4) with
    | some op =>
      if modIn 0x3F m then
        match rs with
        | [.o x, k] => (rawFin 12 k).map (.scan ty op (mb m 4) (mb m 5) x)
        | _ => none
      else none
    | none => none
  | _ =>
    match ScanOp.ofCode? (mf m 0 4) with
    | some op =>
      if modIn 0x1F m then
        match rs with
        | [.o x, k] => (rawFin 12 k).map (.wred ty op (mb m 4) x)
        | _ => none
      else none
    | none => none

/-- Row 3: R160-R164, R167. -/
def build3 (lo : Nat) (ty : Ty) (m : Nat) (rs : List Raw) : Option Instr :=
  let s := mb m 0
  let z := mb m 1
  match lo with
  | 0 => bin 0x4003 m rs (fun p a b => .fadd ty s z p a b)
  | 1 => bin 0x4003 m rs (fun p a b => .fsub ty s z p a b)
  | 2 => bin 0x4003 m rs (fun p a b => .fmul ty s z p a b)
  | 3 => ter 0x4003 m rs (fun p a b c => .fma ty s z p a b c)
  | 4 => bin 0x4000 m rs (fun p a b => .fmin ty p a b)
  | 5 => bin 0x4000 m rs (fun p a b => .fmax ty p a b)
  | 6 => un 0x4000 m rs (fun p a => .fabs ty p a)
  | 7 => un 0x4000 m rs (fun p a => .fneg ty p a)
  | 8 =>
    match FCond.ofCode? (mf m 2 4) with
    | some c => bin 0x403C m rs (fun p a b => .fcmp ty c p a b)
    | none => none
  | 9 => bin 0x4003 m rs (fun p a b => .fdiv ty s z p a b)
  | 10 => un 0x4003 m rs (fun p a => .fsqrt ty s z p a)
  | 11 => un 0x4003 m rs (fun p a => .frcp ty s z p a)
  | 12 => un 0x4003 m rs (fun p a => .frsq ty s z p a)
  | 13 => un 0x4003 m rs (fun p a => .fexp2 ty s z p a)
  | 14 => un 0x4003 m rs (fun p a => .flog2 ty s z p a)
  | _ => un 0x4003 m rs (fun p a => .fsin ty s z p a)

/-- Row 4: R165-R176. -/
def build4 (lo : Nat) (ty : Ty) (m : Nat) (rs : List Raw) : Option Instr :=
  let s := mb m 0
  let z := mb m 1
  match lo with
  | 0 => un 0x4003 m rs (fun p a => .fcos ty s z p a)
  | 1 => un 0x4003 m rs (fun p a => .ftanh ty s z p a)
  | 2 => un 0x4003 m rs (fun p a => .fsig ty s z p a)
  | 3 => un 0x4006 m rs (fun p a => .frnd ty (RndMode.ofCode (mf m 1 2)) p a)
  | 4 => un 0x4003 m rs (fun p a => .fcvt ty s z p a)
  | 5 => un 0x4007 m rs (fun p a => .f2i ty (mb m 2) s z p a)
  | 6 => un 0x4007 m rs (fun p a => .i2f ty (mb m 2) s z p a)
  | 7 => un 0x4000 m rs (fun p a => .fclass ty p a)
  | 8 => ter 0x4007 m rs (fun p a b c => .pdot ty (mb m 2) s z p a b c)
  | 9 =>
    match fin? 4 (mf m 4 2) with
    | some part => un 0x43FC m rs (fun p a => .pwid ty (Fmt.ofCode (mf m 6 4)) (mb m 2) (mb m 3) part p a)
    | none => none
  | 10 =>
    if modIn 0x400F m then
      match splitPred m rs with
      | some (p, xs) => (rawArgs xs).map (.pnar ty (mb m 2) s z (mb m 3) p)
      | none => none
    else none
  | 11 =>
    if modIn 0x4001 m then
      match splitPred m rs with
      | some (p, [.o a, k]) => (rawFin 8 k).map (.cbdec ty s p a)
      | _ => none
    else none
  | 12 =>
    if modIn 0x4000 m then
      match splitPred m rs with
      | some (p, [.o a, k]) => (rawFin 8 k).map (.cbenc ty p a)
      | _ => none
    else none
  | 13 => bin 0x4003 m rs (fun p a b => .fldx ty s z p a b)
  | 14 =>
    if modIn 0x4001 m then
      match splitPred m rs with
      | some (p, [.o a, .o t]) => if !s && ty = tyDyn then some (.ftag p a t) else none
      | some (p, [.o a]) => if s && ty = tyB32 then some (.ftagGet p a) else none
      | _ => none
    else none
  | _ => none

/-- Row 5: R258, R261, R276-R278, R292, R319, R336-R338. -/
def build5 (lo : Nat) (ty : Ty) (m : Nat) (rs : List Raw) : Option Instr :=
  let sp := Space.ofCode? (mf m 0 3)
  match lo with
  | 0 =>
    match sp with
    | some sp => if modIn 0x400F m then addrOff (splitPred m rs) (fun p a o => some (.ld ty sp (mb m 3) p a o)) else none
    | none => none
  | 1 =>
    match sp with
    | some sp => if modIn 0x400F m then addrValOff (splitPred m rs) (fun p a v o => some (.st ty sp (mb m 3) p a v o)) else none
    | none => none
  | 2 =>
    match sp, Ord.ofMod? m with
    | some sp, some ord => if modIn 0x7E07 m then addrOff (splitPred m rs) (fun p a o => some (.ldb ty ord sp p a o)) else none
    | _, _ => none
  | 3 =>
    match sp, Ord.ofMod? m with
    | some sp, some ord =>
      if modIn 0x7E07 m then addrValOff (splitPred m rs) (fun p a v o => some (.stb ty ord sp p a v o)) else none
    | _, _ => none
  | 4 =>
    match sp with
    | some sp => if modIn 0x17 m then addrOff (some (none, rs)) (fun _ a o => some (.prefetch (mb m 4) sp a o)) else none
    | none => none
  | 5 =>
    match CctlOp.ofCode? (mf m 4 3) with
    | some op => if modIn 0x70 m then addrOff (some (none, rs)) (fun _ a o => some (.cctl op a o)) else none
    | none => none
  | 6 =>
    match sp, Ord.ofMod? m, AtomOp.ofCode? (mf m 4 4) with
    | some sp, some ord, some op =>
      if modIn 0x7FF7 m then addrValOff (splitPred m rs) (fun p a v o => some (.atom ty op (mb m 8) ord sp p a v o)) else none
    | _, _, _ => none
  | 7 =>
    match sp, Ord.ofMod? m with
    | some sp, some ord =>
      if modIn 0x7E07 m then
        match splitPred m rs with
        | some (p, [.o a, .o c, .o n]) => some (.atomc ty ord sp p a c n none)
        | some (p, [.o a, .o c, .o n, .o (.imm o)]) => some (.atomc ty ord sp p a c n (some o))
        | _ => none
      else none
    | _, _ => none
  | 8 =>
    match sp, Ord.ofMod? m, AtomOp.ofCode? (mf m 4 4) with
    | some sp, some ord, some op =>
      if modIn 0x7FF7 m then addrValOff (splitPred m rs) (fun p a v o => some (.red ty op (mb m 8) ord sp p a v o)) else none
    | _, _, _ => none
  | 9 =>
    match Scope.ofCode? (mf m 11 3), mf m 9 2 with
    | some s, 1 => if modIn 0x3E00 m && rs = [] then some (.fence .acq s) else none
    | some s, 2 => if modIn 0x3E00 m && rs = [] then some (.fence .rel s) else none
    | some s, 3 => if modIn 0x3E00 m && rs = [] then some (.fence .acqrel s) else none
    | _, _ => none
  | 10 => nullary m rs .phase
  | 11 | 12 =>
    match Scope.ofCode? (mf m 12 3), sp, Space.ofCode? (mf m 3 3) with
    | some sc, some ss, some ds =>
      if modIn 0x793F m then
        let (fp, rs') : Option (BitVec 29) × List Raw :=
          if mb m 11 then
            match rs.getLast? with
            | some (.o (.sym f)) => (some f, rs.dropLast)
            | _ => (none, [])
          else (none, rs)
        match rs'.getLast? with
        | some r =>
          match rawFin 64 r, rawArgs rs'.dropLast with
          | some tag, some (d :: b :: h :: cs) =>
            some (if lo = 11 then .gld (mb m 8) sc ss ds d b h cs tag fp else .gst (mb m 8) sc ss ds d b h cs tag fp)
          | _, _ => none
        | none => none
      else none
    | _, _, _ => none
  | 13 =>
    match rs with
    | [.o d] => if m = 0 && ty = tyB32 then some (.shp d) else if m = 1 && ty = tyVoid then some (.shpFree d) else none
    | _ => none
  | 14 =>
    if m = 0 then
      match rawArgs rs with
      | some (b :: h :: cs) => some (.taddr b h cs)
      | _ => none
    else none
  | _ =>
    match sp with
    | some sp =>
      if modIn 0x400F m then
        match splitPred m rs with
        | some (p, [.o h, .o a]) => some (.ldt sp (mb m 3) p h a)
        | _ => none
      else none
    | none => none

/-- The tag and footprint that end a job's operands (R279). -/
def jobTail (m : Nat) (rs : List Raw) : Option (Fin 64 × Option (BitVec 29)) :=
  match rs with
  | [r] => if mb m 11 then none else (rawFin 64 r).map fun t => (t, none)
  | [r, .o (.sym f)] => if mb m 11 then (rawFin 64 r).map fun t => (t, some f) else none
  | _ => none

/-- Row 6: R263-R265, R272, R273, R289-R291. -/
def build6 (lo : Nat) (ty : Ty) (m : Nat) (rs : List Raw) : Option Instr :=
  match lo with
  | 0 =>
    match Scope.ofCode? (mf m 12 3), Space.ofCode? (mf m 0 3), Space.ofCode? (mf m 3 3), rs with
    | some sc, some ss, some ds, .o d :: .o s :: .o l :: rs' =>
      match jobTail m rs' with
      | some (tag, fp) =>
        if modIn 0x783F m then some (.cpy sc ss ds d s l tag fp)
        else if modIn 0x7B3F m && mb m 8 then some (.cpyShape (mb m 9) sc ss ds d s l tag fp)
        else none
      | none => none
    | _, _, _, _ => none
  | 1 => if modIn 1 m then (match rs with | [r] => (rawFin 64 r).map (.cpyw (mb m 0)) | _ => none) else none
  | 2 =>
    match Scope.ofCode? (mf m 12 3), Space.ofCode? (mf m 3 3), rs with
    | some sc, some ds, .o d :: .o l :: .o p :: rs' =>
      match jobTail m rs' with
      | some (tag, fp) => if modIn 0x7838 m then some (.cpyf ty sc ds d l p tag fp) else none
      | none => none
    | _, _, _ => none
  | 3 =>
    match Scope.ofCode? (mf m 12 3), Space.ofCode? (mf m 0 3), Space.ofCode? (mf m 3 3), CpyqOp.ofCode? (mf m 8 3), rs with
    | some sc, some ss, some ds, some op, .o d :: .o s :: .o n :: rs' =>
      match jobTail m rs' with
      | some (tag, fp) => some (.cpyq ty op (mb m 7) (mb m 6) sc ss ds d s n tag fp)
      | none => none
    | _, _, _, _, _ => none
  | 4 => if m = 0 then (match rs with | [.o k, .o x] => some (.cjoin k x) | _ => none) else none
  | 5 => nullary m rs .cleave
  | 6 => if m = 0 then (match rs with | [.o x] => some (.cmap x) | _ => none) else none
  | 7 =>
    if m = 0 then
      match rs with
      | [t, c] => (match rawFin 64 t, rawFin 4 c with | some t, some c => some (.colr t c) | _, _ => none)
      | _ => none
    else none
  | _ => none

/-- Row 7: R199, R355-R367, R371. -/
def build7 (lo : Nat) (ty : Ty) (m : Nat) (rs : List Raw) : Option Instr :=
  let sp := Space.ofCode? (mf m 0 3)
  match lo with
  | 0 =>
    match MFmt.ofCode? (mf m 10 4), Blk.ofCode? (mf m 7 3), Sparsity.ofMod? (mf m 4 2) (mf m 0 4), rs with
    | some f, some b, some s, [.o k, c, so] =>
      match rawFin 8 c, so with
      | some c, .o (.imm v) =>
        if v.toNat < 4096 then some (.orsv (mb m 14) f b (mb m 6) s k c (v.setWidth 12)) else none
      | _, _ => none
    | _, _, _, _ => none
  | 1 => if m = 0 then (match rs with | [.o r] => some (.orel r) | _ => none) else none
  | 2 =>
    match sp, rs with
    | some sp, [.o r, .o a, .o st] => if modIn 0xF m then some (.ofill (mb m 3) sp r a st) else none
    | _, _ => none
  | 3 =>
    match sp, rs with
    | some sp, [.o r, .o a, .o st] => if modIn 0x7 m then some (.bfill sp r a st) else none
    | _, _ => none
  | 4 =>
    match sp, rs with
    | some sp, [.o r, .o a, .o bi] => if modIn 0x7 m then some (.sclq sp r a bi) else none
    | _, _ => none
  | 5 =>
    match sp, rs with
    | some _, [c, .o (.sym f)] => if m = 0 then (rawFin 8 c).map (fun c => .cbld (ty.fmt = .cb6) c f) else none
    | some sp, [c, .o a] => if modIn 7 m then (rawFin 8 c).map (fun c => .cbldAddr (ty.fmt = .cb6) sp c a) else none
    | _, _ => none
  | 6 => if modIn 1 m && rs = [] then some (.aacq (mb m 0)) else none
  | 7 => if m = 0 then (match rs with | [.o a] => some (.arel a) | _ => none) else none
  | 8 | 9 =>
    if m = 0 then
      match rs with
      | [.o a, .o x, .o y] => some (if lo = 8 then .mma a x y none else .mmsp a x y none)
      | [.o a, .o x, .o y, r] => (rawFin 16 r).map fun c => if lo = 8 then .mma a x y (some c) else .mmsp a x y (some c)
      | _ => none
    else none
  | 10 => ter 0x4003 m rs (fun p a r c => .acrd ty (mb m 0) (mb m 1) p a r c)
  | 11 =>
    if m = 4 && ty = tyVoid then (match rs with | [.o a] => some (.acwrZero a) | _ => none)
    else if modIn 0x4000 m && ty ≠ tyVoid then
      match splitPred m rs with
      | some (p, [.o a, .o r, .o c, .o v]) => some (.acwr ty p a r c v)
      | _ => none
    else none
  | 12 => if m = 0 then (match rs with | [r] => (rawFin 16 r).map .sign | _ => none) else none
  | 13 => if m = 0 then (match rs with | [r, .o n] => (rawFin 16 r).map fun c => .cvset c n | _ => none) else none
  | 14 => nullary m rs .gsync
  | _ => if modIn 1 m && rs = [] then some (.mstat (mb m 0)) else none

/-- Row 9: R201, R202, R222, R348. -/
def build9 (lo : Nat) (ty : Ty) (m : Nat) (rs : List Raw) : Option Instr :=
  match lo with
  | 0 | 2 =>
    if m = 0 then
      match rs with
      | [r] => (rawFin 64 r).map fun n => if lo = 0 then .barv n none else .bars n none
      | [r, .o c] => (rawFin 64 r).map fun n => if lo = 0 then .barv n (some c) else .bars n (some c)
      | _ => none
    else none
  | 1 => if m = 0 then (match rs with | [r, .o g] => (rawFin 64 r).map fun n => .barw n g | _ => none) else none
  | 3 =>
    match Scope.ofCode? (mf m 11 3) with
    | some s =>
      if modIn 0x3800 m then
        match rs with
        | [r] => (rawFin 64 r).map fun n => .bmem s n none
        | [r, .o c] => (rawFin 64 r).map fun n => .bmem s n (some c)
        | _ => none
      else none
    | none => none
  | 4 => if ty = tyB64 then nullary m rs .prgqB64 else nullary m rs .prgqP
  | 5 => if m = 0 then (match rs with | [.o n] => some (.sleep (ty = tyB32) n) | _ => none) else none
  | 6 =>
    match Cond.ofCode? (mf m 2 3), rs with
    | some c, [.o a, .o v] => if modIn 0x1D m then some (.flagw ty c (mb m 0) a v) else none
    | _, _ => none
  | 7 => if m = 0 then (match rs with | [r] => (rawFin 64 r).map .bcnt | _ => none) else none
  | _ => none

/-- Row A: R225-R230. -/
def buildA (lo : Nat) (m : Nat) (rs : List Raw) : Option Instr :=
  match lo with
  | 0 => if modIn 1 m then (match rs with | [.o r] => some (.launch (mb m 0) r) | _ => none) else none
  | 1 => nullary m rs .ljoin
  | 2 => if m = 0 then (match rs with | [r] => (rawFin 5 r).map .lquery | _ => none) else none
  | 3 => nullary m rs .wsplit
  | 4 => if modIn 1 m then (match rs with | [.o a] => some (.migrate (mb m 0) a) | _ => none) else none
  | 5 => nullary m rs .wdone
  | _ => none

/-- A 16-bit immediate (R386, R387, R416). -/
def rawU16 : Raw → Option (BitVec 16)
  | .o (.imm v) => if v.toNat < 65536 then some (v.setWidth 16) else none
  | _ => none

/-- Row B: R138, R386, R387, R414-R418. -/
def buildB (lo : Nat) (ty : Ty) (m : Nat) (rs : List Raw) : Option Instr :=
  match lo with
  | 0 =>
    if modIn 0x4000 m then
      match splitPred m rs with
      | some (p, [c]) => (rawU16 c).map fun c => .trap c p
      | _ => none
    else none
  | 1 => if m = 0 then (match rs with | [c] => (rawU16 c).map .brkpt | _ => none) else none
  | 2 =>
    if m < 3 then
      let kinds : TprfKind := match m with | 0 => .own | 1 => .other | _ => .both
      match rs with
      | [.o (.sym f)] => if ty = tyVoid then some (.tprf kinds f) else none
      | [.o h, .o (.imm b)] =>
        if ty = tyB32 && b.toNat % 8 = 0 && 8 ≤ b.toNat then (fin? 16 (b.toNat / 8 - 1)).map (.tprfHandle kinds h) else none
      | _ => none
    else none
  | 3 => if modIn 1 m && rs = [] then some (.clock (mb m 0)) else none
  | 4 =>
    if rs = [] then (match m with | 0 => some (.smpl .on) | 1 => some (.smpl .off) | 2 => some (.smpl .now) | _ => none) else none
  | 5 => if modIn 1 m then (match rs with | [.o b, .o l] => some (.watch (mb m 0) b l) | _ => none) else none
  | 6 => if m = 0 then (match rs with | [.o i] => some (.unwatch i) | _ => none) else none
  | 7 =>
    if modIn 0x4000 m then
      match splitPred m rs with
      | some (p, [.o v, t]) => (rawU16 t).map fun t => .logm ty p v t
      | _ => none
    else none
  | _ => none

/-- An assigned opcode of R66. -/
def opAssigned (op : Nat) : Bool :=
  op < 0x4F || (0x50 ≤ op && op < 0x68) || (0x70 ≤ op && op < 0x80) || (0x90 ≤ op && op < 0x98) ||
  (0xA0 ≤ op && op < 0xA6) || (0xB0 ≤ op && op < 0xB8)

/-- TY legal and accepted by the opcode (R67). A `sreg` type is a VERIFY matter (R42). -/
def opType (op m : Nat) (t : Ty) : Bool :=
  t.legal &&
  match op with
  | 0x03 => t = tyB32
  | 0x04 => true
  | 0x08 => t.fmt ≠ .void
  | 0x0B | 0x0C => t = tyVoid || t = tyP
  | 0x0E => t = tyP || t = tyB64
  | 0x0F => if m % 4 = 3 then t = tyB64 else t = tyP
  | 0x10 | 0x11 | 0x12 | 0x13 | 0x14 | 0x15 | 0x16 | 0x17 | 0x18 | 0x19 | 0x1A | 0x1F | 0x20 | 0x21 | 0x22 | 0x23 | 0x26 => t.int
  | 0x1B | 0x1C | 0x1D | 0x1E => t.logic
  | 0x24 | 0x25 => t.word
  | 0x27 => t.intX1
  | 0x28 => t = tyB64
  | 0x29 => t.intI4
  | 0x2A => t.fmt ≠ .void && t.fmt ≠ .dyn
  | 0x2B => true
  | 0x2C | 0x2D => t.fmt ≠ .void
  | 0x2E | 0x2F => (match ScanOp.ofCode? (mf m 0 4) with | some o => scanTy o t | none => t.logic || t.floatDyn)
  | 0x30 | 0x31 | 0x32 | 0x33 | 0x34 | 0x35 | 0x36 | 0x37 | 0x43 | 0x4D => t.floatDyn
  | 0x38 | 0x47 => t.floatX1 || t = tyDyn
  | 0x39 | 0x3A | 0x3B => t.wideFloat
  | 0x3C | 0x3D | 0x3E | 0x3F | 0x40 | 0x41 | 0x42 => t.approxFloat
  | 0x44 | 0x46 => t.float
  | 0x45 => t.intI4
  | 0x48 => t.pdot || t = tyDyn
  | 0x49 =>
    let df := Fmt.ofCode (mf m 6 4)
    widePair t.fmt df || (t = tyDyn && df ∈ [.f16, .bf16, .f32, .b8, .b16, .b32])
  | 0x4A => t.fmt = .e4m3 || t.fmt = .e5m2 || t.fmt = .f16 || t.fmt = .bf16 || t.fmt = .i4 || t.fmt = .b8
  | 0x4B => t.fmt = .cb4 || t.fmt = .cb6
  | 0x4C => (t.fmt = .cb4 && t.pack ≠ .x8) || t.fmt = .cb6
  | 0x4E => if m % 2 = 1 then t = tyB32 else t = tyDyn
  | 0x50 | 0x52 | 0x53 => t.plain
  | 0x51 => t.plain || t = tyDyn
  | 0x56 | 0x58 => (match AtomOp.ofCode? (mf m 4 4) with | some o => atomTy o t | none => t.word || atomTy .fadd t)
  | 0x57 => t.word
  | 0x5D => if m % 2 = 1 then t = tyVoid else t = tyB32
  | 0x5E | 0x66 | 0x7F | 0x97 | 0xA2 | 0xB3 => t = tyB64
  | 0x5F => t = tyDyn
  | 0x61 | 0x64 | 0x70 | 0x76 | 0x92 | 0xA0 | 0xA1 | 0xA4 | 0xB5 => t = tyB32
  | 0x62 => t.intX1
  | 0x63 => (match CpyqOp.ofCode? (mf m 8 3) with | some o => cpyqTy o t | none => t.int || t.wideFloat)
  | 0x75 => t = { fmt := .cb4 } || t = { fmt := .cb6 }
  | 0x7A => t.floatX1
  | 0x7B => if mb m 2 then t = tyVoid else t.floatX1
  | 0x94 => t = tyB64 || t = tyP
  | 0x95 => t = tyVoid || t = tyB32
  | 0x96 | 0xB7 => t.word
  | 0xB2 => t = tyVoid || t = tyB32
  | _ => t = tyVoid

/-- The element format of an `orsv` (R355), a TYPE matter though MOD holds it. -/
def orsvTypeOk (op m : Nat) : Bool := op ≠ 0x70 || (MFmt.ofCode? (mf m 10 4)).isSome

def build (op : Nat) (ty : Ty) (m : Nat) (rs : List Raw) : Option Instr :=
  match op / 16 with
  | 0 => build0 (op % 16) ty m rs
  | 1 => build1 (op % 16) ty m rs
  | 2 => build2 (op % 16) ty m rs
  | 3 => build3 (op % 16) ty m rs
  | 4 => build4 (op % 16) ty m rs
  | 5 => build5 (op % 16) ty m rs
  | 6 => build6 (op % 16) ty m rs
  | 7 => build7 (op % 16) ty m rs
  | 9 => build9 (op % 16) ty m rs
  | 10 => buildA (op % 16) m rs
  | 11 => buildB (op % 16) ty m rs
  | _ => none

/-- The operand words after the header: their number, their list, and the words after them (R57). -/
def operandWords (no : Nat) (ws : List W32) : Option (Nat × List W32) :=
  if no < 7 then some (no, ws)
  else
    match ws with
    | c :: ws' => if c.toNat < 7 then none else some (c.toNat, ws')
    | [] => none

/-- Decode one portable instruction; the error is the event code that R54 reports, the lowest of its breaches. -/
def decodeWords : List W32 → Except Nat (Instr × List W32)
  | [] => .error evVerify
  | h :: ws =>
    let op := (h.extractLsb' 24 8).toNat
    let ty := Ty.ofCode (h.extractLsb' 18 6)
    let m := (h.extractLsb' 0 15).toNat
    if !opAssigned op then .error evIllegalOp
    else if !(opType op m ty && orsvTypeOk op m) then .error evType
    else
      match operandWords (h.extractLsb' 15 3).toNat ws with
      | none => .error evVerify
      | some (n, ws') =>
        match parseOps (Nat.min n 257) ws' with
        | none => .error (if 256 < n then evXlateLimit else evVerify)
        | some (rs, ws'') =>
          if 256 < n then .error evXlateLimit
          else
            match build op ty m rs with
            | some i => if i.wf then .ok (i, ws'') else .error evVerify
            | none => .error evVerify

/-! ## The encoder -/

/-- Header fields of a portable instruction: opcode, TY and MOD (R56). -/
def predMod (p : Pred) : Nat := if p.isSome then 16384 else 0

def Instr.head : Instr → Nat × Ty × Nat
  | .nop => (0x00, tyVoid, 0)
  | .br pipe _ => (0x01, tyVoid, pipe.toNat)
  | .brc h pipe _ _ _ => (0x02, tyVoid, h.code * 2 + pipe.toNat)
  | .switch u _ _ _ => (0x03, tyB32, if u then 6 else 0)
  | .call ty _ _ => (0x04, ty, 0)
  | .ret | .retValue _ => (0x05, tyVoid, 0)
  | .exit => (0x06, tyVoid, 0)
  | .unreachable => (0x07, tyVoid, 0)
  | .select ty p _ _ _ => (0x08, ty, predMod p)
  | .regn => (0x09, tyVoid, 0)
  | .yield => (0x0A, tyVoid, 0)
  | .join _ => (0x0B, tyVoid, 0)
  | .joinCond _ _ => (0x0B, tyP, 0)
  | .leave _ => (0x0C, tyVoid, 0)
  | .leaveCond _ _ => (0x0C, tyP, 0)
  | .waitm _ => (0x0D, tyVoid, 0)
  | .mrdP _ => (0x0E, tyP, 0)
  | .mrdB64 _ _ => (0x0E, tyB64, 0)
  | .vote mode _ _ => (0x0F, tyP, match mode with | .any => 0 | .all => 1 | .uni => 2)
  | .voteBallot _ _ _ => (0x0F, tyB64, 3)
  | .add ty s t p _ _ => (0x10, ty, predMod p + t.toNat * 2 + s.toNat)
  | .sub ty s t p _ _ => (0x11, ty, predMod p + t.toNat * 2 + s.toNat)
  | .mul ty s t p _ _ => (0x12, ty, predMod p + t.toNat * 2 + s.toNat)
  | .mulhi ty s p _ _ => (0x13, ty, predMod p + s.toNat)
  | .mad ty s t p _ _ _ => (0x14, ty, predMod p + t.toNat * 2 + s.toNat)
  | .div ty s t z p _ _ => (0x15, ty, predMod p + z.toNat * 4 + t.toNat * 2 + s.toNat)
  | .rem ty s z p _ _ => (0x16, ty, predMod p + z.toNat * 4 + s.toNat)
  | .neg ty s t p _ => (0x17, ty, predMod p + t.toNat * 2 + s.toNat)
  | .abs ty t p _ => (0x18, ty, predMod p + t.toNat * 2)
  | .min ty s p _ _ => (0x19, ty, predMod p + s.toNat)
  | .max ty s p _ _ => (0x1A, ty, predMod p + s.toNat)
  | .and ty p _ _ => (0x1B, ty, predMod p)
  | .or ty p _ _ => (0x1C, ty, predMod p)
  | .xor ty p _ _ => (0x1D, ty, predMod p)
  | .not ty p _ => (0x1E, ty, predMod p)
  | .shl ty p _ _ => (0x1F, ty, predMod p)
  | .shr ty s p _ _ => (0x20, ty, predMod p + s.toNat)
  | .rot ty p _ _ => (0x21, ty, predMod p)
  | .clz ty p _ => (0x22, ty, predMod p)
  | .popc ty p _ => (0x23, ty, predMod p)
  | .bfx ty s p _ _ _ => (0x24, ty, predMod p + s.toNat)
  | .bfi ty p _ _ _ _ => (0x25, ty, predMod p)
  | .brev ty p _ => (0x26, ty, predMod p)
  | .cmp ty c s p _ _ => (0x27, ty, predMod p + c.code * 4 + s.toNat)
  | .lea s p _ _ _ => (0x28, tyB64, predMod p + s.toNat)
  | .cvti ty s t p _ => (0x29, ty, predMod p + t.toNat * 2 + s.toNat)
  | .cst ty _ => (0x2A, ty, 0)
  | .sreg ty _ => (0x2B, ty, 0)
  | .shfl ty mode seg _ _ _ => (0x2C, ty, seg.val * 4 + mode.code)
  | .bcast ty _ _ _ => (0x2D, ty, 0)
  | .bcastFirst ty _ _ => (0x2D, ty, 1)
  | .scan ty op s e _ _ => (0x2E, ty, e.toNat * 32 + s.toNat * 16 + op.code)
  | .wred ty op s _ _ => (0x2F, ty, s.toNat * 16 + op.code)
  | .fadd ty s z p _ _ => (0x30, ty, predMod p + z.toNat * 2 + s.toNat)
  | .fsub ty s z p _ _ => (0x31, ty, predMod p + z.toNat * 2 + s.toNat)
  | .fmul ty s z p _ _ => (0x32, ty, predMod p + z.toNat * 2 + s.toNat)
  | .fma ty s z p _ _ _ => (0x33, ty, predMod p + z.toNat * 2 + s.toNat)
  | .fmin ty p _ _ => (0x34, ty, predMod p)
  | .fmax ty p _ _ => (0x35, ty, predMod p)
  | .fabs ty p _ => (0x36, ty, predMod p)
  | .fneg ty p _ => (0x37, ty, predMod p)
  | .fcmp ty c p _ _ => (0x38, ty, predMod p + c.code * 4)
  | .fdiv ty s z p _ _ => (0x39, ty, predMod p + z.toNat * 2 + s.toNat)
  | .fsqrt ty s z p _ => (0x3A, ty, predMod p + z.toNat * 2 + s.toNat)
  | .frcp ty s z p _ => (0x3B, ty, predMod p + z.toNat * 2 + s.toNat)
  | .frsq ty s z p _ => (0x3C, ty, predMod p + z.toNat * 2 + s.toNat)
  | .fexp2 ty s z p _ => (0x3D, ty, predMod p + z.toNat * 2 + s.toNat)
  | .flog2 ty s z p _ => (0x3E, ty, predMod p + z.toNat * 2 + s.toNat)
  | .fsin ty s z p _ => (0x3F, ty, predMod p + z.toNat * 2 + s.toNat)
  | .fcos ty s z p _ => (0x40, ty, predMod p + z.toNat * 2 + s.toNat)
  | .ftanh ty s z p _ => (0x41, ty, predMod p + z.toNat * 2 + s.toNat)
  | .fsig ty s z p _ => (0x42, ty, predMod p + z.toNat * 2 + s.toNat)
  | .frnd ty r p _ => (0x43, ty, predMod p + r.code * 2)
  | .fcvt ty s z p _ => (0x44, ty, predMod p + z.toNat * 2 + s.toNat)
  | .f2i ty g s z p _ => (0x45, ty, predMod p + g.toNat * 4 + z.toNat * 2 + s.toNat)
  | .i2f ty g s z p _ => (0x46, ty, predMod p + g.toNat * 4 + z.toNat * 2 + s.toNat)
  | .fclass ty p _ => (0x47, ty, predMod p)
  | .pdot ty g s z p _ _ _ => (0x48, ty, predMod p + g.toNat * 4 + z.toNat * 2 + s.toNat)
  | .pwid ty df g il part p _ => (0x49, ty, predMod p + df.code * 64 + part.val * 16 + il.toNat * 8 + g.toNat * 4)
  | .pnar ty g s z il p _ => (0x4A, ty, predMod p + il.toNat * 8 + g.toNat * 4 + z.toNat * 2 + s.toNat)
  | .cbdec ty hi p _ _ => (0x4B, ty, predMod p + hi.toNat)
  | .cbenc ty p _ _ => (0x4C, ty, predMod p)
  | .fldx ty s z p _ _ => (0x4D, ty, predMod p + z.toNat * 2 + s.toNat)
  | .ftag p _ _ => (0x4E, tyDyn, predMod p)
  | .ftagGet p _ => (0x4E, tyB32, predMod p + 1)
  | .ld ty sp na p _ _ => (0x50, ty, predMod p + na.toNat * 8 + sp.code)
  | .st ty sp na p _ _ _ => (0x51, ty, predMod p + na.toNat * 8 + sp.code)
  | .ldb ty ord sp p _ _ => (0x52, ty, predMod p + ord.mod + sp.code)
  | .stb ty ord sp p _ _ _ => (0x53, ty, predMod p + ord.mod + sp.code)
  | .prefetch csc sp _ _ => (0x54, tyVoid, csc.toNat * 16 + sp.code)
  | .cctl op _ _ => (0x55, tyVoid, op.code * 16)
  | .atom ty op s ord sp p _ _ _ => (0x56, ty, predMod p + ord.mod + s.toNat * 256 + op.code * 16 + sp.code)
  | .atomc ty ord sp p _ _ _ _ => (0x57, ty, predMod p + ord.mod + sp.code)
  | .red ty op s ord sp p _ _ _ => (0x58, ty, predMod p + ord.mod + s.toNat * 256 + op.code * 16 + sp.code)
  | .fence o s => (0x59, tyVoid, s.code * 2048 + (match o with | .acq => 512 | .rel => 1024 | .acqrel => 1536))
  | .phase => (0x5A, tyVoid, 0)
  | .gld idx sc ss ds _ _ _ _ _ fp =>
    (0x5B, tyVoid, sc.code * 4096 + fp.isSome.toNat * 2048 + idx.toNat * 256 + ds.code * 8 + ss.code)
  | .gst idx sc ss ds _ _ _ _ _ fp =>
    (0x5C, tyVoid, sc.code * 4096 + fp.isSome.toNat * 2048 + idx.toNat * 256 + ds.code * 8 + ss.code)
  | .shp _ => (0x5D, tyB32, 0)
  | .shpFree _ => (0x5D, tyVoid, 1)
  | .taddr _ _ _ => (0x5E, tyB64, 0)
  | .ldt sp na p _ _ => (0x5F, tyDyn, predMod p + na.toNat * 8 + sp.code)
  | .cpy sc ss ds _ _ _ _ fp => (0x60, tyVoid, sc.code * 4096 + fp.isSome.toNat * 2048 + ds.code * 8 + ss.code)
  | .cpyShape scat sc ss ds _ _ _ _ fp =>
    (0x60, tyVoid, sc.code * 4096 + fp.isSome.toNat * 2048 + scat.toNat * 512 + 256 + ds.code * 8 + ss.code)
  | .cpyw t _ => (0x61, tyB32, t.toNat)
  | .cpyf ty sc ds _ _ _ _ fp => (0x62, ty, sc.code * 4096 + fp.isSome.toNat * 2048 + ds.code * 8)
  | .cpyq ty op s t sc ss ds _ _ _ _ fp =>
    (0x63, ty, sc.code * 4096 + fp.isSome.toNat * 2048 + op.code * 256 + s.toNat * 128 + t.toNat * 64 + ds.code * 8 + ss.code)
  | .cjoin _ _ => (0x64, tyB32, 0)
  | .cleave => (0x65, tyVoid, 0)
  | .cmap _ => (0x66, tyB64, 0)
  | .colr _ _ => (0x67, tyVoid, 0)
  | .orsv side f b h sp _ _ _ =>
    (0x70, tyB32, side.toNat * 16384 + f.code * 1024 + b.code * 128 + h.toNat * 64 + sp.mod)
  | .orel _ => (0x71, tyVoid, 0)
  | .ofill meta_ sp _ _ _ => (0x72, tyVoid, meta_.toNat * 8 + sp.code)
  | .bfill sp _ _ _ => (0x73, tyVoid, sp.code)
  | .sclq sp _ _ _ => (0x74, tyVoid, sp.code)
  | .cbld six _ _ => (0x75, { fmt := if six then .cb6 else .cb4 }, 0)
  | .cbldAddr six sp _ _ => (0x75, { fmt := if six then .cb6 else .cb4 }, sp.code)
  | .aacq h => (0x76, tyB32, h.toNat)
  | .arel _ => (0x77, tyVoid, 0)
  | .mma _ _ _ _ => (0x78, tyVoid, 0)
  | .mmsp _ _ _ _ => (0x79, tyVoid, 0)
  | .acrd ty s z p _ _ _ => (0x7A, ty, predMod p + z.toNat * 2 + s.toNat)
  | .acwr ty p _ _ _ _ => (0x7B, ty, predMod p)
  | .acwrZero _ => (0x7B, tyVoid, 4)
  | .sign _ => (0x7C, tyVoid, 0)
  | .cvset _ _ => (0x7D, tyVoid, 0)
  | .gsync => (0x7E, tyVoid, 0)
  | .mstat c => (0x7F, tyB64, c.toNat)
  | .barv _ _ => (0x90, tyVoid, 0)
  | .barw _ _ => (0x91, tyVoid, 0)
  | .bars _ _ => (0x92, tyB32, 0)
  | .bmem s _ _ => (0x93, tyVoid, s.code * 2048)
  | .bcnt _ => (0x97, tyB64, 0)
  | .prgqB64 => (0x94, tyB64, 0)
  | .prgqP => (0x94, tyP, 0)
  | .sleep v _ => (0x95, if v then tyB32 else tyVoid, 0)
  | .flagw ty c s _ _ => (0x96, ty, c.code * 4 + s.toNat)
  | .launch t _ => (0xA0, tyB32, t.toNat)
  | .ljoin => (0xA1, tyB32, 0)
  | .lquery _ => (0xA2, tyB64, 0)
  | .wsplit => (0xA3, tyVoid, 0)
  | .migrate t _ => (0xA4, tyB32, t.toNat)
  | .wdone => (0xA5, tyVoid, 0)
  | .trap _ p => (0xB0, tyVoid, predMod p)
  | .brkpt _ => (0xB1, tyVoid, 0)
  | .tprf k _ => (0xB2, tyVoid, match k with | .own => 0 | .other => 1 | .both => 2)
  | .tprfHandle k _ _ => (0xB2, tyB32, match k with | .own => 0 | .other => 1 | .both => 2)
  | .clock p => (0xB3, tyB64, p.toNat)
  | .smpl m => (0xB4, tyVoid, match m with | .on => 0 | .off => 1 | .now => 2)
  | .watch t _ _ => (0xB5, tyB32, t.toNat)
  | .unwatch _ => (0xB6, tyVoid, 0)
  | .logm ty p _ _ => (0xB7, ty, predMod p)
  | _ => (0xFF, tyVoid, 0)

/-- The words of one operand (R58-R60). -/
def encOpnd : Opnd → List W32
  | .ref d => [(0#2 ++ d)]
  | .imm v => [(1#2 ++ v)]
  | .sym i => [(5#3 ++ i)]
  | .lit32 v => [0xC0000000#32, v]
  | .lit64 v => [0xC0000001#32, v.extractLsb' 0 32, v.extractLsb' 32 32]
  | .nat _ => []

def encImm (n : Nat) : List W32 := encOpnd (.imm (BitVec.ofNat 30 n))

/-- A target's operand words, each with its literals. -/
def encTarget (t : Target) : List (List W32) :=
  [(4#3 ++ BitVec.ofNat 9 t.args.length ++ t.block)] :: t.args.map encOpnd

def encPred (p : Pred) : List (List W32) := match p with | some k => [encImm k.val] | none => []
def encOff (o : Option (BitVec 30)) : List (List W32) := match o with | some v => [encOpnd (.imm v)] | none => []
def encFp (o : Option (BitVec 29)) : List (List W32) := match o with | some f => [encOpnd (.sym f)] | none => []

/-- The operand words of an instruction in order, each with its literals. -/
def Instr.encOperands (i : Instr) : List (List W32) :=
  let os := i.opnds.map encOpnd
  match i with
  | .br _ t => encTarget t
  | .brc _ _ c t f => encOpnd c :: encTarget t ++ encTarget f
  | .switch _ x d cs => encOpnd x :: encTarget d ++ (cs.map encTarget).flatten
  | .call _ f args => encOpnd (.sym f) :: args.map encOpnd
  | .join k | .leave k | .waitm k | .mrdP k => [encImm k.val]
  | .joinCond k c | .leaveCond k c => [encImm k.val, encOpnd c]
  | .mrdB64 k h => [encImm k.val, encImm h.val]
  | .vote _ c k => [encOpnd c, encImm k.val]
  | .voteBallot c h k => [encOpnd c, encImm h.val, encImm k.val]
  | .sreg _ s => [encImm s.val]
  | .lea _ p a b k => [encOpnd a, encOpnd b, encImm k.val] ++ encPred p
  | .shfl _ _ _ _ _ k | .bcast _ _ _ k | .bcastFirst _ _ k | .scan _ _ _ _ _ k | .wred _ _ _ _ k => os ++ [encImm k.val]
  | .cbdec _ _ p _ k | .cbenc _ p _ k => os ++ [encImm k.val] ++ encPred p
  | .ld _ _ _ p _ o | .st _ _ _ p _ _ o | .ldb _ _ _ p _ o | .stb _ _ _ p _ _ o | .atom _ _ _ _ _ p _ _ o
  | .atomc _ _ _ p _ _ _ o | .red _ _ _ _ _ p _ _ o => os ++ encOff o ++ encPred p
  | .prefetch _ _ _ o | .cctl _ _ o => os ++ encOff o
  | .gld _ _ _ _ _ _ _ _ t fp | .gst _ _ _ _ _ _ _ _ t fp | .cpy _ _ _ _ _ _ t fp | .cpyShape _ _ _ _ _ _ _ t fp
  | .cpyf _ _ _ _ _ _ t fp | .cpyq _ _ _ _ _ _ _ _ _ _ t fp => os ++ [encImm t.val] ++ encFp fp
  | .cpyw _ t => [encImm t.val]
  | .colr t c => [encImm t.val, encImm c.val]
  | .orsv _ _ _ _ _ _ c so => os ++ [encImm c.val, encImm so.toNat]
  | .cbld _ c f => [encImm c.val, encOpnd (.sym f)]
  | .cbldAddr _ _ c _ => encImm c.val :: os
  | .mma _ _ _ cv | .mmsp _ _ _ cv => os ++ (match cv with | some c => [encImm c.val] | none => [])
  | .sign c => [encImm c.val]
  | .cvset c _ => encImm c.val :: os
  | .barv n _ | .barw n _ | .bars n _ | .bmem _ n _ | .bcnt n => encImm n.val :: os
  | .lquery s => [encImm s.val]
  | .trap c p => encImm c.toNat :: encPred p
  | .brkpt n => [encImm n.toNat]
  | .tprf _ f => [encOpnd (.sym f)]
  | .tprfHandle _ _ b => os ++ [encImm (8 * (b.val + 1))]
  | .logm _ p _ t => os ++ [encImm t.toNat] ++ encPred p
  | .select _ p _ _ _ | .add _ _ _ p _ _ | .sub _ _ _ p _ _ | .mul _ _ _ p _ _ | .mulhi _ _ p _ _ | .mad _ _ _ p _ _ _
  | .div _ _ _ _ p _ _ | .rem _ _ _ p _ _ | .neg _ _ _ p _ | .abs _ _ p _ | .min _ _ p _ _ | .max _ _ p _ _
  | .and _ p _ _ | .or _ p _ _ | .xor _ p _ _ | .not _ p _ | .shl _ p _ _ | .shr _ _ p _ _ | .rot _ p _ _ | .clz _ p _
  | .popc _ p _ | .bfx _ _ p _ _ _ | .bfi _ p _ _ _ _ | .brev _ p _ | .cmp _ _ _ p _ _ | .cvti _ _ _ p _
  | .fadd _ _ _ p _ _ | .fsub _ _ _ p _ _ | .fmul _ _ _ p _ _ | .fma _ _ _ p _ _ _ | .fmin _ p _ _ | .fmax _ p _ _
  | .fabs _ p _ | .fneg _ p _ | .fcmp _ _ p _ _ | .fdiv _ _ _ p _ _ | .fsqrt _ _ _ p _ | .frcp _ _ _ p _ | .frsq _ _ _ p _
  | .fexp2 _ _ _ p _ | .flog2 _ _ _ p _ | .fsin _ _ _ p _ | .fcos _ _ _ p _ | .ftanh _ _ _ p _ | .fsig _ _ _ p _
  | .frnd _ _ p _ | .fcvt _ _ _ p _ | .f2i _ _ _ _ p _ | .i2f _ _ _ _ p _ | .fclass _ p _ | .pdot _ _ _ _ p _ _ _
  | .pwid _ _ _ _ _ p _ | .pnar _ _ _ _ _ p _ | .fldx _ _ _ p _ _ | .ftag p _ _ | .ftagGet p _ | .ldt _ _ p _ _
  | .acrd _ _ _ p _ _ _ | .acwr _ p _ _ _ _ => os ++ encPred p
  | _ => os

/-- The words of a well-formed portable instruction; none for what no portable word encodes. -/
def encode (i : Instr) : Option (List W32) :=
  if i.wf then
    let (op, ty, m) := i.head
    let us := i.encOperands
    let n := us.length
    let no := if n < 7 then n else 7
    let h : W32 := BitVec.ofNat 8 op ++ ty.code ++ BitVec.ofNat 3 no ++ BitVec.ofNat 15 m
    some (h :: ((if n < 7 then [] else [BitVec.ofNat 32 n]) ++ us.flatten))
  else none

/-! ## Words of a table row -/

/-- Words of a bit string, word 0 in the lowest bits. -/
def wordsOf : Nat → Nat → List W32
  | 0, _ => []
  | n + 1, w => BitVec.ofNat 32 w :: wordsOf n (w / 2 ^ 32)

/-- The instruction read from bits numbered as spec/opcode_table.json numbers them: word 0 in the low bits, operand words
of zeros above `nbits`. -/
def decodeTableWord (_nbits w : Nat) : Option Instr :=
  match decodeWords (wordsOf 20 w) with
  | .ok (i, _) => some i
  | .error _ => none

end Sys2Proof
end

