-- ==== Sys2Proof/Machine/Module.lean ====
section
/-! DEFINITION. Sys2Proof/Machine/Module.lean: reading a module image (R55, R61-R65): symbols, function records, blocks,
value numbers (R39), portable instruction indices (R81). Anything malformed reads as none; Machine/Verify.lean says which
breach a malformed image is. -/

namespace Sys2Proof.Machine

open Sys2Proof

def wordAt (ws : List W32) (i : Nat) : Option W32 := ws[i]?

/-- A field of a word or register: bits [lo + w - 1 : lo]. -/
def field (x lo w : Nat) : Nat := (x >>> lo) % 2 ^ w

/-- A symbol (R62). -/
structure Sym where
  kind : Nat
  sty : BitVec 6
  owner : Nat
  name : Nat
  val : Nat
  cnt : Nat
  deriving DecidableEq, Repr

def moduleSym (ws : List W32) (i : Nat) : Option Sym :=
  match wordAt ws 2, wordAt ws 3 with
  | some nsym, some off =>
    if i < nsym.toNat then
      let b := off.toNat + 4 * i
      match wordAt ws b, wordAt ws (b + 1), wordAt ws (b + 2), wordAt ws (b + 3) with
      | some w0, some w1, some w2, some w3 =>
        some { kind := field w0.toNat 0 4, sty := w0.extractLsb' 4 6, owner := field w0.toNat 10 22, name := w1.toNat,
               val := w2.toNat, cnt := w3.toNat }
      | _, _, _, _ => none
    else none
  | _, _ => none

/-- Byte `i` of the image. -/
def imageByte (ws : List W32) (i : Nat) : Option Byte := (wordAt ws (i / 4)).map fun w => w.extractLsb' (8 * (i % 4)) 8

/-- Data section (R61): its length in bytes and a byte of it. -/
def dataLen (ws : List W32) : Nat := ((wordAt ws 5).map BitVec.toNat).getD 0
def dataByte (ws : List W32) (i : Nat) : Byte :=
  (imageByte ws (((wordAt ws 4).map BitVec.toNat).getD 0 * 4 + i)).getD 0

def imageGen (ws : List W32) : Nat := field ((wordAt ws 1).map BitVec.toNat |>.getD 0) 0 8

/-- A region line of a footprint (R65). -/
structure FpLine where
  space : Nat
  write : Bool
  shared : Bool
  base : Nat
  len : Nat
  deriving DecidableEq, Repr

structure FpDecl where
  sym : Nat
  lines : List FpLine
  deriving DecidableEq, Repr

/-- The level structure of `.walk` (R50, R63). -/
structure WalkDecl where
  widths : List Nat
  warpB : Nat
  wgB : Nat
  gangB : Option Nat
  deriving DecidableEq, Repr

/-- A block in layout (R64): the number of its first argument, the portable index of its first instruction, and each
instruction with the number the next defined value would receive (R40). -/
structure BlockInfo where
  args : List Ty
  argNum : Nat
  pix : Nat
  rh : Bool
  re : Bool
  instrs : List (Nat × Instr)
  deriving DecidableEq, Repr

structure FuncInfo where
  kern : Bool
  rty : Ty
  params : List Ty
  walk : Option WalkDecl
  fps : List FpDecl
  blocks : List BlockInfo
  deriving DecidableEq, Repr

/-- The type of the value an instruction defines; none where it defines none. `dyn` results are dyn (R94). -/
def instrDefTy : Instr → Option Ty
  | .call ty _ _ => if ty = tyVoid then none else some ty
  | .select ty _ _ _ _ => some ty
  | .mrdP _ => some tyP
  | .mrdB64 _ _ => some tyB64
  | .vote _ _ _ => some tyP
  | .voteBallot _ _ _ => some tyB64
  | .add ty _ _ _ _ _ | .sub ty _ _ _ _ _ | .mul ty _ _ _ _ _ | .mulhi ty _ _ _ _ | .mad ty _ _ _ _ _ _
  | .div ty _ _ _ _ _ _ | .rem ty _ _ _ _ _ | .neg ty _ _ _ _ | .abs ty _ _ _ | .min ty _ _ _ _ | .max ty _ _ _ _
  | .and ty _ _ _ | .or ty _ _ _ | .xor ty _ _ _ | .not ty _ _ | .shl ty _ _ _ | .shr ty _ _ _ _ | .rot ty _ _ _
  | .clz ty _ _ | .popc ty _ _ | .bfx ty _ _ _ _ _ | .bfi ty _ _ _ _ _ | .brev ty _ _ => some ty
  | .cmp _ _ _ _ _ _ => some tyP
  | .lea _ _ _ _ _ => some tyB64
  | .cvti ty _ _ _ _ => some ty
  | .cst ty _ => some ty
  | .sreg ty _ => some ty
  | .shfl ty _ _ _ _ _ | .bcast ty _ _ _ | .bcastFirst ty _ _ | .scan ty _ _ _ _ _ | .wred ty _ _ _ _ => some ty
  | .fadd ty _ _ _ _ _ | .fsub ty _ _ _ _ _ | .fmul ty _ _ _ _ _ | .fma ty _ _ _ _ _ _ | .fmin ty _ _ _ | .fmax ty _ _ _
  | .fabs ty _ _ | .fneg ty _ _ => some ty
  | .fcmp _ _ _ _ _ => some tyP
  | .fdiv ty _ _ _ _ _ | .fsqrt ty _ _ _ _ | .frcp ty _ _ _ _ | .frsq ty _ _ _ _ | .fexp2 ty _ _ _ _ | .flog2 ty _ _ _ _
  | .fsin ty _ _ _ _ | .fcos ty _ _ _ _ | .ftanh ty _ _ _ _ | .fsig ty _ _ _ _ | .frnd ty _ _ _ | .fcvt ty _ _ _ _
  | .f2i ty _ _ _ _ _ | .i2f ty _ _ _ _ _ => some ty
  | .fclass _ _ _ => some tyB32
  | .pdot ty _ _ _ _ _ _ _ => some (if ty = tyDyn then tyDyn else if ty.isFloat then tyF32 else tyB32)
  | .pwid ty df _ _ _ _ _ =>
    some (if ty = tyDyn then tyDyn else { fmt := df, pack := Pack.ofCount (pwidCount ty.count df) })
  | .pnar ty _ _ _ _ _ _ => some ty
  | .cbdec ty _ _ _ _ => some { fmt := .bf16, pack := if ty.pack = .x8 then .x4 else ty.pack }
  | .cbenc ty _ _ _ => some ty
  | .fldx ty _ _ _ _ _ => some ty
  | .ftag _ _ _ => some tyDyn
  | .ftagGet _ _ => some tyB32
  | .ld ty _ _ _ _ _ | .ldb ty _ _ _ _ _ | .atom ty _ _ _ _ _ _ _ _ | .atomc ty _ _ _ _ _ _ _ => some ty
  | .shp _ => some tyB32
  | .taddr _ _ _ => some tyB64
  | .ldt _ _ _ _ _ => some tyDyn
  | .cpyw _ _ | .cjoin _ _ | .orsv _ _ _ _ _ _ _ _ | .aacq _ => some tyB32
  | .cmap _ | .mstat _ | .bcnt _ | .prgqB64 | .lquery _ | .clock _ => some tyB64
  | .acrd ty _ _ _ _ _ _ => some ty
  | .bars _ _ | .launch _ _ | .ljoin | .migrate _ _ | .watch _ _ _ => some tyB32
  | .prgqP => some tyP
  | .flagw ty _ _ _ _ => some ty
  | _ => none

def instrTerminator : Instr → Bool
  | .br .. | .brc .. | .switch .. | .ret | .retValue .. | .exit | .unreachable => true
  | _ => false

/-- `n` type words (R63, R64). -/
def parseTypes : Nat → List W32 → Option (List Ty × List W32)
  | 0, ws => some ([], ws)
  | n + 1, ws =>
    match ws with
    | w :: ws' => (parseTypes n ws').map fun (ts, r) => (Ty.ofCode (w.extractLsb' 0 6) :: ts, r)
    | [] => none

def parseFpLines : Nat → List W32 → Option (List FpLine × List W32)
  | 0, ws => some ([], ws)
  | n + 1, w0 :: w1 :: w2 :: w3 :: ws =>
    (parseFpLines n ws).map fun (ls, r) =>
      ({ space := field w0.toNat 1 3, write := w0.toNat.testBit 0, shared := w1.toNat.testBit 29, base := field w1.toNat 0 29,
         len := w2.toNat + w3.toNat * 2 ^ 32 } :: ls, r)
  | _, _ => none

def parseFps : Nat → List W32 → Option (List FpDecl × List W32)
  | 0, ws => some ([], ws)
  | n + 1, w :: ws =>
    match parseFpLines (field w.toNat 24 4) ws with
    | some (ls, ws') => (parseFps n ws').map fun (fs, r) => ({ sym := field w.toNat 0 24, lines := ls } :: fs, r)
    | none => none
  | _, _ => none

/-- `k` instructions from value number `n` (R39, R40). -/
def parseInstrs : Nat → Nat → List W32 → Option (List (Nat × Instr) × Nat × List W32)
  | 0, n, ws => some ([], n, ws)
  | k + 1, n, ws =>
    match decodeWords ws with
    | .error _ => none
    | .ok (i, ws') =>
      match parseInstrs k (if (instrDefTy i).isSome then n + 1 else n) ws' with
      | some (is, n', r) => some ((n, i) :: is, n', r)
      | none => none

def parseBlocks : Nat → Nat → Nat → List W32 → Option (List BlockInfo)
  | 0, _, _, _ => some []
  | k + 1, n, pix, ws =>
    match ws with
    | [] => none
    | w :: ws' =>
      match parseTypes (field w.toNat 0 7) ws' with
      | none => none
      | some (ts, ws'') =>
        match parseInstrs (field w.toNat 9 23) (n + ts.length) ws'' with
        | none => none
        | some (is, n', r) =>
          (parseBlocks k n' (pix + is.length) r).map fun bs =>
            { args := ts, argNum := n, pix := pix, rh := w.toNat.testBit 7, re := w.toNat.testBit 8, instrs := is } :: bs

def parseWalk (w4 w5 : Nat) : WalkDecl :=
  { widths := [field w4 0 6, field w4 6 6, field w4 12 6, field w4 18 6, field w4 24 6, field w5 0 6]
    warpB := field w5 6 7, wgB := field w5 13 7, gangB := if w5.testBit 27 then some (field w5 20 7) else none }

/-- A function record from its first word (R63). -/
def parseFuncWords : List W32 → Option FuncInfo
  | _ :: w1 :: w2 :: w3 :: w4 :: w5 :: ws =>
    match parseTypes (field w1.toNat 0 7) ws with
    | none => none
    | some (ps, ws') =>
      match parseFps (field w1.toNat 7 7) ws' with
      | none => none
      | some (fs, ws'') =>
        (parseBlocks w2.toNat ps.length 0 ws'').map fun bs =>
          { kern := w3.toNat.testBit 6, rty := Ty.ofCode (w3.extractLsb' 0 6), params := ps
            walk := if w3.toNat.testBit 7 then some (parseWalk w4.toNat w5.toNat) else none, fps := fs, blocks := bs }
  | _ => none

/-- The function that symbol `i` names (R62). -/
def moduleFunc (ws : List W32) (i : Nat) : Option FuncInfo :=
  match moduleSym ws i with
  | some y => if y.kind ≤ 1 then parseFuncWords (ws.drop y.val) else none
  | none => none

/-- The instruction at a portable index, with the number the next defined value would receive (R40, R81). -/
def instrAt : List BlockInfo → Nat → Option (Nat × Instr)
  | [], _ => none
  | b :: bs, pix => if pix < b.pix + b.instrs.length then (if b.pix ≤ pix then b.instrs[pix - b.pix]? else none) else instrAt bs pix

/-- The block that holds a portable index. -/
def blockAt : List BlockInfo → Nat → Option (Nat × BlockInfo)
  | [], _ => none
  | b :: bs, pix =>
    if pix < b.pix + b.instrs.length then some (0, b) else (blockAt bs pix).map fun (i, x) => (i + 1, x)

/-- Offsets of a kernel's `.shared` buffers in declaration order (R45): symbol and offset, then the declared demand. -/
def sharedGo (ws : List W32) (ksym : Nat) : Nat → Nat → Nat → List (Nat × Nat) × Nat
  | 0, _, off => ([], (off + 255) / 256 * 256)
  | k + 1, i, off =>
    match moduleSym ws i with
    | some y =>
      if y.kind = 4 && y.owner = ksym then
        let al := 2 ^ field y.val 20 4
        let o := (off + al - 1) / al * al
        let (r, d) := sharedGo ws ksym k (i + 1) (o + field y.val 0 20)
        ((i, o) :: r, d)
      else sharedGo ws ksym k (i + 1) off
    | none => sharedGo ws ksym k (i + 1) off

def nsyms (ws : List W32) : Nat := ((wordAt ws 2).map BitVec.toNat).getD 0

def sharedLayout (ws : List W32) (ksym : Nat) : List (Nat × Nat) × Nat := sharedGo ws ksym (nsyms ws) 0 0

/-- The b64 a symbol stands for as an operand (R45, R46). -/
def symAddr (ws : List W32) (i : Nat) : W64 :=
  match moduleSym ws i with
  | some y =>
    if y.kind = 4 then BitVec.ofNat 64 (((sharedLayout ws y.owner).1.find? fun p => p.1 = i).map Prod.snd |>.getD 0)
    else BitVec.ofNat 64 y.val
  | none => 0

/-- Offsets of a kernel's parameters in its block, and the block's size (R34). -/
def paramGo : List Ty → Nat → List Nat × Nat
  | [], off => ([], (off + 7) / 8 * 8)
  | t :: ts, off =>
    let b := t.bytes
    let o := (off + b - 1) / b * b
    let (r, d) := paramGo ts (o + b)
    (o :: r, d)

def paramLayout (ts : List Ty) : List Nat × Nat := paramGo ts 0

/-- A `.region idem` number (R49, R80) of a block: the count of heads up to it, none outside every region. -/
def idemGo : List BlockInfo → Nat → Nat → Bool → Option Nat
  | [], _, _, _ => none
  | b :: bs, k, n, inside =>
    let inside' := inside || b.rh
    let n' := if b.rh then n + 1 else n
    match k with
    | 0 => if inside' then some (n' - 1) else none
    | k + 1 => idemGo bs k n' (inside' && !b.re)

def idemOf (bs : List BlockInfo) (blk : Nat) : Option Nat := idemGo bs blk 0 false

/-- An instruction of R120's table: it ends its region. The copy family does so where its write may meet what the region
has read, which the issuing meaning decides. -/
def endsRegion : Instr → Bool
  | .atom .. | .atomc .. | .red .. | .stb .. | .fence .. | .phase | .barv .. | .barw .. | .bars .. | .bmem .. | .gsync
  | .launch .. | .ljoin | .wdone | .migrate .. | .sign .. | .orsv .. | .orel .. | .aacq .. | .arel .. | .sclq .. | .mma ..
  | .mmsp .. | .cjoin .. | .cleave | .cmap .. | .shp .. | .shpFree .. | .cpyw .. | .clock .. | .logm .. | .regn | .call .. => true
  | .mstat c => c
  | _ => false

end Sys2Proof.Machine
end

