-- ==== Sys2Proof/Machine/Live.lean ====
section
/-! DEFINITION. Sys2Proof/Machine/Live.lean: what the lapidary computes of a function before it places a value: liveness (R119), the
accesses of each instruction (R121, R286, R354), and the heads of its regions (R120-R122, R130, R185). -/

namespace Sys2Proof.Machine

open Sys2Proof

/-! ## A function in layout order -/

/-- An instruction at its portable index: its block, the number the next defined value would receive, the value it defines. -/
structure LInstr where
  blk : Nat
  n : Nat
  i : Instr
  dest : Option Nat
  deriving DecidableEq, Repr

/-- The value an operand names (R40). -/
def opndValue (n : Nat) : Opnd → Option Nat
  | .ref d => if 1 ≤ d.toNat && d.toNat ≤ n then some (n - d.toNat) else none
  | _ => none

/-- The values an instruction uses; a branch uses its edges' arguments (R119). -/
def LInstr.uses (x : LInstr) : List Nat := x.i.opnds.filterMap (opndValue x.n)

def layoutInstrs : List BlockInfo → Nat → List LInstr
  | [], _ => []
  | b :: bs, k =>
    (b.instrs.map fun p => { blk := k, n := p.1, i := p.2, dest := if (instrDefTy p.2).isSome then some p.1 else none }) ++
      layoutInstrs bs (k + 1)

/-- The targets of a terminator, in order. -/
def instrTargets : Instr → List Target
  | .br _ t => [t]
  | .brc _ _ _ t f => [t, f]
  | .switch _ _ d cs => d :: cs
  | _ => []

def BlockInfo.succs (b : BlockInfo) : List Nat :=
  (((b.instrs.getLast?).map fun p => instrTargets p.2).getD []).map fun t => t.block.toNat

/-- Types of the values in the order of their numbers (R39). -/
def FuncInfo.valueTys (f : FuncInfo) : List Ty :=
  f.params ++ (f.blocks.map fun b => b.args ++ b.instrs.filterMap fun p => instrDefTy p.2).flatten

/-- Registers, spill slots or checkpoint slots that a value takes (R115, R123). A dyn value takes what its widest tag needs (R92). -/
def tyRegs (t : Ty) : Nat := if t = tyDyn || 32 < t.bits then 2 else 1

/-! ## Liveness (R119). A set of values is a number: bit v stands for value v. -/

def addBit (s v : Nat) : Nat := s ||| 2 ^ v
def delBit (s v : Nat) : Nat := if s.testBit v then s ^^^ 2 ^ v else s
def bitsOf (l : List Nat) : Nat := l.foldl addBit 0

/-- The values live before an instruction, from those live after it. -/
def LInstr.liveBefore (x : LInstr) (after : Nat) : Nat :=
  x.uses.foldl addBit (match x.dest with | some v => delBit after v | none => after)

/-- The values live before each of a run of instructions, from those live after the last. -/
def liveRun : List LInstr → Nat → List Nat
  | [], _ => []
  | x :: xs, after =>
    let r := liveRun xs after
    x.liveBefore (r.headD after) :: r

/-- Live on entry to each block, its arguments left out, from a guess for every block. -/
def liveRound (bs : List BlockInfo) (xs : List LInstr) (ins : List Nat) : List Nat :=
  bs.zipIdx.map fun (b, k) =>
    let out := (b.succs.map fun t => ins.getD t 0).foldl (· ||| ·) 0
    let before := ((liveRun (xs.filter fun x => x.blk = k) out).headD out)
    (List.range b.args.length).foldl (fun s j => delBit s (b.argNum + j)) before

def liveGo (bs : List BlockInfo) (xs : List LInstr) : Nat → List Nat → List Nat
  | 0, ins => ins
  | k + 1, ins =>
    let r := liveRound bs xs ins
    if r = ins then ins else liveGo bs xs k r

/-- The values live before each portable instruction of a function. A round carries liveness over one more edge, so that as many rounds
as there are blocks reach the least solution. -/
def FuncInfo.live (f : FuncInfo) : List Nat :=
  let xs := layoutInstrs f.blocks 0
  let ins := liveGo f.blocks xs (f.blocks.length + 1) (f.blocks.map fun _ => 0)
  (f.blocks.zipIdx.map fun (b, k) =>
    liveRun (xs.filter fun x => x.blk = k) ((b.succs.map fun t => ins.getD t 0).foldl (· ||| ·) 0)).flatten

/-! ## Accesses -/

/-- What the lapidary knows of an address: a value, a number, a spill slot of the unit, or nothing. -/
inductive ABase where
  | value (v : Nat)
  | number
  | spill
  | unknown
  deriving DecidableEq, Repr

/-- An access as the lapidary sees it: space, base, first byte from the base, length where it is known. -/
structure Acc where
  space : Space
  base : ABase
  lo : Int := 0
  len : Option Nat := none
  deriving DecidableEq, Repr

/-- The base that an operand is, with its own offset. -/
def opndBase (ws : List W32) (n : Nat) : Opnd → ABase × Int
  | .ref d => ((match opndValue n (.ref d) with | some v => .value v | none => .unknown), 0)
  | .imm v => (.number, v.toInt)
  | .lit32 v => (.number, v.toNat)
  | .lit64 v => (.number, v.toNat)
  | .sym i => (.number, (symAddr ws i.toNat).toNat)
  | .nat _ => (.unknown, 0)

/-- A length the lapidary knows: an immediate or literal operand. -/
def opndCount : Opnd → Option Nat
  | .imm v => some v.toNat
  | .lit64 v => some v.toNat
  | _ => none

def mkAcc (ws : List W32) (n : Nat) (sp : Space) (o : Opnd) (off : Int) (len : Option Nat) : Acc :=
  let b := opndBase ws n o
  { space := sp, base := b.1, lo := b.2 + off, len := len }

def offInt (o : Option (BitVec 30)) : Int := match o with | some v => v.toInt | none => 0

/-- Bytes of an access of a type; a dyn value takes at most 8 (R139). -/
def accBytes (t : Ty) : Nat := if t = tyDyn then 8 else t.bytes

/-- R121: two accesses proved disjoint: different spaces, or one base with ranges that do not meet. Regions of declared footprints are
accesses from their base (R280), so that the third case is the second over them. -/
def Acc.disjoint (a b : Acc) : Bool :=
  a.space ≠ b.space ||
  (a.base = b.base && a.base ≠ .unknown &&
    match a.len, b.len with
    | some m, some k => a.lo + m ≤ b.lo || b.lo + k ≤ a.lo
    | _, _ => false)

def mayMeet (xs ys : List Acc) : Bool := xs.any fun x => ys.any fun y => !x.disjoint y

/-- The region lines of a declared footprint (R48, R280), reads or writes. -/
def fpAccs (ws : List W32) (f : FuncInfo) (sym : Nat) (write : Bool) : List Acc :=
  ((f.fps.filter fun d => d.sym = sym).map fun d => (d.lines.filter fun l => l.write = write).filterMap fun l =>
    (Space.ofCode? l.space).map fun sp =>
      if l.shared then { space := sp, base := .number, lo := ((symAddr ws l.base).toNat : Int), len := some l.len }
      else { space := sp, base := .value l.base, lo := 0, len := some l.len }).flatten

/-- A job's derived footprints (R280, R289-R292), reads then writes. -/
def jobAccs (ws : List W32) (n : Nat) : Instr → List Acc × List Acc
  | .cpy _ ss ds d s l _ _ => ([mkAcc ws n ss s 0 (opndCount l)], [mkAcc ws n ds d 0 (opndCount l)])
  | .cpyShape _ _ ss ds d s _ _ _ => ([mkAcc ws n ss s 0 none], [mkAcc ws n ds d 0 none])
  | .cpyf _ _ ds d l _ _ _ => ([], [mkAcc ws n ds d 0 (opndCount l)])
  | .cpyq ty _ _ _ _ ss ds d s k _ _ =>
    let len := (opndCount k).map (· * ty.bytes)
    ([mkAcc ws n ss s 0 len, mkAcc ws n ds d 0 len], [mkAcc ws n ds d 0 len])
  | .gld idx _ ss ds d b _ _ _ _ =>
    ([mkAcc ws n ss b 0 none] ++ (if idx then [{ space := .scratch, base := .unknown }] else []), [mkAcc ws n ds d 0 none])
  | .gst idx _ ss ds s b _ _ _ _ =>
    ([mkAcc ws n ss s 0 none] ++ (if idx then [{ space := .scratch, base := .unknown }] else []), [mkAcc ws n ds b 0 none])
  | _ => ([], [])

def jobFp : Instr → Option (BitVec 29)
  | .gld _ _ _ _ _ _ _ _ _ fp | .gst _ _ _ _ _ _ _ _ _ fp | .cpy _ _ _ _ _ _ _ fp | .cpyShape _ _ _ _ _ _ _ _ fp
  | .cpyf _ _ _ _ _ _ _ fp | .cpyq _ _ _ _ _ _ _ _ _ _ _ fp => fp
  | _ => none

def isJob : Instr → Bool
  | .gld .. | .gst .. | .cpy .. | .cpyShape .. | .cpyf .. | .cpyq .. => true
  | _ => false

/-- What one instruction reads, what it stores, and what its job writes. -/
structure Accs where
  reads : List Acc := []
  stores : List Acc := []
  job : List Acc := []
  deriving DecidableEq, Repr

def instrAccs (ws : List W32) (f : FuncInfo) (n : Nat) (i : Instr) : Accs :=
  match i with
  | .ld ty sp _ _ a off | .ldb ty _ sp _ a off => { reads := [mkAcc ws n sp a (offInt off) (some (accBytes ty))] }
  | .ldt sp _ _ _ a => { reads := [mkAcc ws n sp a 0 none] }
  | .flagw ty _ _ a _ => { reads := [mkAcc ws n .global a 0 (some (accBytes ty))] }
  | .st ty sp _ _ a _ off => { stores := [mkAcc ws n sp a (offInt off) (some (accBytes ty))] }
  | .cctl .zero a _ => { stores := [mkAcc ws n .global a 0 none] }
  | .ofill _ sp _ a _ | .bfill sp _ a _ | .sclq sp _ a _ | .cbldAddr _ sp _ a => { reads := [mkAcc ws n sp a 0 none] }
  | i =>
    if isJob i then
      match jobFp i with
      | some y => { reads := fpAccs ws f y.toNat false, job := fpAccs ws f y.toNat true }
      | none => let p := jobAccs ws n i; { reads := p.1, job := p.2 }
    else {}

/-! ## Region heads -/

/-- A wait of R185, after which a region begins at an instruction of the lapidary's choice. -/
def isWaitOp : Instr → Bool
  | .waitm .. | .vote .. | .voteBallot .. | .shfl .. | .bcast .. | .bcastFirst .. | .scan .. | .wred .. => true
  | _ => false

/-- The head that R185 asks for after a wait at `p` in a block that ends at `last`: the choice is the lapidary's (free), within the
wait's own block (log 6). -/
def waitHead (free p last : Nat) : Nat := if last ≤ p + 1 then p + 1 else p + 1 + free % (last - p)

/-- The heads that the instructions themselves place: the entry, the heads of `.region idem`, the successors of the instructions of
R120, and those after waits. -/
def fixedHeads (bs : List BlockInfo) (free : Nat → Nat) : Nat :=
  bs.foldl (fun s b =>
    let last := b.pix + b.instrs.length - 1
    b.instrs.zipIdx.foldl (fun s (p, j) =>
      let pix := b.pix + j
      if endsRegion p.2 then addBit s (pix + 1) else if isWaitOp p.2 then addBit s (waitHead (free pix) pix last) else s)
      (if b.rh then addBit s b.pix else s)) (addBit 0 0)

/-- The region number of an index (R80): regions lie one after another in layout (log 9). -/
def regionIdx (heads : Nat) : Nat → Nat
  | 0 => 0
  | p + 1 => regionIdx heads p + (if heads.testBit (p + 1) then 1 else 0)

/-- The last index of a block. -/
def BlockInfo.lastPix (b : BlockInfo) : Nat := b.pix + b.instrs.length - 1

/-- R122: blocks that an edge reaches from another region. -/
def edgeHeads (bs : List BlockInfo) (heads : Nat) : Nat :=
  bs.foldl (fun s b =>
    let r := regionIdx heads b.lastPix
    b.succs.foldl (fun s t =>
      match bs[t]? with
      | some y => if regionIdx heads y.pix = r then s else addBit s y.pix
      | none => s) s) heads

/-- Blocks that enter a block without passing a head at its start, through blocks of the same region. -/
def feeders (bs : List BlockInfo) (heads : Nat) : Nat → List Nat → List Nat → List Nat
  | 0, _, seen => seen
  | _, [], seen => seen
  | k + 1, b :: work, seen =>
    let pix := (bs[b]?.map BlockInfo.pix).getD 0
    if heads.testBit pix then feeders bs heads k work seen
    else
      let ps := (bs.zipIdx.filter fun (x, j) => x.succs.contains b && !seen.contains j && regionIdx heads x.lastPix = regionIdx heads pix).map Prod.snd
      feeders bs heads k (ps ++ work) (seen ++ ps)

/-- The accesses of the region that may stand before index `p` of block `b` (R121). -/
def readsBefore (bs : List BlockInfo) (accs : List Accs) (heads b p : Nat) : List Acc :=
  let r := regionIdx heads p
  let own := (bs[b]?.map BlockInfo.pix).getD 0
  let fs := feeders bs heads (bs.length * bs.length + 1) [b] []
  let inRange (lo hi : Nat) : List Acc :=
    ((List.range (hi - lo)).map fun j => if regionIdx heads (lo + j) = r then ((accs[lo + j]?).map Accs.reads).getD [] else []).flatten
  inRange own p ++ (fs.map fun k => match bs[k]? with | some x => inRange x.pix (x.lastPix + 1) | none => []).flatten

/-- The boundary that an instruction needs, where one is missing: before a store (R121), at its block's head where nothing between
reads memory; after a job (R120, R286). -/
def needHead (bs : List BlockInfo) (accs : List Accs) (heads b p : Nat) : Option Nat :=
  match accs[p]? with
  | none => none
  | some a =>
    let own := (bs[b]?.map BlockInfo.pix).getD 0
    let prior := if a.stores.isEmpty && a.job.isEmpty then [] else readsBefore bs accs heads b p
    if mayMeet a.stores prior && !heads.testBit p then
      some (if ((List.range (p - own)).any fun j => !((accs[own + j]?).map Accs.reads |>.getD []).isEmpty) then p else own)
    else if mayMeet a.job (prior ++ a.reads) && !heads.testBit (p + 1) then some (p + 1)
    else none

/-- Boundaries until none is missing. A block that needs more than one round names a lower index first. -/
def formGo (bs : List BlockInfo) (accs : List Accs) : Nat → Nat → Nat
  | 0, heads => heads
  | k + 1, heads =>
    let h1 := edgeHeads bs heads
    if h1 ≠ heads then formGo bs accs k h1
    else
      match bs.zipIdx.findSome? fun (b, j) => (List.range b.instrs.length).findSome? fun q => needHead bs accs heads j (b.pix + q) with
      | some h => formGo bs accs k (addBit heads h)
      | none => heads

/-- Every round but the last adds a head, so that `n + 1` rounds over `n` instructions end. -/
def formHeads (bs : List BlockInfo) (accs : List Accs) (base : Nat) : Nat := formGo bs accs (2 * accs.length + 2) base

/-- R122: blocks at whose heads the lapidary splits a long region (log 9): free, in a region of more than 128 portable instructions. -/
def splitHeads (bs : List BlockInfo) (heads : Nat) (free : Nat → Bool) : Nat :=
  let n := (bs.map fun b => b.instrs.length).foldl (· + ·) 0
  let long (p : Nat) : Bool := 128 < ((List.range n).filter fun q => regionIdx heads q = regionIdx heads p).length
  bs.foldl (fun s b => if long b.pix && free b.pix then addBit s b.pix else s) heads

end Sys2Proof.Machine
end

