-- ==== Sys2Proof/Machine/Alloc.lean ====
section
/-! DEFINITION. Sys2Proof/Machine/Alloc.lean: the lapidary's linear scan (R129): intervals, placement, spilling, what a call and a region
head put into spill slots (R123, R441), and the plan of a unit that follows: region heads, registers, spill slots, live-ins, NCK, NSPILL. -/

namespace Sys2Proof.Machine

open Sys2Proof

/-! ## Times. A kernel parameter starts at 2, a block's arguments just before its first index, an index p stands at 2p + 4: operands are
read before a result is written (R129). -/

def timeAt (p : Nat) : Nat := 2 * p + 4
def timeArgs (p : Nat) : Nat := 2 * p + 3

structure Interval where
  v : Nat
  start : Nat
  stop : Nat
  deriving DecidableEq, Repr

/-- Where each value starts, in the order of the numbers (R129 step 1). -/
def FuncInfo.starts (f : FuncInfo) : List Nat :=
  (f.params.map fun _ => if f.kern then 2 else timeArgs 0) ++
    (f.blocks.map fun b =>
      (b.args.map fun _ => timeArgs b.pix) ++
        b.instrs.zipIdx.filterMap fun (p, j) => if (instrDefTy p.2).isSome then some (timeAt (b.pix + j)) else none).flatten

/-- The last index at which a value is live, as a time; liveness at a loop's back edge extends the interval to it (R129 step 1). -/
def lastLive (live : List Nat) (v start : Nat) : Nat :=
  live.zipIdx.foldl (fun m (l, p) => if l.testBit v then Nat.max m (timeAt p) else m) start

def FuncInfo.intervals (f : FuncInfo) (live : List Nat) : List Interval :=
  f.starts.zipIdx.map fun (t, v) => { v := v, start := t, stop := lastLive live v t }

/-- Rising start, ties by value number (R129 step 2). -/
def insertInterval (x : Interval) : List Interval → List Interval
  | [] => [x]
  | y :: ys => if x.start < y.start || (x.start = y.start && x.v ≤ y.v) then x :: y :: ys else y :: insertInterval x ys

def sortIntervals (xs : List Interval) : List Interval := xs.foldr insertInterval []

/-! ## Partners (R129 step 4) -/

/-- The edges in layout: target and arguments, as the values they name. -/
def FuncInfo.edges (f : FuncInfo) : List (Nat × List (Option Nat)) :=
  (f.blocks.map fun b =>
    match b.instrs.getLast? with
    | some (n, i) => (instrTargets i).map fun t => (t.block.toNat, t.args.map (opndValue n))
    | none => []).flatten

/-- A block argument's partner is its operand on the first incoming edge; a value passed on an edge has the argument that receives it. -/
def FuncInfo.partner (f : FuncInfo) (v : Nat) : Option Nat :=
  let es := f.edges
  let asArg : Option Nat := f.blocks.zipIdx.findSome? fun (b, k) =>
    if b.argNum ≤ v && v < b.argNum + b.args.length then
      (es.find? fun e => e.1 = k).bind fun e => (e.2[v - b.argNum]?).bind id
    else none
  let asPassed : Option Nat := es.findSome? fun e =>
    (e.2.findIdx? fun o => o = some v).bind fun j => (f.blocks[e.1]?).map fun b => b.argNum + j
  asArg.or asPassed

/-! ## The scan -/

structure Scan where
  /-- The value that each register of the budget holds. -/
  regs : List (Option Nat)
  reg : Tbl Nat := []
  /-- First spill slot of a spilled value (R129 step 5), and the slots given so far. -/
  spill : Tbl Nat := []
  nslot : Nat := 0
  deriving DecidableEq, Repr

/-- What the scan reads of the function. -/
structure ScanIn where
  ivs : List Interval
  widths : List Nat
  uses : List (List Nat)
  partners : List (Option Nat)

def ScanIn.width (x : ScanIn) (v : Nat) : Nat := x.widths.getD v 1
def ScanIn.stop (x : ScanIn) (v : Nat) : Nat := ((x.ivs.find? fun i => i.v = v).map Interval.stop).getD 0

/-- The time of the next use after `t`; later than every time where there is none. -/
def ScanIn.nextUse (x : ScanIn) (v t : Nat) : Nat := ((x.uses.getD v []).find? (t < ·)).getD (2 ^ 64)

def Scan.active (s : Scan) : List Nat := (s.regs.filterMap id).eraseDups

def Scan.release (s : Scan) (v : Nat) : Scan := { s with regs := s.regs.map fun o => if o = some v then none else o }

/-- Every interval that ends at or before a time frees its register (R129 step 3). -/
def Scan.expire (x : ScanIn) (t : Nat) (s : Scan) : Scan :=
  (s.active.filter fun v => x.stop v ≤ t).foldl Scan.release s

/-- `w` free registers from `r`, an even pair where the value is wide. -/
def Scan.fits (s : Scan) (w r : Nat) : Bool := r % w = 0 && (List.range w).all fun j => s.regs[r + j]? = some none

def Scan.lowest (s : Scan) (w : Nat) : Option Nat := (List.range s.regs.length).find? (s.fits w)

def Scan.take (s : Scan) (v w r : Nat) : Scan :=
  { s with regs := s.regs.zipIdx.map fun (o, j) => if r ≤ j && j < r + w then some v else o, reg := s.reg.set v r }

/-- The value whose next use after `t` is furthest away, ties by the lower number. -/
def furthest (x : ScanIn) (t : Nat) : List Nat → Option Nat
  | [] => none
  | v :: vs =>
    match furthest x t vs with
    | none => some v
    | some u =>
      let a := x.nextUse v t
      let b := x.nextUse u t
      if b < a || (a = b && v ≤ u) then some v else some u

/-- A value is spilled for its whole interval, into the next free slots. -/
def Scan.spillValue (x : ScanIn) (s : Scan) (v : Nat) : Scan :=
  { s.release v with reg := s.reg.del v, spill := s.spill.set v s.nslot, nslot := s.nslot + x.width v }

/-- R129 steps 4 and 5 for one value, by fuel: its partner's register, else the lowest that fits, else a spill and another try. -/
def Scan.place (x : ScanIn) (i : Interval) : Nat → Scan → Scan
  | 0, s => s
  | k + 1, s =>
    let w := x.width i.v
    let own := ((x.partners.getD i.v none).bind fun p => s.reg.get? p).bind fun r => if s.fits w r then some r else none
    match own.or (s.lowest w) with
    | some r => s.take i.v w r
    | none =>
      match furthest x i.start (i.v :: s.active) with
      | none => s
      | some v => if v = i.v then s.spillValue x v else Scan.place x i k (s.spillValue x v)

/-- R129 step 6 at one head, by fuel: `held` are the values live there that may be live-ins. -/
def Scan.atHead (x : ScanIn) (t : Nat) (live : Nat → Bool) : Nat → Scan → Scan
  | 0, s => s
  | k + 1, s =>
    let held := s.active.filter live
    if (held.map x.width).foldl (· + ·) 0 ≤ 16 then s
    else
      match furthest x t held with
      | none => s
      | some v => Scan.atHead x t live k (s.spillValue x v)

/-- Heads and intervals in the order in which the scan meets them: a head after the arguments of its block. -/
def scanGo (x : ScanIn) (live : Nat → Nat → Bool) : List Interval → List Nat → Nat → Scan → Scan
  | _, _, 0, s => s
  | [], [], _, s => s
  | [], h :: hs, k + 1, s => scanGo x live [] hs k (s.atHead x (timeArgs h) (live h) 256)
  | i :: is, [], k + 1, s => scanGo x live is [] k ((s.expire x i.start).place x i 256)
  | i :: is, h :: hs, k + 1, s =>
    if i.start ≤ timeArgs h then scanGo x live is (h :: hs) k ((s.expire x i.start).place x i 256)
    else scanGo x live (i :: is) hs k (s.atHead x (timeArgs h) (live h) 256)

/-! ## The plan of a unit -/

/-- What R119 to R131 fix of a unit: its region heads, where each value is held, its spill slots. -/
structure Plan where
  kern : Bool
  /-- Instructions of the function. -/
  len : Nat
  tys : List Ty
  live : List Nat
  heads : Nat
  reg : Tbl Nat
  spill : Tbl Nat
  nspill : Nat
  deriving DecidableEq, Repr

/-- Values of a caller that are live across one of its calls (R441). -/
def crossing (xs : List LInstr) (live : List Nat) : List Nat :=
  xs.zipIdx.foldl (fun l (x, p) =>
    match x.i with
    | .call .. =>
      let m := (live[p + 1]?).getD 0
      let m' := match x.dest with | some v => delBit m v | none => m
      l ++ (List.range (Nat.log2 m' + 1)).filter fun v => m'.testBit v && !l.contains v
    | _ => l) []

/-- Slots for the values that a call puts there and the scan did not (R441), by rising call and number (log 9). -/
def addSlots (width : Nat → Nat) : List Nat → Tbl Nat → Nat → Tbl Nat × Nat
  | [], t, n => (t, n)
  | v :: vs, t, n => if (t.get? v).isSome then addSlots width vs t n else addSlots width vs (t.set v n) (n + width v)

/-- Spill accesses (R130): a store where a spilled value is defined, a fill at each use. -/
def spillAccs (f : FuncInfo) (xs : List LInstr) (width : Nat → Nat) (spill : Tbl Nat) (accs : List Accs) : List Accs :=
  let acc (v : Nat) : Option Acc :=
    (spill.get? v).map fun j => { space := .global, base := .spill, lo := 512 * j, len := some (512 * width v) }
  let atStart (p : Nat) : List Nat :=
    (if p = 0 then List.range f.params.length else []) ++
      (f.blocks.map fun b => if b.pix = p then (List.range b.args.length).map (b.argNum + ·) else []).flatten
  (accs.zip xs).zipIdx.map fun ((a, x), p) =>
    { a with
      reads := a.reads ++ x.uses.filterMap acc
      stores := a.stores ++ (x.dest.toList ++ atStart p).filterMap acc }

/-- The function as the lapidary's later passes take it. -/
structure PlanIn where
  f : FuncInfo
  xs : List LInstr
  live : List Nat
  accs : List Accs
  cross : List Nat
  scan : ScanIn
  budget : Nat

def PlanIn.width (x : PlanIn) (v : Nat) : Nat := x.scan.width v

def PlanIn.headList (x : PlanIn) (heads : Nat) : List Nat := (List.range x.xs.length).filter heads.testBit

/-- Whether a value must be counted at a head: live there, not held in a slot for a call, and not a kernel's own first region (R123). -/
def PlanIn.countsAt (x : PlanIn) (h v : Nat) : Bool :=
  (x.live.getD h 0).testBit v && !x.cross.contains v && !(x.f.kern && h = 0)

def PlanIn.allocate (x : PlanIn) (heads : Nat) : Tbl Nat × Tbl Nat × Nat :=
  let hs := x.headList heads
  let s := scanGo x.scan x.countsAt (sortIntervals x.scan.ivs) hs (x.scan.ivs.length + hs.length + 1)
    { regs := List.replicate x.budget none }
  let (sp, n) := addSlots x.width x.cross s.spill s.nslot
  (s.reg, sp, n)

/-- Regions and slots until the spill accesses ask for no further boundary (R121, R130). -/
def PlanIn.settle (x : PlanIn) : Nat → Nat → Plan
  | 0, heads =>
    let (r, sp, n) := x.allocate heads
    { kern := x.f.kern, len := x.xs.length, tys := x.f.valueTys, live := x.live, heads := heads, reg := r, spill := sp, nspill := n }
  | k + 1, heads =>
    let (r, sp, n) := x.allocate heads
    let h1 := formHeads x.f.blocks (spillAccs x.f x.xs x.width sp x.accs) heads
    if h1 = heads then
      { kern := x.f.kern, len := x.xs.length, tys := x.f.valueTys, live := x.live, heads := heads, reg := r, spill := sp, nspill := n }
    else x.settle k h1

def planIn (ws : List W32) (f : FuncInfo) (budget : Nat) : PlanIn :=
  let xs := layoutInstrs f.blocks 0
  let live := f.live
  let tys := f.valueTys
  { f := f, xs := xs, live := live, accs := xs.map fun x => instrAccs ws f x.n x.i, cross := crossing xs live, budget := budget
    scan :=
      { ivs := f.intervals live, widths := tys.map tyRegs
        uses := (List.range tys.length).map fun v => xs.zipIdx.filterMap fun (x, p) => if x.uses.contains v then some (timeAt p) else none
        partners := (List.range tys.length).map f.partner } }

/-- THE LAPIDARY'S PLAN of a function under a register budget (R119-R131). `wait` and `split` are its free choices. -/
def plan (wait : Nat → Nat) (split : Nat → Bool) (ws : List W32) (f : FuncInfo) (budget : Nat) : Plan :=
  let x := planIn ws f budget
  let h0 := formHeads f.blocks x.accs (fixedHeads f.blocks wait)
  x.settle (x.xs.length + 1) (formHeads f.blocks x.accs (splitHeads f.blocks h0 split))

/-! ## What a plan says -/

def Plan.width (p : Plan) (v : Nat) : Nat := ((p.tys[v]?).map tyRegs).getD 1
/-- The head at an index. -/
def Plan.isHead (p : Plan) (pix : Nat) : Bool := p.heads.testBit pix
/-- The region that holds an index (R80). -/
def Plan.region (p : Plan) (pix : Nat) : Nat := regionIdx p.heads pix
def Plan.headList (p : Plan) : List Nat := (List.range p.len).filter p.heads.testBit
/-- The first portable instruction of a region (R80 RPIX). -/
def Plan.rpix (p : Plan) (r : Nat) : Nat := p.headList.getD r 0
def Plan.nregion (p : Plan) : Nat := p.headList.length

def Plan.liveAt (p : Plan) (pix : Nat) : List Nat := (List.range p.tys.length).filter fun v => (p.live.getD pix 0).testBit v

/-- The live-ins of a region (R123), ascending by number: held in registers at its head; none of a kernel's first region. -/
def Plan.liveIns (p : Plan) (r : Nat) : List Nat :=
  if p.kern && r = 0 then [] else (p.liveAt (p.rpix r)).filter fun v => (p.spill.get? v).isNone

/-- The values in spill slots at a region's head (R130). -/
def Plan.spilledAt (p : Plan) (r : Nat) : List Nat :=
  if p.kern && r = 0 then [] else (p.liveAt (p.rpix r)).filter fun v => (p.spill.get? v).isSome

/-- First checkpoint slots of some live-ins, one after another (R123; log 9). -/
def slotsFrom (width : Nat → Nat) : List Nat → Nat → List (Nat × Nat)
  | [], _ => []
  | v :: vs, j => (v, j) :: slotsFrom width vs (j + width v)

def Plan.ckSlots (p : Plan) (r : Nat) : List (Nat × Nat) := slotsFrom p.width (p.liveIns r) 0
/-- Checkpoint slots a region uses. -/
def Plan.nlive (p : Plan) (r : Nat) : Nat := ((p.liveIns r).map p.width).foldl (· + ·) 0
/-- The checkpoint slots that the run of the region at an index writes (R126): all of its live-ins (log 9). -/
def Plan.slotMask (p : Plan) (pix : Nat) : BitVec 16 :=
  (p.ckSlots (p.region pix)).foldl (fun m vj => m ||| (1#16 <<< vj.2) ||| (if p.width vj.1 = 2 then 1#16 <<< (vj.2 + 1) else 0)) 0
/-- NCK (R104, R124). -/
def Plan.nck (p : Plan) : Nat := ((List.range p.nregion).map p.nlive).foldl Nat.max 0

end Sys2Proof.Machine
end

