-- ==== Sys2Proof/Machine/SlotDecode.lean ====
section
/-! DEFINITION. Sys2Proof/Machine/SlotDecode.lean: native bundles and slots (R68-R73, R75): what a slot asks for, and which encodings are
slot faults (R77). -/

namespace Sys2Proof

open Machine

/-- A register specifier (R73). -/
def NReg.ofSpec? (n : Nat) : Option NReg :=
  if h : n < 0x80 then some (.v ⟨n, h⟩)
  else if n < 0x90 then (fin? 16 (n - 0x80)).map .w
  else if n < 0x94 then (fin? 4 (n - 0x90)).map .z
  else if n = 0x94 then some .zero
  else if n = 0x95 then some .lane
  else if n = 0x96 then some .ones
  else if n = 0x97 then some .lit
  else if 0xA0 ≤ n && n < 0xAC then (fin? 12 (n - 0xA0)).map .k
  else if 0xC0 ≤ n then (fin? 64 (n - 0xC0)).map .s
  else none

def Eng.ofTag? (n : Nat) : Option Eng :=
  match n with
  | 1 => some .S | 2 => some .L | 3 => some .V | 4 => some .M | 5 => some .X | _ => none
def Eng.tag : Eng → Nat
  | .S => 1 | .L => 2 | .V => 3 | .M => 4 | .X => 5

/-- The opcodes an engine accepts (R71). -/
def Eng.accepts (e : Eng) (o : Nat) : Bool :=
  match e with
  | .S => o < 0x08 || (0x09 ≤ o && o < 0x0E) || (0x10 ≤ o && o < 0x2C) || (0x90 ≤ o && o < 0x98) || (0xA0 ≤ o && o < 0xA6) ||
    (0xB0 ≤ o && o < 0xB8) || o = 0xC0 || o = 0xC5 || o = 0xC6
  | .L => (0x50 ≤ o && o < 0x60) || (0xC1 ≤ o && o < 0xC5) || o = 0xC6 || o = 0xC9
  | .V => o = 0x08 || o = 0x0E || o = 0x0F || (0x10 ≤ o && o < 0x4F) || (0xC6 ≤ o && o < 0xC9)
  | .M => (0x70 ≤ o && o < 0x80) || o = 0xC6 || o = 0xCA
  | .X => (0x60 ≤ o && o < 0x68) || o = 0xC6

/-- What a slot asks for: a portable opcode over native operands, a branch by displacement, or a native-only operation. -/
inductive Slot where
  | op (i : Instr) (dest : NReg) (lit : W64)
  | br (disp : Int)
  | brc (pred : NReg) (disp : Int)
  | call (disp : Int)
  | ret
  | switch (idx : NReg) (disp : Int)
  | only (i : Instr)
  deriving DecidableEq, Repr

/-- A main-file specifier below the warp's budget (R73). -/
def NReg.within (budget : Nat) : NReg → Bool
  | .v i => i.val < budget
  | _ => true

/-- D as a destination for an engine (R73). -/
def destOk (e : Eng) : NReg → Bool
  | .v _ | .zero | .k _ => true
  | .w _ => e = .V || e = .L || e = .M
  | .s _ => e = .S || e = .L
  | _ => false

/-- What an S-engine arithmetic slot may name (R71). -/
def NReg.uniform : NReg → Bool
  | .s _ | .zero | .ones | .lit => true
  | _ => false

/-- The portable instruction of a slot's side-table index (R81), as the slot's decoding takes it: opcode, TY, MOD and operand words, in which
a value that no field of the slot can name stands as the register that holds it (R82; log 15). -/
structure SlotLook where
  op : Nat
  ty : Ty
  m : Nat
  ops : List Raw
  deriving DecidableEq, Repr

/-- A specifier in the place of an operand word. Where the word is a K = 01 index, the specifier names it: a mask register by its number,
LIT by its value (log 15). -/
def specRaw (lit : W64) (r : NReg) : Raw → Raw
  | .o (.imm _) =>
    match r with
    | .k i => .o (.imm (BitVec.ofNat 30 i.val))
    | .lit => .o (.imm (lit.setWidth 30))
    | r => .o (.nat r)
  | _ => .o (.nat r)

/-- Operand words with the slot's fields in the place of the first of them. -/
def fieldRaws (lit : W64) : List NReg → List Raw → List Raw
  | r :: rs, x :: xs => specRaw lit r x :: fieldRaws lit rs xs
  | _, xs => xs

/-- The operands of a native form: no value reference and no block word. -/
def Instr.nativeOk (i : Instr) : Bool :=
  i.opnds.all fun | .ref _ => false | _ => true

def slotInstr (op : Nat) (ty : Ty) (m : Nat) (rs : List Raw) : Option Instr :=
  match build op ty m rs with
  | some i => if i.typeOk && i.nativeOk then some i else none
  | none => none

/-- Operand words of a slot that stands for no portable instruction of its opcode (a parameter load, a move): each of the first `n`
fields a value or an index, the longest list that the opcode takes (log 15). -/
def plainRaws (lit : W64) (rs : List NReg) : List (List Raw × List NReg) :=
  [3, 2, 1, 0].flatMap fun n =>
    let r := rs.take n
    let v (x : NReg) : Raw := .o (.nat x)
    let k (x : NReg) : Raw := specRaw lit x (.o (.imm 0))
    [r.map v, (r.dropLast.map v) ++ (r.drop (r.length - 1)).map k, (r.take 1).map k ++ (r.drop 1).map v, r.map k].map fun x => (x, r)

/-- The instruction of a portable opcode in a slot, and the fields that it uses as specifiers: A, B and C, then D where the operation
defines no value (log 15). `fields` are D, A, B, C. -/
def opSlot (op : Nat) (ty : Ty) (m : Nat) (lit : W64) (look : Option SlotLook) (fields : List Nat) : Option (Instr × List NReg) :=
  let d := fields.headD 0
  let abc := fields.drop 1
  let specs (l : List Nat) : Option (List NReg) := l.mapM NReg.ofSpec?
  let own : Option (Instr × List NReg) :=
    match look with
    | none => none
    | some k =>
      if k.op = op && k.ty = ty && k.m = m then
        let n := k.ops.length
        let with_ (l : List Nat) : Option (Instr × List NReg) :=
          match specs l with
          | none => none
          | some rs => (slotInstr op ty m (fieldRaws lit rs k.ops)).map fun i => (i, rs)
        match with_ (abc.take n) with
        | none => none
        | some (i, rs) => if (instrDefTy i).isNone && 3 < n then with_ (abc ++ [d]) else some (i, rs)
      else none
  own.or
    ((plainRaws lit (abc.map fun x => (NReg.ofSpec? x).getD .zero)).findSome? fun (r, used) =>
      match slotInstr op ty m r with
      | some i => if (abc.take used.length).all fun x => (NReg.ofSpec? x).isSome then some (i, used) else none
      | none => none)

/-- A native-only operation (R75): the specifiers it reads, and the instruction. -/
def nativeOnly (e : Eng) (opc d a b c nmod : Nat) : Option (List NReg × Instr) :=
  let slot : Fin 16 := ⟨nmod % 16, Nat.mod_lt _ (by decide)⟩
  let dst (f : NReg → Instr) : Option (List NReg × Instr) := (NReg.ofSpec? d).bind fun r => if destOk e r then some ([r], f r) else none
  let src (f : NReg → Instr) : Option (List NReg × Instr) := (NReg.ofSpec? a).map fun r => ([r], f r)
  match opc with
  | 0xC0 => some ([], .rgn (BitVec.ofNat 16 (b * 256 + c)))
  | 0xC1 => if mb nmod 4 then some ([], .ckst .zero slot true) else src fun r => .ckst r slot false
  | 0xC2 => if mb nmod 4 then some ([], .ckld .zero slot true) else dst fun r => .ckld r slot false
  | 0xC3 => src fun r => .vsp r (BitVec.ofNat 16 (b * 256 + c))
  | 0xC4 => dst fun r => .vfl r (BitVec.ofNat 16 (b * 256 + c))
  | 0xC5 => (fin? 128 d).map fun v => ([], .rotWindow v ⟨nmod % 64, Nat.mod_lt _ (by decide)⟩)
  | 0xC6 => some ([], .waitc e ⟨nmod % 4, Nat.mod_lt _ (by decide)⟩ (BitVec.ofNat 8 a))
  | 0xC7 =>
    match NReg.ofSpec? d, NReg.ofSpec? a with
    | some (.w i), some (.v j) => some ([.v j], .mvw (.w i) (.v j))
    | some (.v i), some (.w j) => some ([.v i], .mvw (.v i) (.w j))
    | some (.w i), some (.w j) => some ([], .mvw (.w i) (.w j))
    | some (.v i), some (.v j) => some ([.v i, .v j], .mvw (.v i) (.v j))
    | _, _ => none
  | 0xC8 => (match NReg.ofSpec? d, NReg.ofSpec? a with | some (.v i), some (.z j) => some ([.v i], .mvz (.v i) (.z j)) | _, _ => none)
  | 0xC9 => src fun r => .qpsh r (mb nmod 0)
  | 0xCA => (match NReg.ofSpec? d with | some (.w i) => some ([], .qpop (.w i) (mb nmod 0)) | _ => none)
  | _ => none

/-- The specifiers a slot uses are within the budget, and at most one is the literal, where there is one (R72, R73). -/
def specsOk (budget : Nat) (ext : Bool) (rs : List NReg) : Bool :=
  rs.all (NReg.within budget) && (rs.filter (· = .lit)).length ≤ (if ext then 1 else 0)

/-- A slot with its extension (R70-R75); none is a slot fault. `budget` is the warp's register budget (R73). -/
def decodeSlot (budget : Nat) (look : Option SlotLook) (w : BitVec 56) (ext : Option (BitVec 56)) : Option (Eng × Slot) :=
  match Eng.ofTag? (w.extractLsb' 53 3).toNat with
  | none => none
  | some e =>
    let opc := (w.extractLsb' 45 8).toNat
    let d := (w.extractLsb' 37 8).toNat
    let a := (w.extractLsb' 29 8).toNat
    let b := (w.extractLsb' 21 8).toNat
    let c := (w.extractLsb' 13 8).toNat
    let nmod := (w.extractLsb' 0 6).toNat
    let ty := Ty.ofCode (w.extractLsb' 7 6)
    let lit : W64 := match ext with | some x => (x.extractLsb' 0 44).signExtend 64 | none => 0
    let xmod := match ext with | some x => (x.extractLsb' 44 9).toNat | none => 0
    let disp := ((w.extractLsb' 13 24) : BitVec 24).toInt
    if !e.accepts opc then none
    else if 0xC0 ≤ opc then
      (nativeOnly e opc d a b c nmod).bind fun (rs, i) => if specsOk budget ext.isSome rs then some (e, .only i) else none
    else if opc = 1 then some (e, .br disp)
    else if opc = 2 then
      match NReg.ofSpec? d with
      | some (.k i) => some (e, .brc (.k i) disp)
      | some (.v i) => if i.val < budget then some (e, .brc (.v i) disp) else none
      | _ => none
    else if opc = 3 then (NReg.ofSpec? d).bind fun r => if destOk e r && r.within budget then some (e, .switch r disp) else none
    else if opc = 4 then some (e, .call disp)
    else if opc = 5 then some (e, .ret)
    else
      match opSlot opc ty (xmod * 64 + nmod) lit look [d, a, b, c] with
      | none => none
      | some (i, rs) =>
        let arith := e = .S && 0x10 ≤ opc && opc < 0x2C
        let rd : Option NReg := if (instrDefTy i).isSome then (match NReg.ofSpec? d with | some r => if destOk e r then some r else none | none => none) else some .zero
        match rd with
        | none => none
        | some r => if specsOk budget ext.isSome (r :: rs) && !(arith && !(r :: rs).all NReg.uniform) then some (e, .op i r lit) else none

/-- A native bundle (R68, R69). -/
structure Bundle where
  head : Bool
  ckpt : Bool
  hint : Nat
  seq : Nat
  stx : Nat
  slots : List (Nat × Eng × Slot)
  deriving DecidableEq, Repr

def bundleSlot (w : BitVec 256) (i : Nat) : BitVec 56 := w.extractLsb' (56 * i) 56

/-- R4, R68: a bundle as 32 bytes, bits [7:0] at the lowest address. -/
def bundleBytes (w : BitVec 256) : List Byte := (List.range 32).map fun k => w.extractLsb' (8 * k) 8

/-- The bundle that 32 bytes hold. -/
def bundleOfBytes (bs : List Byte) : BitVec 256 := BitVec.ofNat 256 (bs.foldr (fun b n => b.toNat + 256 * n) 0)

/-- The slots of a bundle, from slot `i` by fuel; none is a slot fault. `looks` are the slots' portable instructions. -/
def decodeSlots (budget : Nat) (looks : List (Option SlotLook)) (w : BitVec 256) (sv : Nat) : Nat → Nat → Option (List (Nat × Eng × Slot))
  | 0, _ => some []
  | f + 1, i =>
    if 4 ≤ i then some []
    else if !mb sv i then decodeSlots budget looks w sv f (i + 1)
    else
      let x := bundleSlot w i
      let look := (looks[i]?).getD none
      let xt := (x.extractLsb' 6 1) = 1
      if xt then
        let y := bundleSlot w (i + 1)
        if i = 3 || mb sv (i + 1) || (y.extractLsb' 53 3) ≠ 0 then none
        else
          match decodeSlot budget look x (some y), decodeSlots budget looks w sv f (i + 2) with
          | some s, some r => some ((i, s) :: r)
          | _, _ => none
      else
        match decodeSlot budget look x none, decodeSlots budget looks w sv f (i + 1) with
        | some s, some r => some ((i, s) :: r)
        | _, _ => none

def decodeBundle (budget : Nat) (looks : List (Option SlotLook)) (w : BitVec 256) : Option Bundle :=
  let sv := (w.extractLsb' 250 4).toNat
  (decodeSlots budget looks w sv 4 0).map fun ss =>
    { head := (w.extractLsb' 255 1) = 1, ckpt := (w.extractLsb' 254 1) = 1, hint := (w.extractLsb' 248 2).toNat,
      seq := (w.extractLsb' 236 12).toNat, stx := (w.extractLsb' 224 12).toNat, slots := ss }

end Sys2Proof
end

