-- ==== Sys2Proof/Machine/Units.lean ====
section
/-! DEFINITION. Sys2Proof/Machine/Units.lean: translation units (R104, R105): the plan of a function under the lapidary's free choices, the
side table (R79-R82) and how a value is found in it (R83), and what a draft of bundles must keep to be the unit's (R68-R75, R81, R106, R122,
R129, R130, R135). -/

namespace Sys2Proof.Machine

open Sys2Proof

/-- What every unit of an image depends on (R105): the measured microcode and the module's words. -/
structure XIn where
  mc : List Byte
  ws : List W32
  deriving DecidableEq, Repr

/-- A unit of an image (R104): function, die kind, budget. -/
structure UName where
  fsym : Nat
  w2e : Bool
  budget : Nat
  deriving DecidableEq, Repr

def XIn.draft (x : XIn) (u : UName) : Config.UnitDraft := Config.unitDraft x.mc x.ws u.fsym u.w2e u.budget

/-- The plan of a unit (R119-R131). -/
def XIn.plan (x : XIn) (u : UName) : Plan :=
  match moduleFunc x.ws u.fsym with
  | some f => Sys2Proof.Machine.plan (Config.waitChoice x.mc x.ws u.fsym u.w2e u.budget) (Config.splitChoice x.mc x.ws u.fsym u.w2e u.budget) x.ws f u.budget
  | none => { kern := false, len := 0, tys := [], live := [], heads := 1, reg := [], spill := [], nspill := 0 }

/-! ## Bundles -/

def bundleH (b : BitVec 256) : Bool := b.getLsbD 255
def bundleC (b : BitVec 256) : Bool := b.getLsbD 254

/-- The engine tags of a bundle's valid slots, in slot order (R69, R70). -/
def bundleTags (b : BitVec 256) : List Nat :=
  (List.range 4).filterMap fun i => if b.getLsbD (250 + i) then some ((bundleSlot b i).extractLsb' 53 3).toNat else none

/-- Slots of an engine in a run of bundles (R81 SIX). -/
def tagCount (e : Nat) (bs : List (BitVec 256)) : Nat := (bs.map fun b => (bundleTags b).count e).foldl (· + ·) 0

/-- The head bundles, in order (R69). -/
def headsOf (bs : List (BitVec 256)) : List Nat := bs.zipIdx.filterMap fun (b, k) => if bundleH b then some k else none

/-- First bundle and number of bundles of each region, from the heads and the number of bundles. -/
def spans : List Nat → Nat → List (Nat × Nat)
  | [], _ => []
  | [h], n => [(h, n - h)]
  | h :: h' :: r, n => (h, h' - h) :: spans (h' :: r) n

/-- Regions by their lengths (R80). -/
def spansOf : List Nat → Nat → List (Nat × Nat)
  | [], _ => []
  | n :: r, at_ => (at_, n) :: spansOf r (at_ + n)

/-! ## Location entries (R82) -/

/-- A location entry. Kinds: 0 dead, 1 main file, 2 operand file, 3 last-result file, 4 uniform file, 5 spill slot, 6 checkpoint slot,
7 constant pool. -/
structure LocEntry where
  v : Nat
  kind : Nat
  loc : Nat
  leng : Nat := 0
  after : Nat := 0
  deriving DecidableEq, Repr

def LocEntry.word (e : LocEntry) : W64 :=
  BitVec.ofNat 64 (e.loc % 65536 * 2 ^ 48 + e.after % 4096 * 2 ^ 36 + e.leng % 8 * 2 ^ 33 + e.kind % 16 * 2 ^ 28 + e.v % 2 ^ 24)

def LocEntry.ofWord (w : W64) : LocEntry :=
  { v := field w.toNat 0 24, kind := field w.toNat 28 4, loc := field w.toNat 48 16, leng := field w.toNat 33 3, after := field w.toNat 36 12 }

/-- The order of a region's entries: by value number, by rising AFTER, kind 6 first among equals (R82, R128). -/
def LocEntry.before (a b : LocEntry) : Bool :=
  a.v < b.v || (a.v = b.v && (a.after < b.after || (a.after = b.after && (a.kind = 6 || b.kind ≠ 6))))

def insertLoc (x : LocEntry) : List LocEntry → List LocEntry
  | [] => [x]
  | y :: ys => if x.before y then x :: y :: ys else y :: insertLoc x ys

/-- The entries at a region's head: a live-in in its checkpoint slot and in its register, a spilled value in its slot (R123, R128, R130). -/
def Plan.headEntries (p : Plan) (r : Nat) : List LocEntry :=
  ((p.ckSlots r).map fun (v, j) => [{ v := v, kind := 6, loc := j }, { v := v, kind := 1, loc := p.reg.get 0 v }]).flatten ++
    (p.spilledAt r).map fun v => { v := v, kind := 5, loc := p.spill.get 0 v }

def Plan.entries (p : Plan) (d : Config.UnitDraft) (ok : Bool) (r : Nat) : List LocEntry :=
  (p.headEntries r ++ (if ok then (d.locs.getD r []).map LocEntry.ofWord else [])).foldr insertLoc []

/-! ## The side table -/

/-- IDEM of a region (R80): 0 outside every `.region idem` and after a `regn` (R190), else the number plus one. -/
def idemField (ws : List W32) (fsym rpix : Nat) : Nat :=
  match moduleFunc ws fsym with
  | none => 0
  | some f =>
    let regnBefore := rpix ≠ 0 && (instrAt f.blocks (rpix - 1)).any fun p => p.2 = .regn
    match blockAt f.blocks rpix with
    | some (k, _) => if regnBefore then 0 else (match idemOf f.blocks k with | some r => r + 1 | none => 0)
    | none => 0

/-- First bundle and length of each region; lengths of 1 to 1,024 where no bundles are listed (R80). -/
def Plan.regionSpans (p : Plan) (d : Config.UnitDraft) (ok : Bool) : List (Nat × Nat) :=
  if ok then spans (headsOf d.bundles) d.bundles.length
  else spansOf ((List.range p.nregion).map fun r => 1 + d.lens.getD r 0 % 1024) 0

/-- A region record (R80). -/
def regionRecord (ws : List W32) (fsym : Nat) (p : Plan) (r : Nat) (span : Nat × Nat) : List W64 :=
  [BitVec.ofNat 64 (p.nlive r * 2 ^ 48 + span.2 * 2 ^ 32 + span.1), BitVec.ofNat 64 (idemField ws fsym (p.rpix r) * 2 ^ 24 + p.rpix r)]

/-- A bundle record (R81): `before` are the region's bundles before this one. -/
def bundleRecord (region seq : Nat) (b : BitVec 256) (pix : List Nat) (before : List (BitVec 256)) (locFirst locN : Nat) : List W64 :=
  let x (i : Nat) : Nat := pix.getD i 0xFFFFFF % 2 ^ 24
  [BitVec.ofNat 64 (region * 2 ^ 48 + x 1 * 2 ^ 24 + x 0),
   BitVec.ofNat 64 ((if bundleH b then 2 ^ 63 else 0) + (if bundleC b then 2 ^ 62 else 0) + seq % 4096 * 2 ^ 48 + x 3 * 2 ^ 24 + x 2),
   BitVec.ofNat 64 ((List.range 5).foldl (fun n e => n + tagCount (e + 1) before % 4096 * 2 ^ (12 * e)) 0),
   BitVec.ofNat 64 (locN * 2 ^ 32 + locFirst)]

def sums : List Nat → Nat → List Nat
  | [], _ => []
  | n :: r, at_ => at_ :: sums r (at_ + n)

/-- The side table (R79): header, region records, bundle records, location entries (log 9: in this order). -/
def sideTable (x : XIn) (u : UName) (modid : W64) (p : Plan) (d : Config.UnitDraft) (ok : Bool) : List W64 :=
  let spans := p.regionSpans d ok
  let locs := (List.range p.nregion).map (p.entries d ok)
  let firsts := sums (locs.map List.length) 0
  let regions := (spans.zipIdx.map fun (s, r) => regionRecord x.ws u.fsym p r s).flatten
  let records :=
    if ok then
      (spans.zipIdx.map fun (s, r) =>
        ((List.range s.2).map fun j =>
          bundleRecord r (s.1 + j) (d.bundles.getD (s.1 + j) 0) (d.pixs.getD (s.1 + j) []) ((d.bundles.drop s.1).take j)
            (firsts.getD r 0) ((locs.getD r []).length)).flatten).flatten
    else []
  let nb := (spans.map Prod.snd).foldl (· + ·) 0
  let entries := locs.flatten.map LocEntry.word
  let brec := 64 + 16 * p.nregion
  let loc := brec + 8 * records.length
  let w (hi lo : Nat) : W64 := BitVec.ofNat 64 (hi * 2 ^ 32 + lo)
  [BitVec.ofNat 64 (u.fsym * 2 ^ 32 + u.budget * 2 ^ 24 + (if u.w2e then 2 ^ 16 else 0) + 1), modid, BitVec.ofNat 64 (d.bbase / 32 * 32),
   w p.nregion nb, w loc brec, w entries.length 64, BitVec.ofNat 64 p.nspill, 0] ++ regions ++ records ++ entries

/-! ## Reading a side table -/

def UnitImg.hw (u : UnitImg) (i lo n : Nat) : Nat := field (u.table.getD i 0).toNat lo n
def UnitImg.nregion (u : UnitImg) : Nat := u.hw 3 32 32
def UnitImg.brec (u : UnitImg) : Nat := u.hw 4 0 32 / 8
def UnitImg.locOff (u : UnitImg) : Nat := u.hw 4 32 32 / 8
/-- A field of a region record (R80). -/
def UnitImg.rfield (u : UnitImg) (r w lo n : Nat) : Nat := u.hw (8 + 2 * r + w) lo n
def UnitImg.rfirst (u : UnitImg) (r : Nat) : Nat := u.rfield r 0 0 32
def UnitImg.rlen (u : UnitImg) (r : Nat) : Nat := u.rfield r 0 32 16
def UnitImg.rpix (u : UnitImg) (r : Nat) : Nat := u.rfield r 1 0 24
/-- A field of a bundle record (R81). -/
def UnitImg.bfield (u : UnitImg) (b w lo n : Nat) : Nat := u.hw (u.brec + 4 * b + w) lo n
def UnitImg.region (u : UnitImg) (b : Nat) : Nat := u.bfield b 0 48 16
def UnitImg.pix (u : UnitImg) (b i : Nat) : Nat := u.bfield b (i / 2) (24 * (i % 2)) 24
def UnitImg.six (u : UnitImg) (b e : Nat) : Nat := u.bfield b 2 (12 * (e - 1)) 12
/-- The location entries of a bundle's region. -/
def UnitImg.entries (u : UnitImg) (b : Nat) : List LocEntry :=
  ((List.range (u.bfield b 3 32 16)).map fun j => LocEntry.ofWord (u.table.getD (u.locOff + u.bfield b 3 0 32 + j) 0))

/-- R83: where a value is at a stop: `six e` is the stream index of engine `e`. None: dead. -/
def locate (es : List LocEntry) (six : Nat → Nat) (v : Nat) : Option LocEntry :=
  (es.foldl (fun (l : Option LocEntry) e => if e.v = v && (e.leng = 0 || e.after ≤ six e.leng) then some e else l) none).bind fun e =>
    if e.kind = 0 then none else some e

/-- Bytes of a unit in the backing store (R112): its image. -/
def UnitImg.bytes (u : UnitImg) : Nat :=
  u.bbase + 32 * ((List.range u.nregion).map u.rlen).foldl (· + ·) 0 + u.pool.length + 8 * u.table.length

/-- R4, R105: the unit image from its start: what stands before bundle 0, the bundles, the constant pool, the side table. -/
def UnitImg.image (u : UnitImg) : List Byte :=
  List.replicate u.bbase 0 ++ (u.bundles.map bundleBytes).flatten ++ u.pool ++
    (u.table.map fun (w : W64) => (List.range 8).map fun k => w.extractLsb' (8 * k) 8).flatten

/-- Entry `j` of a `switch` table (R74): a 32-bit displacement, from the bundle that TDISP names. -/
def UnitImg.tableEntry (u : UnitImg) (b j : Nat) : Int :=
  let bytes := (u.image.drop (u.bbase + 32 * b + 4 * j)).take 4
  (BitVec.ofNat 32 (bytes.foldr (fun x n => x.toNat + 256 * n) 0)).toInt

/-! ## What a slot's decoding takes from the side table -/

/-- The specifier of a value's place, where it is in a register file. -/
def LocEntry.spec? (e : LocEntry) : Option NReg := if 1 ≤ e.kind && e.kind ≤ 4 then NReg.ofSpec? (e.loc % 256) else none

/-- Operand words of an instruction, with located values in the place of references (R82; log 15). -/
def lookRaws (loc : Nat → Option NReg) (n : Nat) (i : Instr) : List Raw :=
  (i.encOperands.filterMap fun w => (parseOp w).map Prod.fst).map fun r =>
    match r with
    | .o (.ref d) => (match (opndValue n (.ref d)).bind loc with | some x => .o (.nat x) | none => r)
    | r => r

/-- The portable instruction of each slot of a bundle. -/
def slotLooks (f : FuncInfo) (pixs : List Nat) (es : List LocEntry) (six : Nat → Nat) : List (Option SlotLook) :=
  (List.range 4).map fun i =>
    (instrAt f.blocks (pixs.getD i 0xFFFFFF)).map fun (n, x) =>
      { op := x.head.1, ty := x.head.2.1, m := x.head.2.2, ops := lookRaws (fun v => (locate es six v).bind LocEntry.spec?) n x }

/-- A bundle of a stored unit, decoded (R68-R75) beside its record. The stored STX must be the record's (R69). -/
def UnitImg.decode (u : UnitImg) (ws : List W32) (b : Nat) : Option Bundle :=
  match u.bundles[b]?, moduleFunc ws u.key.fsym with
  | some w, some f =>
    (decodeBundle u.key.budget (slotLooks f ((List.range 4).map (u.pix b)) (u.entries b) (u.six b)) w).bind fun d =>
      if d.stx = u.bfield b 1 48 12 then some d else none
  | _, _ => none

/-! ## What a draft must keep -/

/-- What a register holds in sequence: a value, and which half of it. -/
abbrev RegMap := List (NReg × (Nat × Bool))

def RegMap.get (m : RegMap) (r : NReg) : Option (Nat × Bool) := (m.find? fun p => p.1 = r).map Prod.snd
def RegMap.del (m : RegMap) (r : NReg) : RegMap := m.filter fun p => p.1 ≠ r
def RegMap.put (m : RegMap) (r : NReg) (x : Nat × Bool) : RegMap := (r, x) :: m.del r

/-- The next register of a pair. -/
def nextReg : NReg → NReg
  | .v i => .v (i + 1)
  | .w i => .w (i + 1)
  | r => r

/-- A register of its file holds all of a value. -/
def Plan.holds (p : Plan) (m : RegMap) (r : NReg) (v : Nat) : Bool :=
  m.get r = some (v, false) && (p.width v = 1 || nextReg r = r || m.get (nextReg r) = some (v, true))

def Plan.putValue (p : Plan) (m : RegMap) (r : NReg) (v : Nat) : RegMap :=
  if p.width v = 1 || nextReg r = r then m.put r (v, false) else (m.put r (v, false)).put (nextReg r) (v, true)

/-- The registers as the plan has them before an instruction: every live value that is not in a slot in its own (R123, R129). -/
def Plan.regMap (p : Plan) (pix : Nat) : RegMap :=
  (p.liveAt pix).foldl (fun m v =>
    match p.reg.get? v, p.spill.get? v with
    | some r, none => (NReg.ofSpec? r).elim m fun s => p.putValue m s v
    | _, _ => m) []

/-- The value whose half a spill slot holds. -/
def Plan.slotValue (p : Plan) (j : Nat) : Option (Nat × Bool) :=
  p.spill.findSome? fun (v, k) => if k = j then some (v, false) else if k + 1 = j && p.width v = 2 then some (v, true) else none

/-- A draft's bundle beside its place. -/
structure DBundle where
  idx : Nat
  region : Nat
  w : BitVec 256
  pixs : List Nat
  d : Bundle

/-- What one slot does to the registers in sequence (R135), none where its operands are not the portable instruction's (R71, R106). -/
def seqSlot (f : FuncInfo) (p : Plan) (pix : Nat) (sl : Slot) (m : RegMap) : Option RegMap :=
  match sl with
  | .op i d lit =>
    match instrAt f.blocks pix with
    | none => none
    | some (n, x) =>
      if i.head = x.head then
        let ok := (i.opnds.zip x.opnds).all fun (a, b) =>
          match a, opndValue n b with
          | .nat r, some v => p.holds m r v
          | _, some _ => false
          | _, none => true
        if !ok then none
        else if (instrDefTy x).isSome then some (p.putValue m d n) else some m
      else
        match i with
        | .ld _ .param _ none a none =>
          let off : Option Nat := match a with | .nat .zero => some 0 | .nat .lit => some lit.toNat | .imm v => some v.toNat | _ => none
          let par := (paramLayout f.params).1.findIdx? fun o => some o = off
          (par.bind fun k => if f.kern then some (p.putValue m d k) else none)
        | .or _ _ (.nat a) (.nat .zero) => some (match m.get a with | some v => m.put d v | none => m.del d)
        | _ => if (instrDefTy i).isSome then some ((m.del d).del (nextReg d)) else none
  | .only (.vfl r j) => some (match p.slotValue j.toNat with | some x => m.put r x | none => m.del r)
  | .only (.vsp r j) => if (p.slotValue j.toNat).isSome && m.get r = p.slotValue j.toNat then some m else none
  | .only (.mvw d a) | .only (.mvz d a) => some (match m.get a with | some x => m.put d x | none => m.del d)
  | .only (.qpop d _) => some (m.del d)
  | .only (.rotWindow ..) | .only (.ckld ..) => none
  | _ => some m

/-- The slots of a bundle in order, each with its index. -/
def seqBundle (f : FuncInfo) (p : Plan) (b : DBundle) : List (Nat × Eng × Slot) → RegMap → Option RegMap
  | [], m => some m
  | (i, _, sl) :: r, m => (seqSlot f p (b.pixs.getD i 0xFFFFFF) sl m).bind (seqBundle f p b r)

/-- The block whose instructions a bundle's slots are, by its first portable slot. -/
def DBundle.block (f : FuncInfo) (b : DBundle) : Option Nat :=
  b.d.slots.findSome? fun (i, _, sl) =>
    match sl with
    | .only _ => none
    | _ => (blockAt f.blocks (b.pixs.getD i 0xFFFFFF)).map Prod.fst

/-- At an edge of a block's branch, the registers hold what the target block's values are to be: its arguments the edge's operands, every other
live value itself (R74: the arguments have been moved). A literal argument is not looked at. -/
def edgeOk (f : FuncInfo) (p : Plan) (m : RegMap) (from_ to_ : Nat) : Bool :=
  match f.blocks[from_]?.bind fun b => b.instrs.getLast?, f.blocks[to_]? with
  | some (n, i), some b =>
    (instrTargets i).all fun t => t.block.toNat ≠ to_ ||
      (p.liveAt b.pix).all fun v =>
        match (p.reg.get? v).bind NReg.ofSpec?, p.spill.get? v with
        | some r, none =>
          if b.argNum ≤ v && v < b.argNum + b.args.length then
            (match (t.args[v - b.argNum]?).bind (opndValue n) with | some u => p.holds m r u | none => true)
          else p.holds m r v
        | _, _ => true
  | _, _ => true

/-- The block in which a bundle stands: its region's head's, or that of its first portable slot. -/
def DBundle.here (f : FuncInfo) (p : Plan) (b : DBundle) : Option Nat :=
  if bundleH b.w then (blockAt f.blocks (p.rpix b.region)).map Prod.fst else b.block f

/-- The branches of a bundle find the registers as their targets want them. -/
def branchEdges (f : FuncInfo) (p : Plan) (all : List DBundle) (b : DBundle) (m : RegMap) : Bool :=
  b.d.slots.all fun (i, _, sl) =>
    match (blockAt f.blocks (b.pixs.getD i 0xFFFFFF)).map Prod.fst with
    | none => true
    | some from_ =>
      match sl with
      | .br d | .brc _ d => (((all.find? fun t => (t.idx : Int) = b.idx + d).bind (DBundle.here f p)).map (edgeOk f p m from_)).getD true
      | .switch .. => (List.range f.blocks.length).all (edgeOk f p m from_)
      | _ => true

/-- R106, R129, R135: run in sequence, every slot finds its operands' values in the registers it names. A bundle that begins a region or
another block finds the registers as the plan has them, and what precedes it leaves them so. -/
def seqGo (f : FuncInfo) (p : Plan) (all : List DBundle) : List DBundle → Option Nat → RegMap → Bool
  | [], _, _ => true
  | b :: r, blk, m =>
    let here := b.here f p
    let moved := here.isSome && here ≠ blk
    let m0 :=
      if bundleH b.w then p.regMap (p.rpix b.region)
      else if moved then (match here.bind fun k => f.blocks[k]? with | some x => p.regMap x.pix | none => m) else m
    let falls := match blk, here with | some i, some j => !moved || edgeOk f p m i j | _, _ => true
    match seqBundle f p b b.d.slots m0 with
    | some m1 => falls && branchEdges f p all b m1 && seqGo f p all r (here.or blk) m1
    | none => false

/-- Registers that a slot reads and writes, and whether its write comes at completion (R134). -/
def slotRegs (e : Eng) (sl : Slot) : List NReg × List NReg × Bool :=
  let pair (t : Ty) (r : NReg) : List NReg := if tyRegs t = 2 then [r, nextReg r] else [r]
  let file (r : NReg) : Bool := match r with | .v _ | .w _ | .s _ | .k _ => true | _ => false
  match sl with
  | .op i d _ =>
    let rs := (i.opnds.map fun o => match o with | .nat r => [r, nextReg r] | _ => []).flatten
    (rs.filter file, ((instrDefTy i).toList.map fun t => pair t d).flatten.filter file, e = .L || e = .M || e = .X)
  | .brc r _ | .switch r _ => ([r], [], false)
  | .only (.ckst r _ false) | .only (.vsp r _) | .only (.qpsh r _) => ([r].filter file, [], false)
  | .only (.vfl r _) => ([], [r].filter file, true)
  | .only (.mvw d a) | .only (.mvz d a) => ([a].filter file, [d].filter file, false)
  | .only (.qpop d _) => ([], [d], false)
  | _ => ([], [], false)

def meet (a b : List NReg) : Bool := a.any b.contains

/-- A `waitc` between two slots that the second one is sure to follow: one of its own engine, or one that stands SLIPW bundles before it. -/
def waitedBetween (slipw : Nat) (slots : List (Nat × Nat × Eng × Slot)) (lo hi : Nat × Nat) (e : Eng) : Bool :=
  slots.any fun (b, i, e', sl) =>
    (lo.1 < b || (lo.1 = b && lo.2 < i)) && (b < hi.1 || (b = hi.1 && i < hi.2)) && (e' = e || b + slipw ≤ hi.1) &&
    (match sl with | .only (.waitc ..) => true | _ => false)

/-- R135: two slots of different engines that access one register, one of them writing it, stand SLIPW bundles apart, or the later follows a
`waitc`; a result that comes at completion (R134) is read or overwritten only after a wait for it. -/
def slipOk (slipw : Nat) (bs : List DBundle) : Bool :=
  let slots : List (Nat × Nat × Eng × Slot) := (bs.map fun b => b.d.slots.map fun s => (b.idx, s.1, s.2.1, s.2.2)).flatten
  slots.all fun (b1, i1, e1, s1) => slots.all fun (b2, i2, e2, s2) =>
    let a := slotRegs e1 s1
    let c := slotRegs e2 s2
    let late := a.2.2 && meet a.2.1 (c.1 ++ c.2.1)
    let shared := e1 ≠ e2 && (meet a.2.1 (c.1 ++ c.2.1) || meet a.1 c.2.1)
    !(b1 < b2 || (b1 = b2 && i1 < i2)) || !(late || shared) || (!late && b1 + slipw ≤ b2) || waitedBetween slipw slots (b1, i1) (b2, i2) e2

/-- R130: no spill slot is written in a region after the region has read it. -/
def spillOk : List (Nat × Bool) → List Nat → Bool
  | [], _ => true
  | (j, w) :: r, read => if w then !read.contains j && spillOk r read else spillOk r (j :: read)

def spillsOf (b : DBundle) : List (Nat × Bool) := b.d.slots.filterMap fun (_, _, sl) =>
  match sl with
  | .only (.vsp _ j) => some (j.toNat, true)
  | .only (.vfl _ j) => some (j.toNat, false)
  | _ => none

/-- R69: the flags and numbers of a bundle's header. -/
def DBundle.headerOk (b : DBundle) : Bool :=
  let d := b.d
  let ckst := d.slots.any fun s => match s.2.2 with | .only (.ckst ..) => true | _ => false
  let sBranch := d.slots.any fun s => match s.2.2 with | .br _ | .brc _ _ | .switch _ _ => true | _ => false
  d.seq = b.idx % 4096 && d.stx = b.idx % 4096 && d.ckpt = ckst && (sBranch || d.hint = 0) &&
  (!d.head || (match d.slots.head? with | some (0, _, .only (.rgn r)) => r.toNat = b.region | _ => false)) &&
  (d.slots.all fun s => match s.2.2 with | .only (.rgn _) => d.head | _ => true)

/-- R81: the indices of a bundle's slots: an ignored slot has none, an extension its owner's, a portable slot one of its region. -/
def DBundle.pixOk (b : DBundle) (lo hi : Nat) : Bool :=
  b.pixs.length = 4 && (List.range 4).all fun i =>
    let x := b.pixs.getD i 0
    let ext := i ≠ 0 && b.w.getLsbD (250 + (i - 1)) && (bundleSlot b.w (i - 1)).getLsbD 6
    if b.w.getLsbD (250 + i) then
      (match (b.d.slots.find? fun s => s.1 = i).map fun s => s.2.2 with
       | some (Slot.only _) => true
       | _ => lo ≤ x && x < hi)
    else if ext then x = b.pixs.getD (i - 1) 0 else x = 0xFFFFFF

/-- R81: a native-only slot has the index of the next portable instruction of its engine: one that the engine takes, and no later than the
next portable slot of the engine. -/
def onlyPixOk (f : FuncInfo) (bs : List DBundle) : Bool :=
  let slots := (bs.map fun b => b.d.slots.map fun s => (s.2.1, s.2.2, b.pixs.getD s.1 0)).flatten
  (List.range slots.length).all fun k =>
    match slots[k]? with
    | some (e, Slot.only _, x) =>
      (match instrAt f.blocks x with | some y => e.accepts y.2.head.1 | none => x = 0xFFFFFF) &&
      (match (slots.drop (k + 1)).find? fun s => s.1 = e && (match s.2.1 with | Slot.only _ => false | _ => true) with
       | some s => x ≤ s.2.2
       | none => true)
    | _ => true

/-- Every portable instruction that has an effect of its own stands in a slot (R106). -/
def coverOk (f : FuncInfo) (bs : List DBundle) : Bool :=
  (layoutInstrs f.blocks 0).zipIdx.all fun (x, p) =>
    match x.i with
    | .nop | .regn | .br .. | .cst .. => true
    | i => bs.any fun b => b.d.slots.any fun s =>
        b.pixs.getD s.1 0xFFFFFF = p &&
        (match s.2.2, i with
         | .op y _ _, _ => y.head.1 = i.head.1
         | .brc .., .brc .. | .switch .., .switch .. | .call _, .call .. | .ret, .ret | .ret, .retValue _ => true
         | _, _ => false)

/-- R122: a branch stays in its region or goes to a head. -/
def DBundle.branchOk (bs : List DBundle) (b : DBundle) : Bool :=
  let goesRight (d : Int) : Bool := bs.any fun t => (t.idx : Int) = b.idx + d && (t.region = b.region || bundleH t.w)
  b.d.slots.all fun s => match s.2.2 with | .br d | .brc _ d => goesRight d | _ => true

/-- R126: the checkpoint run: the live-ins, stored in the bundles that follow the head without a break. -/
def runOk (p : Plan) (r : Nat) (bs : List DBundle) : Bool :=
  let n := (bs.zipIdx.foldl (fun n (b, k) => if b.d.ckpt then k + 1 else n) 0)
  let stored := (bs.map fun b => b.d.slots.filterMap fun s => match s.2.2 with | .only (.ckst x j false) => some (x, j.val) | _ => none).flatten
  let m := p.regMap (p.rpix r)
  (bs.drop 1).zipIdx.all (fun (b, k) => n ≤ k + 1 || b.d.ckpt) &&
  stored.all (fun (x, j) => (p.ckSlots r).any fun (v, k) => (k = j && m.get x = some (v, false)) || (k + 1 = j && m.get x = some (v, true)))

/-- A draft that keeps R68 to R75, R80 to R82, R106, R122, R126, R129, R130 and R135, and declines every marked loop, as R132 lets it (log 9). -/
def draftKeeps (ws : List W32) (u : UName) (p : Plan) (d : Config.UnitDraft) : Bool :=
  let heads := headsOf d.bundles
  let regions := spans heads d.bundles.length
  match moduleFunc ws u.fsym with
  | none => false
  | some f =>
    let dec (r k : Nat) : Option DBundle :=
      let w := d.bundles.getD k 0
      let pixs := d.pixs.getD k []
      let before := (d.bundles.drop ((regions.getD r (0, 0)).1)).take (k - (regions.getD r (0, 0)).1)
      (decodeBundle u.budget (slotLooks f pixs (p.entries d true r) fun e => tagCount e before) w).map fun b => { idx := k, region := r, w := w, pixs := pixs, d := b }
    let byRegion : List (List (Option DBundle)) := regions.zipIdx.map fun (s, r) => (List.range s.2).map fun j => dec r (s.1 + j)
    let good : List (List DBundle) := byRegion.map fun l => l.filterMap id
    let all := good.flatten
    heads.head? = some 0 && heads.length = p.nregion && d.pixs.length = d.bundles.length && 1 ≤ d.slipw && d.slipw ≤ 64 &&
    regions.all (fun s => s.2 ≤ 1024) && byRegion.all (fun l => l.all Option.isSome) && all.all DBundle.headerOk &&
    good.zipIdx.all (fun (l, r) =>
      let hi := if r + 1 < p.nregion then p.rpix (r + 1) else p.len
      l.all (fun b => b.pixOk (p.rpix r) hi) && slipOk d.slipw l && spillOk ((l.map spillsOf).flatten) [] && runOk p r l) &&
    onlyPixOk f all && coverOk f all && all.all (DBundle.branchOk all) && seqGo f p all all none [] &&
    (d.locs.all fun l => l.all fun w => let e := LocEntry.ofWord w; e.v < p.tys.length && e.kind ≤ 7 && e.leng ≤ 5 && (e.leng ≠ 0 || e.after ≠ 0 || e.kind = 1))

def XIn.draftOk (x : XIn) (u : UName) : Bool := draftKeeps x.ws u (x.plan u) (x.draft u)

/-- SLIPW of a unit (R104, R133): 1 to 64. -/
def XIn.slipw (x : XIn) (u : UName) : Nat := if x.draftOk u then (x.draft u).slipw else 1 + (x.draft u).slipw % 64

/-- THE UNIT that the lapidary writes (R104, R105). A draft that breaks a rule lists no bundles and no constants: the unit then runs
only as its portable instructions do (R106; log 9). -/
def XIn.unit (x : XIn) (k : UnitKey) (modid : W64) : UnitImg :=
  let u : UName := { fsym := k.fsym, w2e := k.w2e, budget := k.budget }
  let p := x.plan u
  let ok := x.draftOk u
  let d := if ok then x.draft u else { x.draft u with bbase := 0, pool := [] }
  { key := k, bbase := d.bbase / 32 * 32, slipw := x.slipw u, nck := p.nck, nspill := p.nspill
    bundles := if ok then d.bundles else [], pool := d.pool, table := sideTable x u modid p d ok }

end Sys2Proof.Machine
end

