-- ==== Sys2Proof/Machine/Ops.lean ====
section
/-! DEFINITION. Sys2Proof/Machine/Ops.lean: access to the parts of State, results and registers, region commits and
restarts (R126, R128, R184), turns (R178-R181), taking an event (R375) and going on from one (R381). -/

namespace Sys2Proof.Machine

open Sys2Proof

abbrev Out := Host.Outcome State Fault Refusal

/-! ## Places -/

def siteOf (core : Nat) : Nat := core / 768
def clusterOf (core : Nat) : Nat := core / 192
def wkey (core slot : Nat) : Nat := core * 16 + slot
/-- Sites 1 and 3 hold W2E dies (R10). -/
def w2eSite (site : Nat) : Bool := site % 2 = 1
def w2eCore (core : Nat) : Bool := w2eSite (siteOf core)

def State.core (s : State) (c : Nat) : Core := s.cores.get {} c
def State.setCore (s : State) (c : Nat) (x : Core) : State := { s with cores := s.cores.set c x }
def State.modCore (s : State) (c : Nat) (f : Core → Core) : State := s.setCore c (f (s.core c))

def State.cluster (s : State) (c : Nat) : Cluster := s.clusters.get {} c
def State.setCluster (s : State) (c : Nat) (x : Cluster) : State := { s with clusters := s.clusters.set c x }
def State.modCluster (s : State) (c : Nat) (f : Cluster → Cluster) : State := s.setCluster c (f (s.cluster c))

def State.die (s : State) (i : Nat) : Die := s.dies.get (Die.reset i) i
def State.setDie (s : State) (i : Nat) (x : Die) : State := { s with dies := s.dies.set i x }
def State.modDie (s : State) (i : Nat) (f : Die → Die) : State := s.setDie i (f (s.die i))

def State.setWarp (s : State) (k : Nat) (w : Warp) : State := { s with warps := s.warps.set k w }
def State.modWarp (s : State) (k : Nat) (f : Warp → Warp) : State :=
  match s.warps.get? k with
  | some w => s.setWarp k (f w)
  | none => s

def State.wg (s : State) (k : Nat) : Workgroup := s.wgs.get {} k
def State.setWg (s : State) (k : Nat) (g : Workgroup) : State := { s with wgs := s.wgs.set k g }
def State.modWg (s : State) (k : Nat) (f : Workgroup → Workgroup) : State :=
  match s.wgs.get? k with
  | some g => s.setWg k (f g)
  | none => s

def State.info (s : State) (asid : Nat) : CtxInfo := s.infos.get {} asid
def State.setInfo (s : State) (asid : Nat) (x : CtxInfo) : State := { s with infos := s.infos.set asid x }

def State.launch? (s : State) (asid lseq : Nat) : Option Launch := s.launches.find? fun l => l.asid = asid && l.lseq = lseq
def State.modLaunch (s : State) (asid lseq : Nat) (f : Launch → Launch) : State :=
  { s with launches := s.launches.map fun l => if l.asid = asid && l.lseq = lseq then f l else l }

/-- Word 0 flags of a launch record (R206). -/
def Launch.word (l : Launch) (i : Nat) : Nat := (l.record.getD i 0).toNat

/-- A fresh free value (log 12). -/
def State.free (s : State) : W64 × State := (Config.freeValue s.freeCtr, { s with freeCtr := s.freeCtr + 1 })

def State.moduleWords (s : State) (i : Nat) : List W32 := (s.modules[i]?.map Module.words).getD []

/-- What the units of an image depend on (R105). -/
def State.xin (s : State) (modIdx : Nat) : XIn := { mc := s.pkg.microcode, ws := s.moduleWords modIdx }

/-- The unit of a function that a warp of a core runs (R104). -/
def Warp.uname (core : Nat) (w : Warp) (fsym : Nat) : UName := { fsym := fsym, w2e := w2eCore core, budget := w.budget }

/-- The lapidary's plan of a function for a warp (R119-R131). -/
def State.planOf (s : State) (core : Nat) (w : Warp) (fsym : Nat) : Plan := (s.xin w.modIdx).plan (w.uname core fsym)

/-- The name of the unit that a warp of a core runs (R104). -/
def Warp.unitKey (core : Nat) (w : Warp) (fsym : Nat) : UnitKey :=
  { asid := w.asid, modIdx := w.modIdx, fsym := fsym, w2e := w2eCore core, budget := w.budget }

def UnitKey.uname (k : UnitKey) : UName := { fsym := k.fsym, w2e := k.w2e, budget := k.budget }
def State.keyPlan (s : State) (k : UnitKey) : Plan := (s.xin k.modIdx).plan k.uname

def State.modid (s : State) (modIdx : Nat) : W64 := (s.modules[modIdx]?.map Module.modid).getD 0

def Die.unit? (d : Die) (k : UnitKey) : Option UnitImg := d.units.find? fun u => u.key = k

/-- A unit: as the die's backing store holds it, else as the lapidary writes it, which is the same (R105). -/
def State.unitImg (s : State) (site : Nat) (k : UnitKey) : UnitImg := ((s.die site).unit? k).getD ((s.xin k.modIdx).unit k (s.modid k.modIdx))

/-- The unit of a function that a warp runs. -/
def State.unitOf (s : State) (core : Nat) (w : Warp) (fsym : Nat) : UnitImg := s.unitImg (siteOf core) (w.unitKey core fsym)

/-- A context descriptor's word (R421) on a die, for the slot that holds `asid`. -/
def Die.ctx? (d : Die) (asid : Nat) : Option (Nat × CtxDesc) :=
  d.ctxs.find? fun c => field (c.2.words.getD 0 0).toNat 32 16 = asid

/-! ## Lane sets -/

def lanesOf (ls : List Nat) : LaneSet := ls.foldl (fun m l => m ||| (1#128 <<< l)) 0
def laneIn (m : LaneSet) (l : Nat) : Bool := m.getLsbD l

def Warp.mask (w : Warp) (k : Fin 12) : LaneSet := w.masks.getD k.val 0
def Warp.setMask (w : Warp) (k : Fin 12) (m : LaneSet) : Warp := { w with masks := w.masks.set k.val m }

/-! ## Threads and groups -/

/-- The threads of the turn-holding group (R178), in lane order. -/
def Warp.active (w : Warp) : List Thread := w.threads.filter fun t => t.live && t.grp = w.turn
def Warp.activeLanes (w : Warp) : List Nat := w.active.map Thread.lane

def Warp.mapActive (w : Warp) (f : Thread → Thread) : Warp :=
  { w with threads := w.threads.map fun t => if t.live && t.grp = w.turn then f t else t }

def Warp.modThread (w : Warp) (lane : Nat) (f : Thread → Thread) : Warp :=
  { w with threads := w.threads.map fun t => if t.lane = lane then f t else t }

def Warp.thread? (w : Warp) (lane : Nat) : Option Thread := w.threads.find? fun t => t.lane = lane && t.live

/-- The live groups, in ascending order of their lowest lane. -/
def groupsOf : List Thread → List Nat
  | [] => []
  | t :: ts => let r := groupsOf ts; if t.live then t.grp :: r.filter (· ≠ t.grp) else r

def Warp.groups (w : Warp) : List Nat := groupsOf w.threads

/-- A group that may issue: none of its threads waits or is halted (R181). -/
def Warp.ready (w : Warp) (g : Nat) : Bool :=
  let ts := w.threads.filter fun t => t.live && t.grp = g
  !ts.isEmpty && ts.all fun t => t.wait = .none && !t.halted

/-- The order in which ready groups receive the turn (R181): yielded groups last, then the longest since the last turn,
then the lowest lane. -/
def bestGroup (w : Warp) : List Nat → Option Nat
  | [] => none
  | g :: gs =>
    match bestGroup w gs with
    | none => some g
    | some h =>
      let y (x : Nat) := w.yielded.contains x
      if (y g && !y h) || (y g = y h && w.stamps.get 0 h < w.stamps.get 0 g) then some h else some g

def Warp.giveTurn (cycle : Nat) (g : Nat) (w : Warp) : Warp :=
  { w with turn := g, turnStart := cycle, fairPin := none, yielded := w.yielded.filter (· ≠ g) }

/-- The warp waits for the answer to a page fault. -/
def Warp.pageWaits (w : Warp) : Bool := w.threads.any fun t => t.live && (match t.wait with | .page .. => true | _ => false)

/-- The hang counter (R250); it stands still while a page fault waits (R315), where `hangBase` holds the count. -/
def Warp.hangCount (cycle : Nat) (w : Warp) : Nat := if w.pageWaits then w.hangBase else cycle - w.hangBase

/-- Threads of a warp begin to wait for the answer to a page fault (R315). -/
def Warp.waitPage (cycle vpage kind : Nat) (addr : W64) (sp : Space) (pick own : Thread → Bool) (w : Warp) : Warp :=
  { w with
    hangBase := w.hangCount cycle
    threads := w.threads.map fun t => if t.live && pick t then { t with wait := .page vpage kind addr sp (own t) false } else t }

/-- Two threads stand at the same bundles of every engine, with equal committed regions (R178, R180, R183). -/
def Thread.meets (a b : Thread) : Bool := a.pc = b.pc && a.nat = b.nat && a.handler.isSome = b.handler.isSome && a.ck.pc = b.ck.pc

/-- The groups that stand with a group merge into it, but for the turn-holding one, which keeps its number: none of them waits, and no
checkpoint run is open (R180). -/
def Warp.mergeInto (g : Nat) (w : Warp) : Warp :=
  match (w.threads.filter fun t => t.live && t.grp = g).head? with
  | none => w
  | some t0 =>
    if w.ready g && !w.native.pv then
      let same := w.groups.filter fun h => h ≠ g && h ≠ w.turn && w.ready h && (w.threads.filter fun t => t.live && t.grp = h).all fun t => t.meets t0
      { w with threads := w.threads.map fun t => if same.contains t.grp then { t with grp := g } else t }
    else w

/-- The turn-holding group reaches a place: those that stand there join it, and it keeps the turn (R180). -/
def Warp.mergeAt (w : Warp) : Warp := w.mergeInto w.turn

/-- Every merge that is due, the turn-holding group's first (R180). -/
def Warp.mergeAll (w : Warp) : Warp := (w.mergeAt.groups.filter (· ≠ w.turn)).foldl (fun w g => w.mergeInto g) w.mergeAt

/-- The turn ends (R181): the group is stamped, and the ready group first in order takes the turn. -/
def Warp.endTurn (cycle : Nat) (w : Warp) : Warp :=
  let w1 := { w with stamps := w.stamps.set w.turn w.stampClock, stampClock := w.stampClock + 1 }
  match bestGroup w1 (w1.groups.filter w1.ready) with
  | some g => (w1.giveTurn cycle g).mergeAll
  | none => w1

/-- A group became ready: it takes the turn where the turn-holding group cannot issue. -/
def Warp.fixTurn (cycle : Nat) (w : Warp) : Warp :=
  if w.ready w.turn then w
  else
    match bestGroup w (w.groups.filter w.ready) with
    | some g => (w.giveTurn cycle g).mergeAt
    | none => w

/-- A new group of the given lanes of the turn-holding group, which has held the turn until now (R181). -/
def Warp.split (w : Warp) (lanes : List Nat) : Warp :=
  { w with threads := w.threads.map fun t => if lanes.contains t.lane then { t with grp := w.nextGrp } else t, nextGrp := w.nextGrp + 1
           stamps := w.stamps.set w.nextGrp w.stampClock, stampClock := w.stampClock + 1 }

/-- Where a thread stands: its portable counter and its native ones. -/
def Thread.placeKey (t : Thread) : PC × NCtr := (t.pc, t.nat)

/-- Threads of the group that stand at different places divide (R178, R179, log 19); the turn stays where `t0` stands. -/
def Warp.divideAt (cycle : Nat) (t0 : Thread) (w : Warp) : Warp :=
  let others := (w.active.filter fun t => t.placeKey ≠ t0.placeKey).foldl
    (fun (acc : List (PC × NCtr)) t => if acc.contains t.placeKey then acc else acc ++ [t.placeKey]) []
  if others.isEmpty then w
  else
    { w with
      threads := w.threads.map fun t =>
        if t.live && t.grp = w.turn && t.placeKey ≠ t0.placeKey then { t with grp := w.nextGrp + others.findIdx (· = t.placeKey) } else t
      nextGrp := w.nextGrp + others.length
      stamps := (List.range others.length).foldl (fun st i => st.set (w.nextGrp + i) w.stampClock) w.stamps
      stampClock := w.stampClock + 1
      turnStart := cycle, fairPin := none }

def Warp.divideByPlace (cycle : Nat) (w : Warp) : Warp :=
  match w.active with
  | [] => w
  | t0 :: _ => w.divideAt cycle t0

/-- Threads of a group that stand at different places divide (R178): the lowest lane's place keeps the number, and each part the time since
the group held the turn (R181; log 19). -/
def Warp.divideGroup (g : Nat) (w : Warp) : Warp :=
  let mine := w.threads.filter fun t => t.live && t.grp = g
  match mine with
  | [] => w
  | t0 :: _ =>
    let others := (mine.map Thread.placeKey).eraseDups.filter (· ≠ t0.placeKey)
    if others.isEmpty then w
    else
      { w with
        threads := w.threads.map fun t =>
          if t.live && t.grp = g && t.placeKey ≠ t0.placeKey then { t with grp := w.nextGrp + others.findIdx (· = t.placeKey) } else t
        nextGrp := w.nextGrp + others.length
        stamps := (List.range others.length).foldl (fun st i => st.set (w.nextGrp + i) (w.stamps.get 0 g)) w.stamps }

/-! ## Native registers (R73, R92, R115) -/

/-- The physical number of vj under the rotating window (R73). -/
def Native.phys (nt : Native) (j : Nat) : Nat :=
  let n := nt.wn + 1
  if nt.wv && nt.wb ≤ j && j < nt.wb + n then nt.wb + (j - nt.wb + nt.rbase) % n else j

def regKey (base num lane : Nat) : Nat := base + num * 128 + lane

/-- The value a specifier reads in one lane. -/
def Warp.readReg (w : Warp) (lane : Nat) (lit : W64) (bits : Nat) : NReg → Val
  | .v i =>
    let lo := w.native.regs.get {} (regKey 0 (w.native.phys i.val) lane)
    if bits ≤ 32 then lo
    else
      let hi := w.native.regs.get {} (regKey 0 (w.native.phys (i.val + 1)) lane)
      { lo with bits := (hi.bits.setWidth 32 ++ lo.bits.setWidth 32 : BitVec 64) }
  | .w i =>
    let lo := w.native.regs.get {} (regKey 32768 i.val lane)
    if bits ≤ 32 then lo
    else
      let hi := w.native.regs.get {} (regKey 32768 (i.val + 1) lane)
      { lo with bits := (hi.bits.setWidth 32 ++ lo.bits.setWidth 32 : BitVec 64) }
  | .z i => w.native.regs.get {} (regKey 36864 i.val lane)
  | .zero => {}
  | .lane => { bits := BitVec.ofNat 64 lane, tag := tyB32.code }
  | .ones => { bits := BitVec.allOnes 64 }
  | .lit => { bits := lit }
  | .k i => { bits := boolBits (laneIn (w.mask i) lane), tag := tyP.code }
  | .s i => w.native.regs.get {} (regKey 40960 i.val 0)

def setReg (base num lane bits : Nat) (v : Val) (r : Tbl Val) : Tbl Val :=
  let r1 := r.set (regKey base num lane) { bits := (v.bits.setWidth 32).setWidth 64, tag := v.tag }
  if bits ≤ 32 then r1
  else r1.set (regKey base (num + 1) lane) { bits := v.bits >>> 32, tag := v.tag }

/-- A write to a specifier in one lane; `bits` is the value's width. -/
def Warp.writeReg (w : Warp) (lane bits : Nat) (v : Val) : NReg → Warp
  | .v i =>
    let lo := w.native.phys i.val
    let r1 := w.native.regs.set (regKey 0 lo lane) { bits := (v.bits.setWidth 32).setWidth 64, tag := v.tag }
    let r2 := if bits ≤ 32 then r1
      else r1.set (regKey 0 (w.native.phys (i.val + 1)) lane) { bits := v.bits >>> 32, tag := v.tag }
    { w with native := { w.native with regs := r2 } }
  | .w i => { w with native := { w.native with regs := setReg 32768 i.val lane bits v w.native.regs } }
  | .s i => { w with native := { w.native with regs := w.native.regs.set (regKey 40960 i.val 0) v } }
  | .k i => w.setMask i (if v.bits.getLsbD 0 then w.mask i ||| (1#128 <<< lane) else w.mask i &&& ~~~(1#128 <<< lane))
  | _ => w

/-- A V result also becomes the newest last-result register, the older ones moving up (R73; log 16). -/
def Warp.pushZ (w : Warp) (lane : Nat) (v : Val) : Warp :=
  let g (i : Nat) := w.native.regs.get {} (regKey 36864 i lane)
  let r := (((w.native.regs.set (regKey 36864 3 lane) (g 2)).set (regKey 36864 2 lane) (g 1)).set (regKey 36864 1 lane) (g 0)).set
    (regKey 36864 0 lane) v
  { w with native := { w.native with regs := r } }

/-- The result of an instruction in one lane: the value it defines, or the slot's destination. -/
def Warp.put (iss : Issue) (lane : Nat) (v : Val) (w : Warp) : Warp :=
  match iss.mode with
  | .portable => w.modThread lane fun t => { t with vals := t.vals.set iss.n v }
  | .native e d _ =>
    let bits := (Ty.ofCode v.tag).bits
    if e = .L then { w with native := { w.native with landing := (lane, v, bits) :: w.native.landing } }
    else
      let w1 := w.writeReg lane bits v d
      if e = .V then w1.pushZ lane v else w1

/-- The 32 bits of a value that one register or slot holds. -/
def Val.half (v : Val) (hi : Bool) : Val := { v with bits := ((if hi then v.bits >>> 32 else v.bits).setWidth 32).setWidth 64 }

/-! ## Contexts of an issued instruction -/

/-- What a meaning sees of the issued warp: the latch, the warp's key, the warp, its module's words, the lapidary's microcode. -/
structure Cx where
  iss : Issue
  key : Nat
  w : Warp
  ws : List W32
  mc : List Byte
  deriving Repr

/-- A warp as issued. -/
def State.cxFor (s : State) (iss : Issue) (w : Warp) : Cx :=
  { iss := iss, key := wkey iss.core iss.slot, w := w, ws := s.moduleWords w.modIdx, mc := s.pkg.microcode }

/-- The plan of a function for the issued warp. -/
def Cx.plan (c : Cx) (fsym : Nat) : Plan := XIn.plan { mc := c.mc, ws := c.ws } (c.w.uname c.iss.core fsym)

/-- The issued warp of a state. -/
def State.cx? (s : State) : Option Cx :=
  match s.issue with
  | none => none
  | some iss =>
    match s.warps.get? (wkey iss.core iss.slot) with
    | none => none
    | some w => some (s.cxFor iss w)

/-- Run a meaning on the issued warp; without one there is nothing to execute. -/
def withCx (s : State) (f : Cx → State) : Out :=
  match s.cx? with
  | some c => .next (f c)
  | none => .fault .noIssue

def Cx.active (c : Cx) : List Thread := c.w.active
def Cx.site (c : Cx) : Nat := siteOf c.iss.core

/-! ## Regions (R120-R128, R183-R185) -/

/-- The checkpoint slots that a commit at a place turns to their other bank (R126). -/
abbrev Flip := PC → BitVec 16

def State.flip (s : State) (core : Nat) (w : Warp) : Flip := fun pc => (s.planOf core w pc.fsym).slotMask pc.pix
def Cx.flip (c : Cx) : Flip := fun pc => (c.plan pc.fsym).slotMask pc.pix

/-- Engines of the thread's group stand in bundles of their own (R76): its region commits with the checkpoint run (R126). -/
def Thread.native (t : Thread) : Bool := !t.nat.at_.isEmpty

/-- R127: between a region-ending instruction's effect, or a checkpoint run's `rgn`, and the commit; a group that waits is not in it (log 26). -/
def Warp.inSpan (w : Warp) : Bool := w.native.pv || w.threads.any fun t => t.live && t.nat.ended && t.wait = .none && !t.halted

/-- An instruction of the thread has taken effect and is still to be completed: an access at its home (R389.2), a `cpyw` whose tag is cleared
(R272), a multiply that has consumed its convergence register (R365). -/
def Thread.midEffect (t : Thread) : Bool := t.home ≠ none || t.consumed || t.cwait.any fun c => c.2.isSome

/-- Some group other than the one that raised the warp's event has such an instruction. -/
def Warp.midEffect (w : Warp) : Bool := w.threads.any fun t => t.live && t.midEffect && !(w.event.any fun e => laneIn e.glanes t.lane)

/-- The group of a warp that has to go on before the warp stops: a checkpoint run of it is under way, or a region of it has ended (R127), or an
instruction of it is to be completed. -/
def Warp.lastGroup (w : Warp) : Option Nat :=
  let must (t : Thread) : Bool := t.nat.ended || (t.midEffect && !(w.event.any fun e => laneIn e.glanes t.lane))
  if w.native.pv then some w.turn
  else (w.threads.find? fun t => t.live && !t.halted && t.wait = .none && must t).map Thread.grp

/-- Registers and masks of some lanes go back to what they were before a step that one of its slots does not complete (R76). -/
def Warp.undoStep (lanes : Nat → Bool) (w : Warp) : Warp :=
  match w.threads.findSome? fun t => if t.live && lanes t.lane then t.nat.undo else none with
  | none => w
  | some (r, ms) =>
    let back (new old : LaneSet) : LaneSet := (List.range 128).foldl (fun m l => if lanes l then (if laneIn old l then m ||| (1#128 <<< l) else m &&& ~~~(1#128 <<< l)) else m) new
    let rest := w.native.regs.filter fun p => p.1 < 40960 && !lanes (p.1 % 128)
    { w with native := { w.native with regs := r.foldl (fun t p => t.set p.1 p.2) rest }, masks := List.zipWith back w.masks ms
             threads := w.threads.map fun t => if lanes t.lane then { t with nat := { t.nat with undo := none } } else t }

/-- A thread commits the region that begins at its pc (R126, R183). A native one has its region ended, and commits with the checkpoint run. -/
def Thread.commit (flip : Flip) (t : Thread) : Thread :=
  if t.native then { t with nat := { t.nat with ended := true } }
  else
  { t with bank := t.bank ^^^ flip t.pc
           ck := { pc := t.pc, vals := t.vals, stack := t.stack, sb := t.sb, wait := t.wait, detN := t.detN, redN := t.redN }
           home := none, cwait := none, consumed := false }

/-- A thread whose signature counts commits the region after the `sign` at which it stands with its group (R127, R199). -/
def Thread.commitPast (flip : Flip) (t : Thread) : Thread :=
  { (({ t with pc := { t.pc with pix := t.pc.pix + 1 }, wait := .none } : Thread).commit flip) with pc := t.pc }

/-- The active threads commit: the warp's commit count rises and its hang counter restarts (R126, R250). -/
def Warp.commitActive (flip : Flip) (cycle : Nat) (w : Warp) : Warp :=
  { w.mapActive (Thread.commit flip) with ccnt := w.ccnt + 1, hangBase := cycle, regErr := false }

/-- The active threads stand at a region head (R120-R122, R185). -/
def Cx.atHead (c : Cx) (w : Warp) : Bool :=
  match w.active.head? with
  | some t => (c.plan t.pc.fsym).isHead t.pc.pix
  | none => false

/-- The end of an instruction (R76): the active threads stand at the next instruction; `ends` says that it ended a region
(R120). Groups that now stand at one place merge, and the issue is over. -/
def State.advance (s : State) (c : Cx) (w : Warp) (ends : Bool) : State :=
  match c.iss.mode with
  | .portable =>
    let w1 := w.mapActive fun t => { t with pc := { t.pc with pix := t.pc.pix + 1 } }
    let w2 := if ends || c.atHead w1 then w1.commitActive c.flip s.cycle else w1
    { s.setWarp c.key w2.mergeAt with issue := none }
  | .native _ _ _ =>
    let w1 := w.mapActive fun t => { t with pc := { t.pc with pix := t.pc.pix + 1 } }
    { s.setWarp c.key (if ends then w1.mapActive (Thread.commit c.flip) else w1) with issue := none }

/-- As `advance`, to a given place (branches). -/
def State.goTo (s : State) (c : Cx) (w : Warp) (ends : Bool) : State :=
  let w2 := if ends || c.atHead w then w.commitActive c.flip s.cycle else w
  { s.setWarp c.key w2.mergeAt with issue := none }

/-- The instruction is not complete: it is issued again where it stands (a stall, R181). -/
def State.stall (s : State) : State := { s with issue := none }

/-- A restart of threads at their committed regions (R128, R184): those at one head form one group, ascending by lane. -/
def Thread.restart (t : Thread) : Thread :=
  { t with pc := t.ck.pc, vals := t.ck.vals, stack := t.ck.stack, sb := t.ck.sb, wait := t.ck.wait, detN := t.ck.detN, redN := t.ck.redN
           home := none, cwait := none, consumed := false, nat := {} }

/-- Group numbers by place: threads at one pc and wait take the number of the lowest lane there; a halted group stays one (R249). -/
def regroup : List Thread → List Thread → List Thread
  | _, [] => []
  | seen, t :: ts =>
    match seen.find? fun u => u.halted = t.halted && (if t.halted then u.frame = t.frame else u.pc = t.pc && u.wait = t.wait) with
    | some u => { t with grp := u.grp } :: regroup seen ts
    | none => { t with grp := t.lane } :: regroup (seen ++ [{ t with grp := t.lane }]) ts

/-- Registers of some lanes, and the uniform file (R73). -/
def regsOfLanes (lane : Nat → Bool) (uniform : Bool) (r : Tbl Val) : Tbl Val := r.filter fun p => if 40960 ≤ p.1 then uniform else lane (p.1 % 128)

/-- THE WARP RESTARTS: registers, queues and loads are discarded, and every thread goes back to its own committed head; the group of the
lowest lane takes the turn (R128, R184, R390). A halted group keeps its place and its registers (R249). -/
def Warp.restart (cycle : Nat) (w : Warp) : Warp :=
  let halted (t : Thread) : Bool := t.live && t.halted
  let ts := regroup [] (w.threads.map fun t => if t.live && !t.halted then t.restart else t)
  let kept := regsOfLanes (fun l => w.threads.any fun t => halted t && t.lane = l) (w.threads.any halted) w.native.regs
  let nt : Native := { w.native with regs := kept, outstanding := [], qTile := [], qScale := [], landing := [], pv := false, pend := 0 }
  let w1 : Warp := { w with threads := ts, native := nt, nextGrp := 128, stamps := [], yielded := [], turnStart := cycle, fairPin := none }
  match w1.groups.head? with
  | some g => { w1 with turn := (w1.groups.find? w1.ready).getD g }
  | none => w1

/-! ## Events (R374-R378) -/

/-- An event to raise in a thread. -/
structure EvInfo where
  code : Nat
  qual : Nat := 0
  faddr : W64 := 0
  deriving DecidableEq, Repr

/-- TAKING AN EVENT: the warp stops at a step boundary, the instruction taking effect in no thread; the frame is written
by FAULT_FRAME after the warp's jobs drain (R375). -/
def State.takeEvent (s : State) (c : Cx) (e : EvInfo) (lanes : List Nat) (precise : Bool := true) : State :=
  let eng := match c.iss.mode with | .native g _ _ => g.tag | .portable => 0
  let ev : Event := { code := e.code, qual := e.qual, faddr := e.faddr, flanes := lanesOf lanes,
                      glanes := lanesOf c.w.activeLanes, precise := precise, eng := eng }
  { s.setWarp c.key { c.w with event := some ev } with issue := none }

/-- As `takeEvent` for threads of a warp that is not issuing: an event at a wait (R374), or in a member of a mask. -/
def State.raiseIn (s : State) (key : Nat) (e : EvInfo) (lanes glanes : List Nat) (precise : Bool := true) : State :=
  s.modWarp key fun w =>
    { w with event := some { code := e.code, qual := e.qual, faddr := e.faddr, flanes := lanesOf lanes,
                             glanes := lanesOf glanes, precise := precise } }

/-- The event that the threads raise: the lowest lane's, in the lanes that raise its code (R260). -/
def firstEvent (chk : Thread → Option EvInfo) (ts : List Thread) : Option (EvInfo × List Nat) :=
  match ts.findSome? chk with
  | none => none
  | some e => some (e, (ts.filter fun t => (chk t).any fun x => x.code = e.code).map Thread.lane)

/-- Check every active thread before any effect; go on where none raises an event. -/
def State.precise (s : State) (c : Cx) (chk : Thread → Option EvInfo) (k : State) : State :=
  match firstEvent chk c.active with
  | some (e, ls) => s.takeEvent c e ls
  | none => k

/-- GOING ON FROM AN EVENT, action retry: the group restarts at its committed region head (R381). -/
def Warp.retry (cycle : Nat) (w : Warp) : Warp := { (w.restart cycle) with event := none, frame := List.replicate 16 0 }

/-! ## Results per lane -/

/-- Whether a thread is predicated off (R139). -/
def Cx.off (c : Cx) (p : Pred) (t : Thread) : Bool :=
  match p with
  | some k => !laneIn (c.w.mask k) t.lane
  | none => false

/-- The tag of a predicated-off thread's result (R139): the static type's, or for dyn what the check would give, or the
first polymorphic operand's where it fails, and 0 where the instruction has no polymorphic operand. -/
def offTag (ty : Ty) (first : Option Val) (r : Except EvInfo Val) : BitVec 6 :=
  if ty = tyDyn then
    match first, r with
    | some _, .ok v => v.tag
    | some u, .error _ => u.tag
    | none, _ => 0
  else ty.code

/-- Fold the results of the active threads into the warp. -/
def Warp.putAll (iss : Issue) (f : Thread → Val) (ts : List Thread) (w : Warp) : Warp :=
  ts.foldl (fun w t => w.put iss t.lane (f t)) w

/-- The event a thread's evaluation raises; none in a thread predicated off (R139). -/
def Cx.laneEvent (c : Cx) (p : Pred) (t : Thread) (r : Except EvInfo Val) : Option EvInfo :=
  if c.off p t then none else (match r with | .error e => some e | .ok _ => none)

/-- The result of a thread's evaluation; a zero in a thread predicated off (R139). -/
def Cx.laneVal (c : Cx) (p : Pred) (rty : Ty) (first : Option Val) (t : Thread) (r : Except EvInfo Val) : Val :=
  if c.off p t then { bits := 0, tag := offTag rty first r } else (match r with | .ok v => v | .error _ => {})

/-- A lane instruction (R139-R142): every active thread evaluates; an event in a thread not predicated off stops the warp
before any effect; else each thread's result is written. `rty` is the static result type. -/
def laneOp (s : State) (p : Pred) (rty : Ty) (first : Cx → Thread → Option Val) (ev : Cx → Thread → Except EvInfo Val) : Out :=
  withCx s fun c =>
    s.precise c (fun t => c.laneEvent p t (ev c t))
      (s.advance c (c.w.putAll c.iss (fun t => c.laneVal p rty (first c t) t (ev c t)) c.active) false)

/-! ## Waits (R181) -/

/-- The active threads wait, and their turn ends. -/
def State.waitHere (s : State) (c : Cx) (f : Thread → Thread) : State :=
  { s.setWarp c.key ((c.w.mapActive f).endTurn s.cycle) with issue := none }

/-! ## Fetching (R81, R178) -/

/-- The portable instruction at which the turn-holding group stands, with the value number it would define in the latch. -/
def State.fetch? (s : State) : Option (State × Instr) :=
  match s.issue, s.cx? with
  | some iss, some c =>
    match c.active.head? with
    | none => none
    | some t =>
      match moduleFunc c.ws t.pc.fsym with
      | none => none
      | some f =>
        match instrAt f.blocks t.pc.pix with
        | none => none
        | some (n, i) => some ({ s with issue := some { iss with n := n, mode := .portable } }, i)
  | _, _ => none

/-- A module image of one kernel with one block that holds one instruction (R61-R64). -/
def oneInstrImage (w : Nat) : List W32 :=
  [0x4D46505A#32, 0x00000103#32, 1#32, 10#32, 41#32, 0#32, 41#32, 0#32, 0#32, 41#32,
   0#32, 0#32, 14#32, 0#32,
   27#32, 0#32, 1#32, 64#32, 0#32, 0#32, 0x00000200#32] ++ wordsOf 20 w

/-- The module loaded, and a resident warp of one thread, issued, standing at the kernel's first instruction (log 2). -/
def State.placeWord (s : State) (w : Nat) : State :=
  { s with
    modules := [{ asid := 0, load := 0, modid := 0, words := oneInstrImage w }]
    wgs := [(0, { warps := [0] })]
    warps := [(0, { masks := 1#128 :: List.replicate 11 0#128
                    threads := [{ lane := 0, stack := [{ ret := { fsym := 0, pix := 0 }, dest := none, vals := [] }] }] })]
    issue := some { core := 0, slot := 0 } }

/-- Every warp of a workgroup. -/
def State.wgWarps (s : State) (gk : Nat) : List (Nat × Warp) := s.warps.filter fun p => p.2.wg = gk

end Sys2Proof.Machine
end

