-- ==== Sys2Proof/Machine/Operands.lean ====
section
/-! DEFINITION. Sys2Proof/Machine/Operands.lean: reading operands (R29, R40, R58-R60), edge arguments (R38), special values
(R42), addresses (R258). -/

namespace Sys2Proof.Machine

open Sys2Proof

/-- An immediate of an operand type (R58): sign-extended to an integer, rounded into each element of a float, raw bits of
a packed or code container. -/
def immVal (t : Ty) (x : Int) : W64 :=
  if t.isFloat then
    packElems t (List.replicate t.count (roundF (ffOf t.fmt) false false (XR.ofInt x)))
  else if t.bits = 64 then BitVec.ofInt 64 x
  else BitVec.ofNat 64 (wrapInt t.bits x)

/-- An operand of a thread, of type `t`; the unused bits of an immediate's container are zero (R31). -/
def Cx.val (c : Cx) (t : Ty) (th : Thread) : Opnd → Val
  | .ref d => th.vals.get {} (c.iss.n - d.toNat)
  | .imm v => mkVal t (normBits t (immVal t v.toInt))
  | .lit32 v => mkVal t (normBits t (v.setWidth 64))
  | .lit64 v => mkVal t (normBits t v)
  | .sym i => mkVal t (symAddr c.ws i.toNat)
  | .nat r => c.w.readReg th.lane (match c.iss.mode with | .native _ _ l => l | .portable => 0) t.bits r

/-- The low bits of an operand that its type names. -/
def Cx.rd (c : Cx) (t : Ty) (th : Thread) (o : Opnd) : W64 :=
  let v := (c.val t th o).bits
  if t.bits = 64 then v else v &&& BitVec.ofNat 64 (2 ^ t.bits - 1)

/-- A b32 operand read unsigned. -/
def Cx.rd32 (c : Cx) (th : Thread) (o : Opnd) : Nat := (c.rd tyB32 th o).toNat
/-- A b64 operand. -/
def Cx.rd64 (c : Cx) (th : Thread) (o : Opnd) : Nat := (c.rd tyB64 th o).toNat
/-- A predicate operand (R32). -/
def Cx.rdP (c : Cx) (th : Thread) (o : Opnd) : Bool := (c.rd tyP th o).getLsbD 0

/-- Wrap(addr + off) of R258. -/
def Cx.addr (c : Cx) (th : Thread) (a : Opnd) (off : Option (BitVec 30)) : Nat :=
  (c.rd tyB64 th a + (match off with | some o => o.signExtend 64 | none => 0)).toNat

/-- The type of the value an operand names: its tag (R92); immediates have none. -/
def Cx.tagOf (c : Cx) (th : Thread) (o : Opnd) : Ty := Ty.ofCode (c.val tyB64 th o).tag

/-- The lowest-numbered thread of the group, whose operands a once-per-group instruction reads (R279, R352). -/
def Cx.lead (c : Cx) : Thread := c.active.headD { lane := 0 }

/-- The value of a special-value selector (R42, R203). -/
def sregVal (s : State) (c : Cx) (t : Thread) (sel : Fin 14) : W64 :=
  let l := s.launch? c.w.asid c.w.lseq
  let w1 := (l.map fun l => l.word 1).getD 0
  let wds : List Nat := [field w1 0 6, field w1 6 6, field w1 12 6, field w1 18 6, field w1 24 6, field w1 30 6]
  let fieldAt (i : Nat) : W64 :=
    let lo := (wds.take i).foldl (· + ·) 0
    BitVec.ofNat 64 (field t.wid.toNat lo (wds.getD i 0) % 2 ^ 32)
  match sel.val with
  | 0 => BitVec.ofNat 64 t.lane
  | 1 => BitVec.ofNat 64 c.w.widx
  | 2 => t.wid
  | 9 => if w2eCore c.iss.core then 1 else 0
  | 10 => BitVec.ofNat 64 (c.iss.core % 192)
  | 11 => BitVec.ofNat 64 (c.iss.core / 192)
  | 12 => BitVec.ofNat 64 (s.wg c.w.wg).nwarps
  | 13 => BitVec.ofNat 64 c.w.gmember
  | n => fieldAt (n - 3)

/-- Edge arguments (R38): all read before any is written. The target's argument numbers follow in order. -/
def edgeVals (c : Cx) (th : Thread) (tys : List Ty) (args : List Opnd) : List Val :=
  (args.zip tys).map fun (o, t) => c.val t th o

def setVals (start : Nat) : List Val → Tbl Val → Tbl Val
  | [], t => t
  | v :: vs, t => setVals (start + 1) vs (t.set start v)

end Sys2Proof.Machine
end

