-- ==== Sys2Proof/Machine/Integer.lean ====
section
/-! DEFINITION. Sys2Proof/Machine/Integer.lean: the integer, address and constant instructions 0x10-0x2B (R143-R153). Each
works on the elements of a packed value one by one (R141). -/

namespace Sys2Proof.Machine

open Sys2Proof

/-! ## Elements -/

def map1 (ty : Ty) (f : Nat → Nat) (a : W64) : W64 := packElems ty ((elems ty a).map f)
def map2 (ty : Ty) (f : Nat → Nat → Nat) (a b : W64) : W64 := packElems ty (List.zipWith f (elems ty a) (elems ty b))
def map3 (ty : Ty) (f : Nat → Nat → Nat → Nat) (a b c : W64) : W64 :=
  packElems ty (List.zipWith (fun g z => g z) (List.zipWith f (elems ty a) (elems ty b)) (elems ty c))

/-- Wrap or Clamp of an exact binary operation (R143, R144). -/
def intBin (sgn sat : Bool) (w : Nat) (f : Int → Int → Int) (a b : Nat) : Nat :=
  fitInt sgn sat w (f (readInt sgn w a) (readInt sgn w b))

/-- The quotient and remainder of R145. -/
def divElem (sgn sat : Bool) (w a b : Nat) : Nat :=
  if b % 2 ^ w = 0 then 2 ^ w - 1 else fitInt sgn sat w (Int.tdiv (readInt sgn w a) (readInt sgn w b))
def remElem (sgn : Bool) (w a b : Nat) : Nat :=
  if b % 2 ^ w = 0 then a % 2 ^ w else wrapInt w (Int.tmod (readInt sgn w a) (readInt sgn w b))

/-- The shifts of R146. -/
def shlElem (w a n : Nat) : Nat := if w ≤ n then 0 else (a <<< n) % 2 ^ w
def shrElem (sgn : Bool) (w a n : Nat) : Nat :=
  wrapInt w (readInt sgn w a >>> (Nat.min n w))
def rotElem (w a n : Nat) : Nat := ((a <<< (n % w)) ||| (a >>> (w - n % w))) % 2 ^ w

/-- The counts and reversal of R147. -/
def clzElem (w a : Nat) : Nat := if a = 0 then w else w - 1 - Nat.log2 a
def popcElem (w a : Nat) : Nat := ((List.range w).filter fun i => a.testBit i).length
def brevElem (w a : Nat) : Nat := (List.range w).foldl (fun r i => if a.testBit i then r + 2 ^ (w - 1 - i) else r) 0

/-- The fields of R148. -/
def bfxElem (sgn : Bool) (w x off len : Nat) : Nat :=
  let o := Nat.min off w
  let l := Nat.min len (w - o)
  if l = 0 then 0 else wrapInt w (readInt sgn l ((x >>> o) % 2 ^ l))
def bfiElem (w x ins off len : Nat) : Nat :=
  let o := Nat.min off w
  let l := Nat.min len (w - o)
  x % 2 ^ o + (ins % 2 ^ l) * 2 ^ o + (x >>> (o + l)) * 2 ^ (o + l)

/-- The conversion of R151; an i4 element is always signed. -/
def cvtiElem (sgn sat : Bool) (src dst : Ty) (x : Nat) : Nat :=
  fitInt sgn sat dst.width (readInt (sgn || src.fmt = .i4) src.width x)

/-! ## Shared forms -/

def noFirst : Cx → Thread → Option Val := fun _ _ => none

def lane1 (s : State) (ty : Ty) (p : Pred) (a : Opnd) (f : Nat → Nat) : Out :=
  laneOp s p ty noFirst fun c t => .ok (mkVal ty (map1 ty f (c.rd ty t a)))

def lane2 (s : State) (ty : Ty) (p : Pred) (a b : Opnd) (f : Nat → Nat → Nat) : Out :=
  laneOp s p ty noFirst fun c t => .ok (mkVal ty (map2 ty f (c.rd ty t a) (c.rd ty t b)))

/-- A division: DIVZERO under TRAPZ where an element of b is 0 (R145). -/
def laneDiv (s : State) (ty : Ty) (trapz : Bool) (p : Pred) (a b : Opnd) (f : Nat → Nat → Nat) : Out :=
  laneOp s p ty noFirst fun c t =>
    if trapz && (elems ty (c.rd ty t b)).any (· = 0) then .error { code := evDivZero }
    else .ok (mkVal ty (map2 ty f (c.rd ty t a) (c.rd ty t b)))

/-! ## The instructions -/

/-- R144 add. -/
def execAdd (ty : Ty) (sgn sat : Bool) (p : Pred) (a b : Opnd) (s : State) : Out :=
  lane2 s ty p a b (intBin sgn sat ty.width (· + ·))
/-- R144 sub. -/
def execSub (ty : Ty) (sgn sat : Bool) (p : Pred) (a b : Opnd) (s : State) : Out :=
  lane2 s ty p a b (intBin sgn sat ty.width (· - ·))
/-- R144 mul. -/
def execMul (ty : Ty) (sgn sat : Bool) (p : Pred) (a b : Opnd) (s : State) : Out :=
  lane2 s ty p a b (intBin sgn sat ty.width (· * ·))
/-- R144 mulhi. -/
def execMulhi (ty : Ty) (sgn : Bool) (p : Pred) (a b : Opnd) (s : State) : Out :=
  lane2 s ty p a b (intBin sgn false ty.width fun x y => (x * y) / 2 ^ ty.width)
/-- R144 mad. -/
def execMad (ty : Ty) (sgn sat : Bool) (p : Pred) (a b c : Opnd) (s : State) : Out :=
  laneOp s p ty noFirst fun x t =>
    .ok (mkVal ty (map3 ty (fun i j k => fitInt sgn sat ty.width
      (readInt sgn ty.width i * readInt sgn ty.width j + readInt sgn ty.width k)) (x.rd ty t a) (x.rd ty t b) (x.rd ty t c)))
/-- R145 div. -/
def execDiv (ty : Ty) (sgn sat trapz : Bool) (p : Pred) (a b : Opnd) (s : State) : Out :=
  laneDiv s ty trapz p a b (divElem sgn sat ty.width)
/-- R145 rem. -/
def execRem (ty : Ty) (sgn trapz : Bool) (p : Pred) (a b : Opnd) (s : State) : Out :=
  laneDiv s ty trapz p a b (remElem sgn ty.width)
/-- R147 neg. -/
def execNeg (ty : Ty) (sgn sat : Bool) (p : Pred) (a : Opnd) (s : State) : Out :=
  lane1 s ty p a fun x => fitInt sgn sat ty.width (0 - readInt sgn ty.width x)
/-- R147 abs. -/
def execAbs (ty : Ty) (sat : Bool) (p : Pred) (a : Opnd) (s : State) : Out :=
  lane1 s ty p a fun x => fitInt true sat ty.width ((toSigned ty.width x).natAbs : Int)
/-- R144 min. -/
def execMin (ty : Ty) (sgn : Bool) (p : Pred) (a b : Opnd) (s : State) : Out :=
  lane2 s ty p a b (intBin sgn false ty.width fun x y => if x ≤ y then x else y)
/-- R144 max. -/
def execMax (ty : Ty) (sgn : Bool) (p : Pred) (a b : Opnd) (s : State) : Out :=
  lane2 s ty p a b (intBin sgn false ty.width fun x y => if x ≤ y then y else x)
/-- R144 and. -/
def execAnd (ty : Ty) (p : Pred) (a b : Opnd) (s : State) : Out := lane2 s ty p a b (fun x y => x &&& y)
/-- R144 or. -/
def execOr (ty : Ty) (p : Pred) (a b : Opnd) (s : State) : Out := lane2 s ty p a b (fun x y => x ||| y)
/-- R144 xor. -/
def execXor (ty : Ty) (p : Pred) (a b : Opnd) (s : State) : Out := lane2 s ty p a b (fun x y => x ^^^ y)
/-- R147 not. -/
def execNot (ty : Ty) (p : Pred) (a : Opnd) (s : State) : Out := lane1 s ty p a fun x => 2 ^ ty.width - 1 - x
/-- R146 shl. -/
def execShl (ty : Ty) (p : Pred) (a b : Opnd) (s : State) : Out := lane2 s ty p a b (shlElem ty.width)
/-- R146 shr. -/
def execShr (ty : Ty) (sgn : Bool) (p : Pred) (a b : Opnd) (s : State) : Out := lane2 s ty p a b (shrElem sgn ty.width)
/-- R146 rot. -/
def execRot (ty : Ty) (p : Pred) (a b : Opnd) (s : State) : Out := lane2 s ty p a b (rotElem ty.width)
/-- R147 clz. -/
def execClz (ty : Ty) (p : Pred) (a : Opnd) (s : State) : Out := lane1 s ty p a (clzElem ty.width)
/-- R147 popc. -/
def execPopc (ty : Ty) (p : Pred) (a : Opnd) (s : State) : Out := lane1 s ty p a (popcElem ty.width)
/-- R147 brev. -/
def execBrev (ty : Ty) (p : Pred) (a : Opnd) (s : State) : Out := lane1 s ty p a (brevElem ty.width)
/-- R148 bfx. -/
def execBfx (ty : Ty) (sgn : Bool) (p : Pred) (x off len : Opnd) (s : State) : Out :=
  laneOp s p ty noFirst fun c t =>
    .ok (mkVal ty (BitVec.ofNat 64 (bfxElem sgn ty.width (c.rd ty t x).toNat (c.rd32 t off) (c.rd32 t len))))
/-- R148 bfi. -/
def execBfi (ty : Ty) (p : Pred) (x ins off len : Opnd) (s : State) : Out :=
  laneOp s p ty noFirst fun c t =>
    .ok (mkVal ty (BitVec.ofNat 64
      (bfiElem ty.width (c.rd ty t x).toNat (c.rd ty t ins).toNat (c.rd32 t off) (c.rd32 t len))))
/-- R149 cmp. -/
def execCmp (ty : Ty) (cond : Cond) (sgn : Bool) (p : Pred) (a b : Opnd) (s : State) : Out :=
  laneOp s p tyP noFirst fun c t =>
    .ok (mkVal tyP (boolBits (condHolds cond (readInt sgn ty.width (c.rd ty t a).toNat) (readInt sgn ty.width (c.rd ty t b).toNat))))

/-- Ext(idx) of R150: a b32 index is extended by SGN. -/
def leaExt (sgn : Bool) (v : Val) : W64 :=
  if Ty.ofCode v.tag = tyB64 then v.bits
  else if sgn then (v.bits.setWidth 32).signExtend 64 else (v.bits.setWidth 32).setWidth 64

/-- R150 lea. -/
def execLea (sgn : Bool) (p : Pred) (base idx : Opnd) (shift : Fin 8) (s : State) : Out :=
  laneOp s p tyB64 noFirst fun c t =>
    .ok (mkVal tyB64 (c.rd tyB64 t base + (leaExt sgn (c.val tyB64 t idx) <<< shift.val)))
/-- R151 cvti; the source's type is that of the value it names (R29). -/
def execCvti (ty : Ty) (sgn sat : Bool) (p : Pred) (x : Opnd) (s : State) : Out :=
  laneOp s p ty noFirst fun c t =>
    let st := c.tagOf t x
    .ok (mkVal ty (packElems ty ((elems st (c.rd st t x)).map (cvtiElem sgn sat st ty))))
/-- R152 cst. -/
def execCst (ty : Ty) (v : Opnd) (s : State) : Out :=
  laneOp s none ty noFirst fun c t => .ok (mkVal ty (packElems ty (elems ty (c.rd ty t v))))
/-- R153 sreg. -/
def execSreg (ty : Ty) (sel : Fin 14) (s : State) : Out :=
  laneOp s none ty noFirst fun c t => .ok (mkVal ty (sregVal s c t sel))

end Sys2Proof.Machine
end

