-- ==== Sys2Proof/Machine/Float.lean ====
section
/-! DEFINITION. Sys2Proof/Machine/Float.lean: the floating-point, packed, codebook and tag instructions 0x30-0x4E
(R159-R176), polymorphic ones under each thread's own tag (R94, R95). -/

namespace Sys2Proof.Machine

open Sys2Proof

/-! ## Elements -/

def fdec (f : Fmt) (x : Nat) : XR := decodeF (ffOf f) x
def fround (f : Fmt) (sat rz : Bool) (x : XR) : Nat := roundF (ffOf f) rz sat x

/-- fmin and fmax of R162: -0 is less than +0, a NaN gives way, the operand is unchanged. -/
def fminElem (f : Fmt) (a b : Nat) : Nat :=
  let x := fdec f a
  let y := fdec f b
  if x.isNan then (if y.isNan then (ffOf f).qnan else b)
  else if y.isNan then a
  else if x.lt y || (x.eq y && x.isNeg) then a else b
def fmaxElem (f : Fmt) (a b : Nat) : Nat :=
  let x := fdec f a
  let y := fdec f b
  if x.isNan then (if y.isNan then (ffOf f).qnan else b)
  else if y.isNan then a
  else if x.lt y || (x.eq y && x.isNeg) then b else a

/-- The sign-bit operations of R163. -/
def fabsElem (f : Fmt) (a : Nat) : Nat := a % 2 ^ (f.width - 1)
def fnegElem (f : Fmt) (a : Nat) : Nat := if a < 2 ^ (f.width - 1) then a + 2 ^ (f.width - 1) else a - 2 ^ (f.width - 1)

def approxElem (fn : ApproxFn) (f : Fmt) (sat rz : Bool) (x : Nat) : Nat :=
  fround f sat rz (decodeF ffF32 (approxF32 fn (fdec f x)))

/-- frnd of R165. -/
def frndElem (f : Fmt) (mode : RndMode) (x : Nat) : Nat :=
  match fdec f x with
  | .fin neg num den e =>
    fround f false false (.fin neg (roundInt (match mode with | .ne => 0 | .rz => 1 | .rp => 2 | .rm => 3) neg num den e).natAbs 1 0)
  | .inf _ => x
  | .nan => (ffOf f).qnan

/-- fldx of R166; beyond 5,000 the exponent no longer changes any format's result. -/
def fldxElem (f : Fmt) (sat rz : Bool) (n : Int) (x : Nat) : Nat :=
  match fdec f x with
  | .fin neg num den e => if num = 0 then x else fround f sat rz (.fin neg num den (e + max (-5000) (min 5000 n)))
  | .inf _ => x
  | .nan => (ffOf f).qnan

/-- fcvt of R168. -/
def fcvtElem (src dst : Fmt) (sat rz : Bool) (x : Nat) : Nat :=
  if src = dst then (if (fdec src x).isNan then (ffOf src).qnan else x)
  else fround dst sat rz (fdec src x)

/-- fclass of R170. -/
def fclassElem (f : Fmt) (x : Nat) : Nat :=
  match fdec f x with
  | .nan => 256
  | .inf neg => if neg then 1 else 128
  | .fin neg num _ _ =>
    let E := (x >>> (ffOf f).fbits) % 2 ^ (ffOf f).ebits
    if num = 0 then (if neg then 8 else 16)
    else if E = 0 then (if neg then 4 else 32) else (if neg then 2 else 64)

/-- The sum of products of R171, floats. -/
def pdotFloat (f : Fmt) (sat rz : Bool) (a b : List Nat) (c : Nat) : Nat :=
  fround .f32 sat rz (groupSum (List.zipWith (fun x y => (fdec f x).mul (fdec f y)) a b ++ [fdec .f32 c]))
/-- The sum of products of R171, integers; i4 is signed. -/
def pdotInt (t : Ty) (sgn sat : Bool) (a b : List Nat) (c : Nat) : Nat :=
  let g := sgn || t.fmt = .i4
  fitInt g sat 32 ((List.zipWith (fun x y => readInt g t.width x * readInt g t.width y) a b).foldl (· + ·) 0 + readInt g 32 c)

def pdotRes (t : Ty) : Ty := if t.isFloat then tyF32 else tyB32

def pdotVal (t : Ty) (sgn sat rz : Bool) (a b c : W64) : W64 :=
  BitVec.ofNat 64 (if t.isFloat then pdotFloat t.fmt sat rz (elems t a) (elems t b) c.toNat
    else pdotInt t sgn sat (elems t a) (elems t b) c.toNat)

/-- pwid of R172 on a source of type `t`. -/
def pwidRes (t : Ty) (df : Fmt) : Ty := { fmt := df, pack := Pack.ofCount (pwidCount t.count df) }
def pwidElem (src df : Fmt) (sgn : Bool) (x : Nat) : Nat :=
  if src.isFloat then fround df false false (fdec src x)
  else wrapInt df.width (readInt (sgn || src = .i4) src.width x)
def pwidVal (t : Ty) (df : Fmt) (sgn il : Bool) (part : Nat) (x : W64) : W64 :=
  let m := pwidCount t.count df
  let s := t.count / m
  let es := elems t x
  packElems (pwidRes t df) ((List.range m).map fun i =>
    pwidElem t.fmt df sgn (es.getD (if il then i * s + part else part * m + i) 0))

/-- pnar of R173: `k` sources of `q` elements. -/
def pnarElem (src dst : Fmt) (sgn sat rz : Bool) (x : Nat) : Nat :=
  if dst.isFloat then fround dst sat rz (fdec src x)
  else fitInt (sgn || dst = .i4) sat dst.width (readInt (sgn || dst = .i4) src.width x)
def pnarVal (st ty : Ty) (sgn sat rz il : Bool) (xs : List W64) : W64 :=
  let k := xs.length
  let q := st.count
  let ls := xs.map (elems st)
  packElems ty ((List.range ty.count).map fun j =>
    pnarElem st.fmt ty.fmt sgn sat rz (if il then (ls.getD (j % k) []).getD (j / k) 0 else (ls.getD (j / q) []).getD (j % q) 0))

/-! ## Shared forms -/

def evFmt : EvInfo := { code := evFormat }

/-- A polymorphic instruction of one operand (R94, R95). -/
def poly1 (s : State) (ty : Ty) (p : Pred) (accept : Ty → Bool) (a : Opnd) (f : Ty → Nat → Nat) : Out :=
  laneOp s p ty (fun c t => some (c.val ty t a)) fun c t =>
    match laneTy ty accept [c.val ty t a] with
    | some u => .ok (mkVal u (map1 u (f u) (c.rd u t a)))
    | none => .error evFmt

/-- A polymorphic instruction of two operands. -/
def poly2 (s : State) (ty : Ty) (p : Pred) (accept : Ty → Bool) (a b : Opnd) (f : Ty → Nat → Nat → Nat) : Out :=
  laneOp s p ty (fun c t => some (c.val ty t a)) fun c t =>
    match laneTy ty accept [c.val ty t a, c.val ty t b] with
    | some u => .ok (mkVal u (map2 u (f u) (c.rd u t a) (c.rd u t b)))
    | none => .error evFmt

/-- A polymorphic instruction of three operands. -/
def poly3 (s : State) (ty : Ty) (p : Pred) (accept : Ty → Bool) (a b d : Opnd) (f : Ty → Nat → Nat → Nat → Nat) : Out :=
  laneOp s p ty (fun c t => some (c.val ty t a)) fun c t =>
    match laneTy ty accept [c.val ty t a, c.val ty t b, c.val ty t d] with
    | some u => .ok (mkVal u (map3 u (f u) (c.rd u t a) (c.rd u t b) (c.rd u t d)))
    | none => .error evFmt

/-- An approximate function (R167). -/
def approx1 (s : State) (ty : Ty) (sat rz : Bool) (p : Pred) (fn : ApproxFn) (a : Opnd) : Out :=
  lane1 s ty p a (approxElem fn ty.fmt sat rz)

/-! ## The instructions -/

/-- R160 fadd. -/
def execFadd (ty : Ty) (sat rz : Bool) (p : Pred) (a b : Opnd) (s : State) : Out :=
  poly2 s ty p Ty.float a b fun u x y => fround u.fmt sat rz ((fdec u.fmt x).add (fdec u.fmt y))
/-- R160 fsub. -/
def execFsub (ty : Ty) (sat rz : Bool) (p : Pred) (a b : Opnd) (s : State) : Out :=
  poly2 s ty p Ty.float a b fun u x y => fround u.fmt sat rz ((fdec u.fmt x).add (fdec u.fmt y).neg)
/-- R160 fmul. -/
def execFmul (ty : Ty) (sat rz : Bool) (p : Pred) (a b : Opnd) (s : State) : Out :=
  poly2 s ty p Ty.float a b fun u x y => fround u.fmt sat rz ((fdec u.fmt x).mul (fdec u.fmt y))
/-- R160 fma, one rounding. -/
def execFma (ty : Ty) (sat rz : Bool) (p : Pred) (a b c : Opnd) (s : State) : Out :=
  poly3 s ty p Ty.float a b c fun u x y z =>
    fround u.fmt sat rz (((fdec u.fmt x).mul (fdec u.fmt y)).add (fdec u.fmt z))
/-- R162 fmin. -/
def execFmin (ty : Ty) (p : Pred) (a b : Opnd) (s : State) : Out := poly2 s ty p Ty.float a b fun u => fminElem u.fmt
/-- R162 fmax. -/
def execFmax (ty : Ty) (p : Pred) (a b : Opnd) (s : State) : Out := poly2 s ty p Ty.float a b fun u => fmaxElem u.fmt
/-- R163 fabs. -/
def execFabs (ty : Ty) (p : Pred) (a : Opnd) (s : State) : Out := poly1 s ty p Ty.float a fun u => fabsElem u.fmt
/-- R163 fneg. -/
def execFneg (ty : Ty) (p : Pred) (a : Opnd) (s : State) : Out := poly1 s ty p Ty.float a fun u => fnegElem u.fmt
/-- R164 fcmp; a packed dyn tag raises FORMAT. -/
def execFcmp (ty : Ty) (cond : FCond) (p : Pred) (a b : Opnd) (s : State) : Out :=
  laneOp s p tyP noFirst fun c t =>
    match laneTy ty Ty.floatX1 [c.val ty t a, c.val ty t b] with
    | some u => .ok (mkVal tyP (boolBits (fcondHolds cond (fdec u.fmt (c.rd u t a).toNat) (fdec u.fmt (c.rd u t b).toNat))))
    | none => .error evFmt
/-- R160 fdiv. -/
def execFdiv (ty : Ty) (sat rz : Bool) (p : Pred) (a b : Opnd) (s : State) : Out :=
  lane2 s ty p a b fun x y => fround ty.fmt sat rz ((fdec ty.fmt x).div (fdec ty.fmt y))
/-- R160 fsqrt. -/
def execFsqrt (ty : Ty) (sat rz : Bool) (p : Pred) (a : Opnd) (s : State) : Out :=
  lane1 s ty p a fun x => fround ty.fmt sat rz (fdec ty.fmt x).sqrt
/-- R160 frcp. -/
def execFrcp (ty : Ty) (sat rz : Bool) (p : Pred) (a : Opnd) (s : State) : Out :=
  lane1 s ty p a fun x => fround ty.fmt sat rz (XR.one.div (fdec ty.fmt x))
/-- R167 frsq. -/
def execFrsq (ty : Ty) (sat rz : Bool) (p : Pred) (a : Opnd) (s : State) : Out := approx1 s ty sat rz p .rsq a
/-- R167 fexp2. -/
def execFexp2 (ty : Ty) (sat rz : Bool) (p : Pred) (a : Opnd) (s : State) : Out := approx1 s ty sat rz p .exp2 a
/-- R167 flog2. -/
def execFlog2 (ty : Ty) (sat rz : Bool) (p : Pred) (a : Opnd) (s : State) : Out := approx1 s ty sat rz p .log2 a
/-- R167 fsin. -/
def execFsin (ty : Ty) (sat rz : Bool) (p : Pred) (a : Opnd) (s : State) : Out := approx1 s ty sat rz p .sin a
/-- R167 fcos. -/
def execFcos (ty : Ty) (sat rz : Bool) (p : Pred) (a : Opnd) (s : State) : Out := approx1 s ty sat rz p .cos a
/-- R167 ftanh. -/
def execFtanh (ty : Ty) (sat rz : Bool) (p : Pred) (a : Opnd) (s : State) : Out := approx1 s ty sat rz p .tanh a
/-- R167 fsig. -/
def execFsig (ty : Ty) (sat rz : Bool) (p : Pred) (a : Opnd) (s : State) : Out := approx1 s ty sat rz p .sig a
/-- R165 frnd. -/
def execFrnd (ty : Ty) (mode : RndMode) (p : Pred) (a : Opnd) (s : State) : Out :=
  poly1 s ty p Ty.float a fun u => frndElem u.fmt mode

/-- The source type of a conversion, from the value it names (R29): none where its count or format differs (FORMAT for a
dyn source). -/
def convSrc (c : Cx) (t : Thread) (x : Opnd) (ok : Ty → Bool) (count : Nat) : Option Ty :=
  let u := c.tagOf t x
  if u.dynTag && ok u && u.count = count then some u else none

/-- R168 fcvt. -/
def execFcvt (ty : Ty) (sat rz : Bool) (p : Pred) (x : Opnd) (s : State) : Out :=
  laneOp s p ty noFirst fun c t =>
    match convSrc c t x Ty.float ty.count with
    | some u => .ok (mkVal ty (packElems ty ((elems u (c.rd u t x)).map (fcvtElem u.fmt ty.fmt sat rz))))
    | none => .error evFmt
/-- R169 f2i. -/
def execF2i (ty : Ty) (sgn sat rz : Bool) (p : Pred) (x : Opnd) (s : State) : Out :=
  laneOp s p ty noFirst fun c t =>
    match convSrc c t x Ty.float ty.count with
    | some u => .ok (mkVal ty (packElems ty ((elems u (c.rd u t x)).map fun e => floatToInt sgn sat rz ty.width (fdec u.fmt e))))
    | none => .error evFmt
/-- R169 i2f. -/
def execI2f (ty : Ty) (sgn sat rz : Bool) (p : Pred) (x : Opnd) (s : State) : Out :=
  laneOp s p ty noFirst fun c t =>
    match convSrc c t x Ty.intI4 ty.count with
    | some u =>
      .ok (mkVal ty (packElems ty ((elems u (c.rd u t x)).map fun e => fround ty.fmt sat rz (XR.ofInt (readInt sgn u.width e)))))
    | none => .error evFmt
/-- R170 fclass. -/
def execFclass (ty : Ty) (p : Pred) (a : Opnd) (s : State) : Out :=
  laneOp s p tyB32 noFirst fun c t =>
    match laneTy ty Ty.floatX1 [c.val ty t a] with
    | some u => .ok (mkVal tyB32 (BitVec.ofNat 64 (fclassElem u.fmt (c.rd u t a).toNat)))
    | none => .error evFmt
/-- R171 pdot. -/
def execPdot (ty : Ty) (sgn sat rz : Bool) (p : Pred) (a b c : Opnd) (s : State) : Out :=
  laneOp s p (if ty = tyDyn then tyDyn else pdotRes ty) (fun x t => some (x.val ty t a)) fun x t =>
    match laneTy ty Ty.pdot [x.val ty t a, x.val ty t b] with
    | some u =>
      let r := pdotRes u
      if ty = tyDyn && (x.val ty t c).tag ≠ r.code then .error evFmt
      else .ok (mkVal r (pdotVal u sgn sat rz (x.rd u t a) (x.rd u t b) (x.rd r t c)))
    | none => .error evFmt
/-- R172 pwid. -/
def execPwid (ty : Ty) (df : Fmt) (sgn il : Bool) (part : Fin 4) (p : Pred) (x : Opnd) (s : State) : Out :=
  laneOp s p (if ty = tyDyn then tyDyn else pwidRes ty df) (fun c t => some (c.val ty t x)) fun c t =>
    match laneTy ty (fun u => widePair u.fmt df && part.val < u.count / pwidCount u.count df) [c.val ty t x] with
    | some u => .ok (mkVal (pwidRes u df) (pwidVal u df sgn il part.val (c.rd u t x)))
    | none => .error evFmt
/-- R173 pnar; the sources' type is that of the values they name. -/
def execPnar (ty : Ty) (sgn sat rz il : Bool) (p : Pred) (xs : List Opnd) (s : State) : Out :=
  laneOp s p ty noFirst fun c t =>
    let st := match xs with | x :: _ => c.tagOf t x | [] => ty
    .ok (mkVal ty (pnarVal st ty sgn sat rz il (xs.map fun x => c.rd st t x)))

/-- The codebook slot a workgroup names (R96, R350), when its state is the code's kind (R97). -/
def codebook (s : State) (c : Cx) (slot : Fin 8) (six : Bool) : Option (List (BitVec 16)) :=
  match (s.wg c.w.wg).cbs.get? slot.val with
  | none => none
  | some ph =>
    match (s.core c.iss.core).cbslots.get? ph with
    | none => none
    | some cb => if cb.state = (if six then .cb6 else .cb4) then some (cb.entries.take (if six then 64 else 16)) else none

/-- R174 cbdec. -/
def execCbdec (ty : Ty) (hi : Bool) (p : Pred) (codes : Opnd) (slot : Fin 8) (s : State) : Out :=
  let rty : Ty := { fmt := .bf16, pack := if ty.pack = .x8 then .x4 else ty.pack }
  laneOp s p rty noFirst fun c t =>
    match codebook s c slot (ty.fmt = .cb6) with
    | some cb =>
      let es := elems ty (c.rd ty t codes)
      let es' := if ty.pack = .x8 then (if hi then es.drop 4 else es.take 4) else es
      .ok (mkVal rty (packElems rty (es'.map fun e => (cbIndex cb e).toNat)))
    | none => .error evFmt
/-- R175 cbenc. -/
def execCbenc (ty : Ty) (p : Pred) (x : Opnd) (slot : Fin 8) (s : State) : Out :=
  laneOp s p ty noFirst fun c t =>
    match codebook s c slot (ty.fmt = .cb6) with
    | some cb =>
      let st := c.tagOf t x
      .ok (mkVal ty (packElems ty ((elems st (c.rd st t x)).map fun e => cbNearest cb (fdec st.fmt e))))
    | none => .error evFmt
/-- R166 fldx. -/
def execFldx (ty : Ty) (sat rz : Bool) (p : Pred) (x n : Opnd) (s : State) : Out :=
  laneOp s p ty (fun c t => some (c.val ty t x)) fun c t =>
    match laneTy ty Ty.float [c.val ty t x] with
    | some u => .ok (mkVal u (map1 u (fldxElem u.fmt sat rz (toSigned 32 (c.rd32 t n))) (c.rd u t x)))
    | none => .error evFmt
/-- R176 ftag, set form: the bits of %x at its own type, without those above the tag's lane bits (R31). -/
def execFtag (p : Pred) (x tag : Opnd) (s : State) : Out :=
  laneOp s p tyDyn noFirst fun c t =>
    let v := c.rd32 t tag
    let u := Ty.ofCode (BitVec.ofNat 6 v)
    if v < 64 && u.dynTag then .ok (mkVal u (normBits u (c.rd (c.tagOf t x) t x))) else .error evFmt
/-- R176 ftag, get form. -/
def execFtagGet (p : Pred) (x : Opnd) (s : State) : Out :=
  laneOp s p tyB32 noFirst fun c t => .ok (mkVal tyB32 ((c.val tyB64 t x).tag.setWidth 64))

end Sys2Proof.Machine
end

