-- ==== Sys2Proof/Machine/Phys.lean ====
section
/-! DEFINITION. Sys2Proof/Machine/Phys.lean: device memory (R294), home slices (R295), the content-shared cache: tags,
entries, hash points, allocation, slice writes (R296-R308), and the copying of snapshot lines (R322). `State.mem` holds what
an access at the home returns; tags and entries say where the bytes are held, and a DIRTY tag keeps what its frame holds. -/

namespace Sys2Proof.Machine

open Sys2Proof

/-! ## Byte tables -/

/-- A byte of a table; an unlisted byte reads 0 (log 3). -/
def cellGet : List Host.Cell → Nat → Byte
  | [], _ => 0
  | (a, b) :: t, k => if k = a then b else cellGet t k

/-- A write that keeps the canonical form. -/
def cellSet : List Host.Cell → Nat → Byte → List Host.Cell
  | [], k, v => if v = 0 then [] else [(k, v)]
  | (a, b) :: t, k, v =>
    if k < a then (if v = 0 then (a, b) :: t else (k, v) :: (a, b) :: t)
    else if k = a then (if v = 0 then t else (k, v) :: t)
    else (a, b) :: cellSet t k v

/-- The canonical form: addresses strictly rising, no zero byte listed. -/
def Memory.wf : List Host.Cell → Bool
  | [] => true
  | [(_, b)] => b != 0
  | (a, b) :: (a', b') :: t => b != 0 && decide (a < a') && Memory.wf ((a', b') :: t)

def cellsSet (m : List Host.Cell) (a : Nat) : List Byte → List Host.Cell
  | [] => m
  | b :: bs => cellsSet (cellSet m a b) (a + 1) bs

/-- Little-endian bytes of a value (R4). -/
def leBytes : Nat → Nat → List Byte
  | 0, _ => []
  | n + 1, v => BitVec.ofNat 8 v :: leBytes n (v / 256)

def leNat : List Byte → Nat
  | [] => 0
  | b :: bs => b.toNat + 256 * leNat bs

/-! ## Device memory -/

/-- Whether a PA is device memory (R294). -/
def deviceByte (pa : Nat) : Bool := pa < 2 ^ 40 && pa % 2 ^ 38 < Config.dieBytes

def siteOfPa (pa : Nat) : Nat := field pa 38 2
/-- HomeSlice of R295. -/
def homeSlice (pa : Nat) : Nat := field pa 7 6 ^^^ field pa 13 6 ^^^ field pa 19 6
def lineOf (a : Nat) : Nat := a / 128

def State.byte (s : State) (pa : Nat) : Byte := if deviceByte pa then cellGet s.mem pa else Config.absentByte pa
/-- A byte of memory takes a new value; the new datum is good (R392). -/
def State.setByte (s : State) (pa : Nat) (b : Byte) : State :=
  if deviceByte pa then { s with mem := cellSet s.mem pa b, poison := s.poison.filter (· ≠ pa) } else s

def State.bytesAt (s : State) (pa n : Nat) : List Byte := (List.range n).map fun i => s.byte (pa + i)
def State.word64 (s : State) (pa : Nat) : W64 := BitVec.ofNat 64 (leNat (s.bytesAt pa 8))
def State.lineBytes (s : State) (ln : Nat) : List Byte := s.bytesAt (ln * 128) 128

def State.setBytes (s : State) (pa : Nat) : List Byte → State
  | [] => s
  | b :: bs => (s.setByte pa b).setBytes (pa + 1) bs

/-! ## Quotas (R306, R308) -/

def Die.dom (d : Die) (r : Nat) : DomRegs := d.doms.get {} r
def Die.setDom (d : Die) (r : Nat) (f : DomRegs → DomRegs) : Die := { d with doms := d.doms.set r (f (d.dom r)) }
def Die.dataUsed (d : Die) (r : Nat) : Nat := (d.entries.filter fun e => e.2.creator = r).length
def Die.tagsUsed (d : Die) (r : Nat) : Nat := (d.tags.filter fun t => t.2.dom = r).length

/-- The guaranteed minimum: as many whole minimums, in ascending domain, as the die holds (R308). -/
def Die.effMin (d : Die) (r : Nat) : Nat :=
  let sum := (d.doms.filter fun p => p.1 ≤ r).foldl (fun n p => n + p.2.min) 0
  if sum ≤ 1572864 then (d.dom r).min else 0
def Die.effMax (d : Die) (r : Nat) : Nat := max (d.dom r).max (d.dom r).min

/-! ## Entries -/

def Die.sliceFree (d : Die) (sl : Nat) : Bool := (d.entries.filter fun e => e.2.slice = sl).length < 24576

/-- Slices in the order of R298 from home slice `h`. -/
def slicesFrom (h : Nat) : List Nat := (List.range 64).map fun x => x ^^^ h

def leastLru : List (Nat × CscEntry) → Option (Nat × CscEntry)
  | [] => none
  | e :: es =>
    match leastLru es with
    | none => some e
    | some f => if f.2.lru < e.2.lru then some f else some e

/-- The least recently used entry of a domain, in the nearest slice that holds one (R306). -/
def Die.lruEntry? (d : Die) (h v : Nat) : Option Nat :=
  (slicesFrom h).findSome? fun sl => (leastLru (d.entries.filter fun e => e.2.slice = sl && e.2.creator = v)).map Prod.fst

/-- Release of R300: REF falls, and the entry is freed at 0. -/
def Die.release (d : Die) (e : Option Nat) : Die :=
  match e with
  | none => d
  | some i =>
    match d.entries.get? i with
    | none => d
    | some x =>
      if x.ref ≤ 1 then { d with entries := d.entries.del i } else { d with entries := d.entries.set i { x with ref := x.ref - 1 } }

/-- An entry is evicted: every tag that points at it goes, its bytes written back (R306). -/
def Die.evictEntry (d : Die) (e : Nat) : Die :=
  { d with tags := d.tags.filter fun t => t.2.entry ≠ some e, entries := d.entries.del e }

/-- A tag is retired: written back if DIRTY, its entry released (R305). -/
def Die.retire (d : Die) (ln : Nat) : Die :=
  match d.tags.get? ln with
  | none => d
  | some t => { d.release t.entry with tags := d.tags.del ln }

/-- The domain that loses an entry to another's demand: greatest charge above its minimum, ties to the lowest number. -/
def Die.victimDomain (d : Die) : Option Nat :=
  let doms := (d.entries.foldl (fun (t : Tbl Unit) e => t.set e.2.creator ()) []).map Prod.fst
  (doms.foldl (fun (best : Option (Nat × Nat)) v =>
    let excess := d.dataUsed v - d.effMin v
    if excess = 0 then best
    else
      match best with
      | none => some (v, excess)
      | some (b, o) => if o < excess then some (v, excess) else some (b, o)) none).map Prod.fst

def Die.addEntry (d : Die) (sl creator : Nat) : Die × Nat :=
  ({ d with entries := d.entries.set d.nextEntry { slice := sl, ref := 1, creator := creator, lru := d.lruClock }
            nextEntry := d.nextEntry + 1, lruClock := d.lruClock + 1 }, d.nextEntry)

def Die.evictAndAdd (d : Die) (h v creator : Nat) : Option (Die × Nat) :=
  match d.lruEntry? h v with
  | none => none
  | some e => some ((d.evictEntry e).addEntry ((d.entries.get? e).map CscEntry.slice |>.getD h) creator)

/-- An entry for domain `r` near home slice `h`: R306's table. -/
def Die.takeEntry (d : Die) (h r : Nat) : Option (Die × Nat) :=
  if d.effMax r ≤ d.dataUsed r then d.evictAndAdd h r r
  else
    match (slicesFrom h).find? d.sliceFree with
    | some sl => some (d.addEntry sl r)
    | none =>
      match d.victimDomain with
      | some v => d.evictAndAdd h v r
      | none => none

/-! ## Tags -/

def leastTag : List (Nat × CscTag) → Option Nat
  | [] => none
  | t :: ts =>
    match leastTag ts with
    | none => some t.1
    | some k => if ((ts.find? fun u => u.1 = k).map fun u => u.2.lru).getD 0 < t.2.lru then some k else some t.1

/-- TagSet of a line (R296). -/
def Die.setOf (d : Die) (ln : Nat) : Nat := Config.tagSet d.bootNo ln % 4096

/-- Room for a tag of line `ln` for domain `r` (R306); none: the access is served without allocation. -/
def Die.takeTag (d : Die) (ln r : Nat) : Option Die :=
  let inSet := d.tags.filter fun t => homeSlice (t.1 * 128) = homeSlice (ln * 128) && d.setOf t.1 = d.setOf ln
  if 2 * d.effMax r ≤ d.tagsUsed r then (leastTag (inSet.filter fun t => t.2.dom = r)).map d.retire
  else if inSet.length < 12 then some d
  else (leastTag (inSet.filter fun t => 2 * d.effMin t.2.dom < d.tagsUsed t.2.dom)).map d.retire

def Die.touch (d : Die) (ln : Nat) : Die :=
  match d.tags.get? ln with
  | none => d
  | some t =>
    let es := match t.entry.bind fun e => (d.entries.get? e).map fun x => (e, x) with
      | some (e, x) => d.entries.set e { x with lru := d.lruClock }
      | none => d.entries
    { d with tags := d.tags.set ln { t with lru := d.lruClock }, entries := es, lruClock := d.lruClock + 1 }

/-! ## Hash points (R299-R301) -/

/-- The canonical entry of (domain, hash), with a line that reads its content. -/
def Die.canonical? (d : Die) (r : Nat) (h : BitVec 64) : Option (Nat × CscEntry) :=
  d.entries.find? fun e => e.2.canon = some h && (d.tags.any fun t => t.2.entry = some e.1 && t.2.dom = r)

def Die.lineOfEntry (d : Die) (e : Nat) : Option Nat := (d.tags.find? fun t => t.2.entry = some e).map Prod.fst

/-- MakeCanonical: the record replaces the pair's; a full directory set drops its least recently used record (R297). -/
def Die.makeCanonical (d : Die) (r e : Nat) (h : BitVec 64) : Die :=
  let es0 := match d.canonical? r h with
    | some (c, x) => d.entries.set c { x with canon := none }
    | none => d.entries
  let inSet : List (Nat × CscEntry) := es0.filter fun p => p.2.canon.any fun g => g.toNat % 2 ^ 17 = h.toNat % 2 ^ 17
  let es1 := if inSet.length < 12 then es0
    else match leastLru inSet with
      | some (c, x) => es0.set c { x with canon := none }
      | none => es0
  { d with entries := match es1.get? e with
      | some x => es1.set e { x with canon := some h }
      | none => es1 }

/-- Point the tag of `ln` at entry `e` (none: ZERO). -/
def Die.pointTag (d : Die) (ln r : Nat) (e : Option Nat) : Die :=
  { d with tags := d.tags.set ln { (d.tags.get { dom := r, entry := none } ln) with entry := e } }

/-- Keep of R300: the tag's own entry where no other tag points at it, else a fresh one; none where R306 yields none. -/
def Die.keep (d : Die) (ln r : Nat) (old : Option Nat) : Option (Die × Nat) :=
  match old.bind fun e => (d.entries.get? e).map fun x => (e, x) with
  | some (e, x) =>
    if x.ref = 1 then some (d, e)
    else
      match d.takeEntry (homeSlice (ln * 128)) r with
      | none => none
      | some (d1, e1) =>
        let d2 := if ((d1.tags.get? ln).bind CscTag.entry) = some e then d1.release (some e) else d1
        some (d2.pointTag ln r (some e1), e1)
  | none =>
    match d.takeEntry (homeSlice (ln * 128)) r with
    | none => none
    | some (d1, e1) => some (d1.pointTag ln r (some e1), e1)

/-- HashPoint of R300 for line `ln` of domain `r`, whose tag the die holds; `content` gives any line's bytes. -/
def Die.hashPoint (d : Die) (ln r : Nat) (content : Nat → List Byte) : Die :=
  let bytes := content ln
  let old := (d.tags.get? ln).bind CscTag.entry
  if bytes.all (· = 0) then (d.release old).pointTag ln r none
  else
    let h := Config.lineHash d.bootNo r bytes
    let fresh (canon : Bool) : Die :=
      match d.keep ln r old with
      | none => d.retire ln
      | some (d1, e) => if canon then d1.makeCanonical r e h else d1
    match d.canonical? r h with
    | none => fresh true
    | some (c, x) =>
      if some c = old then fresh true
      else if (d.lineOfEntry c).map content ≠ some bytes then (fresh false).setDom r fun q => { q with coll := (q.coll + 1) % 2 ^ 48 }
      else if 4095 ≤ x.ref then fresh true
      else ({ d.release old with entries := (d.release old).entries.set c { x with ref := x.ref + 1 } }).pointTag ln r (some c)

/-- The fill of a line that has no tag (R299): false where it leaves none (R306, R307). -/
def Die.fill (d : Die) (ln r : Nat) (content : Nat → List Byte) : Die :=
  match d.takeTag ln r with
  | none => d
  | some d1 =>
    let d2 := { d1 with tags := d1.tags.set ln { dom := r, entry := none, lru := d1.lruClock }, lruClock := d1.lruClock + 1 }
    d2.hashPoint ln r content

/-- A read at the home (R305, R307): a tag of another domain is retired, a missing line filled. -/
def Die.readLine (d : Die) (ln r : Nat) (nc : Bool) (content : Nat → List Byte) : Die :=
  let d1 := if (d.tags.get? ln).any fun t => t.dom ≠ r then d.retire ln else d
  if nc then d1
  else if (d1.tags.get? ln).isSome then d1.touch ln
  else d1.fill ln r content

/-- The preparation of R302; none: the write is served without allocation. -/
def Die.prepare (d : Die) (ln r : Nat) (nc : Bool) (content : Nat → List Byte) : Die :=
  if nc then d.retire ln
  else
    let d1 := d.readLine ln r false content
    match d1.tags.get? ln with
    | none => d1
    | some t =>
      match t.entry with
      | none =>
        match d1.takeEntry (homeSlice (ln * 128)) r with
        | some (d2, e) => d2.pointTag ln r (some e)
        | none => d1.retire ln
      | some e =>
        match d1.entries.get? e with
        | none => d1
        | some x =>
          if x.ref = 1 then { d1 with entries := d1.entries.set e { x with canon := none } }
          else
            match d1.keep ln r (some e) with
            | some (d2, _) => d2.setDom r fun q => { q with unsh := (q.unsh + 1) % 2 ^ 48 }
            | none => d1.retire ln

/-- DIRTY is set; the frame keeps what it held. -/
def Die.setDirty (d : Die) (ln : Nat) (frame : List Byte) : Die :=
  match d.tags.get? ln with
  | none => d
  | some t => { d with tags := d.tags.set ln { t with dirty := some (t.dirty.getD frame) } }

/-- `cctl.wb`: DIRTY is cleared, the frame holding the content (R319). -/
def Die.clean (d : Die) (ln : Nat) : Die :=
  match d.tags.get? ln with
  | none => d
  | some t => { d with tags := d.tags.set ln { t with dirty := none } }

/-! ## Snapshots (R320-R322) -/

/-- The bit of a copied line in the table's bitmaps (R320). -/
def snapBitPa (d : Die) (nfr f x : Nat) : Nat := field d.snapSft.toNat 12 45 * 4096 + 128 + 16 * nfr + 64 * f + x / 8

/-- Copy line `x` of frame `f` (R322): the destination shares the source's entry, or ZERO, or takes the bytes. A line without a tag is first filled
in domain `dom`; one of an NC page, which is never hashed (R299), is written straight to the destination. -/
def State.snapCopy (s : State) (site : Nat) (sn : Snapshot) (f x dom : Nat) (nc : Bool) : State :=
  let (src, dst) := sn.frames.getD f (0, 0)
  let ln := src / 128 + x
  let dl := dst / 128 + x
  let frame := s.lineBytes dl
  let hasTag := ((s.die site).tags.get? ln).isSome
  let d1 := if hasTag || nc then s.die site else (s.die site).fill ln dom s.lineBytes
  let s1 := (s.setDie site (d1.retire dl)).setBytes (dst + 128 * x) (s.lineBytes ln)
  let d2 := s1.die site
  let d3 : Die :=
    match (if nc then none else d2.tags.get? ln) with
    | none => d2
    | some t =>
      match d2.takeTag dl t.dom with
      | none => d2
      | some d3 =>
        let base := { d3 with tags := d3.tags.set dl { dom := t.dom, entry := none, lru := d3.lruClock }, lruClock := d3.lruClock + 1 }
        match (base.tags.get? ln).bind CscTag.entry with
        | none => if t.entry.isNone then base.setDirty dl frame else d2
        | some e =>
          match base.entries.get? e with
          | none => d2
          | some y =>
            if y.ref < 4095 then (({ base with entries := base.entries.set e { y with ref := y.ref + 1 } }).pointTag dl t.dom (some e)).setDirty dl frame
            else match base.keep dl t.dom none with
              | some (d4, _) => d4.setDirty dl frame
              | none => base.retire dl
  let s2 := s1.setDie site { d3 with snap := some { sn with copied := (f, x) :: sn.copied } }
  let bp := snapBitPa d3 sn.frames.length f x
  s2.setByte bp (s2.byte bp ||| (1#8 <<< (x % 8)))

/-- The source frame that holds a line not yet copied. -/
def Snapshot.pending? (sn : Snapshot) (ln : Nat) : Option (Nat × Nat) :=
  (sn.frames.zipIdx.find? fun p => p.1.1 / 128 ≤ ln && ln < p.1.1 / 128 + 512).bind fun p =>
    let k := (p.2, ln - p.1.1 / 128)
    if sn.copied.contains k then none else some k

/-- Before a slice write takes effect, an uncopied source line is copied (R322). -/
def State.snapGuard (s : State) (ln dom : Nat) (nc : Bool) : State :=
  let site := siteOfPa (ln * 128)
  match (s.die site).snap with
  | none => s
  | some sn =>
    match sn.pending? ln with
    | some (f, x) => s.snapCopy site sn f x dom nc
    | none => s

/-- A SLICE WRITE (R302): the line is prepared, the bytes take effect, DIRTY is set; `hash` says that the happening is a hash
point (R299). Bytes are given by offset in the line. -/
def State.sliceWrite (s : State) (ln dom : Nat) (nc hash : Bool) (bs : List (Nat × Byte)) : State :=
  let site := siteOfPa (ln * 128)
  let s1 := s.snapGuard ln dom nc
  let frame := s1.lineBytes ln
  let s2 := s1.setDie site ((s1.die site).prepare ln dom nc s1.lineBytes)
  let s3 := bs.foldl (fun s b => s.setByte (ln * 128 + b.1) b.2) s2
  let d := (s3.die site).setDirty ln frame
  s3.setDie site (if hash && !nc && (d.tags.get? ln).isSome then d.hashPoint ln dom s3.lineBytes else d)

/-- A read at a line's home. -/
def State.homeRead (s : State) (ln dom : Nat) (nc : Bool) : State :=
  let site := siteOfPa (ln * 128)
  s.setDie site ((s.die site).readLine ln dom nc s.lineBytes)

/-- Bytes split by line: line number and offset with byte. -/
def byLine (a : Nat) : List Byte → List (Nat × Nat × Byte)
  | [] => []
  | b :: bs => (a / 128, a % 128, b) :: byLine (a + 1) bs

/-- A write of consecutive bytes at their homes, line by line. -/
def State.writePa (s : State) (pa dom : Nat) (nc hash : Bool) (bs : List Byte) : State :=
  let parts := byLine pa bs
  let lines := (parts.foldl (fun (t : Tbl Unit) p => t.set p.1 ()) []).map Prod.fst
  lines.foldl (fun s ln => s.sliceWrite ln dom nc hash ((parts.filter fun p => p.1 = ln).map Prod.snd)) s

/-- A HOST WRITE (R302), line by line: a slice write and no hash point. The host has no context: a line with a tag is written in the tag's
domain, one without is merged into its frame (DESIGN CHOICE, log 37). -/
def State.hostStore (s : State) (pa : Nat) (bs : List Byte) : State :=
  let parts := (byLine pa bs).filter fun p => deviceByte (p.1 * 128)
  let lines := (parts.foldl (fun (t : Tbl Unit) p => t.set p.1 ()) []).map Prod.fst
  lines.foldl (fun s ln =>
    let bytes := (parts.filter fun p => p.1 = ln).map Prod.snd
    match (s.die (siteOfPa (ln * 128))).tags.get? ln with
    | some t => s.sliceWrite ln t.dom false false bytes
    | none => s.sliceWrite ln 0 true false bytes) s

/-- A 64-bit word written by the device itself to physical memory, uncached. -/
def State.putWord (s : State) (pa : Nat) (w : W64) : State := s.writePa pa 0 true false (leBytes 8 w.toNat)

def State.putWords (s : State) (pa : Nat) : List W64 → State
  | [] => s
  | w :: ws => (s.putWord pa w).putWords (pa + 8) ws

end Sys2Proof.Machine
end

