-- ==== Sys2Proof/Machine/Translate.lean ====
section
/-! DEFINITION. Sys2Proof/Machine/Translate.lean: page tables and walks (R311, R312), TLBs (R313), the faults of a translation
(R315), and host event records (R388), whose rings are reached by the same walks. -/

namespace Sys2Proof.Machine

open Sys2Proof

/-! ## Walks -/

/-- The levels of R311: number, lowest index bit, index width. -/
def walkLevels : List (Nat × Nat × Nat) := [(0, 39, 18), (1, 30, 9), (2, 21, 9), (3, 16, 5)]

inductive WalkEnd where
  /-- A leaf: its PTE's address, the PTE, log2 of the page size. -/
  | leaf (at_ : Nat) (pte : W64) (log2 : Nat)
  | absent
  | malformed (at_ : Nat)
  deriving DecidableEq, Repr

/-- Address bits [56:8] of a PTE. -/
def pteAddr (p : W64) : Nat := field p.toNat 8 49 * 256

/-- Malformed entries of R312 at a level. -/
def pteBad (host : Bool) (level log2 : Nat) (p : W64) : Bool :=
  let leaf := p.getLsbD 1
  field p.toNat 57 7 ≠ 0 || p.getLsbD 7 || (leaf && level = 0) || (!leaf && level = 3) ||
  (if leaf then pteAddr p % 2 ^ log2 ≠ 0 || (!host && !deviceByte (pteAddr p))
   else !deviceByte (pteAddr p) || pteAddr p % (if level = 2 then 256 else 4096) ≠ 0)

/-- The entries a walk reads, with where it ends (R311, R312). -/
def walkGo (s : State) (host : Bool) (va : Nat) : List (Nat × Nat × Nat) → Nat → List Nat × WalkEnd
  | [], _ => ([], .absent)
  | (l, lo, w) :: ls, table =>
    let pa := table + 8 * field va lo w
    let p := s.word64 pa
    if !p.getLsbD 0 then ([], .absent)
    else if pteBad host l lo p then ([], .malformed pa)
    else if p.getLsbD 1 then ([pa], .leaf pa p lo)
    else
      let r := walkGo s host va ls (pteAddr p)
      (pa :: r.1, r.2)

/-- The root of a space in a context's descriptor (R311, R421). -/
def ctxRoot (c : CtxDesc) (host : Bool) : Nat := field (c.words.getD (if host then 2 else 1) 0).toNat 21 36 * 2 ^ 21

def State.walk (s : State) (site asid : Nat) (host : Bool) (va : Nat) : List Nat × WalkEnd :=
  match (s.die site).ctx? asid with
  | some (_, c) => walkGo s host va walkLevels (ctxRoot c host)
  | none => ([], .absent)

/-- A strong OR at a PTE's home (R312). -/
def State.orPte (s : State) (pa bit : Nat) : State :=
  let b := s.byte pa
  if b.getLsbD bit then s else s.writePa pa 0 true false [b ||| (1#8 <<< bit)]

/-- The walker sets A in every entry read, and D in a leaf for a write it permits; PUB says nothing in a host walk (R312). -/
def State.walkMarks (s : State) (w : List Nat × WalkEnd) (host write : Bool) : State :=
  let s1 := w.1.foldl (fun s pa => s.orPte pa 5) s
  match w.2 with
  | .leaf pa p _ => if write && p.getLsbD 2 && (host || !p.getLsbD 3) then s1.orPte pa 6 else s1
  | _ => s1

/-! ## Translations -/

/-- Where an access lands: device PA or host address, domain (R305), NC, and the virtual address that led there. -/
structure Xlat where
  pa : Nat
  va : Nat := 0
  dom : Nat
  nc : Bool
  pub : Bool
  host : Bool := false
  deriving DecidableEq, Repr

/-- A failed translation: the event's code, its kind (R315), whether demand paging may queue it. -/
structure XFault where
  code : Nat
  kind : Nat
  queue : Bool
  deriving DecidableEq, Repr

def unmappedFault (write queue : Bool) : XFault := { code := evAddrUnmapped, kind := if write then 1 else 0, queue := queue }

/-- The dedup domain of a context (R421). -/
def ctxDomain (c : CtxDesc) : Nat := field (c.words.getD 0 0).toNat 20 12
def ctxFlag (c : CtxDesc) (b : Nat) : Bool := (c.words.getD 0 0).getLsbD b

/-- A context's host-space access is refused while its TDI is CONFIG_LOCKED (R431). -/
def Die.hostRefused (d : Die) (asid : Nat) : Bool :=
  match d.ctx? asid with
  | some (slot, _) => d.vfs.any fun v => v.2.bound && v.2.slot = slot && v.2.tdi = .locked
  | none => false

def tlbOf (asid : Nat) (host : Bool) (va : Nat) (p : W64) (log2 : Nat) (dirty : Bool) : TlbEntry :=
  { asid := asid, host := host, base := va / 2 ^ log2, log2 := log2, frame := pteAddr p, w := p.getLsbD 2,
    pub := !host && p.getLsbD 3, nc := !host && p.getLsbD 4, dirtySet := dirty }

def TlbEntry.holds (e : TlbEntry) (asid : Nat) (host : Bool) (va : Nat) : Bool :=
  e.asid = asid && e.host = host && e.base = va / 2 ^ e.log2

/-- The permission check of a translation (R305, R315). -/
def TlbEntry.use (e : TlbEntry) (dom va : Nat) (write : Bool) : Except XFault Xlat :=
  if write && e.pub then .error { code := evAddrPerm, kind := 2, queue := false }
  else if write && !e.w then .error { code := evAddrPerm, kind := 2, queue := true }
  else .ok { pa := e.frame + va % 2 ^ e.log2, va := va, dom := if e.pub then 0 else dom, nc := e.nc, pub := e.pub, host := e.host }

/-- A held translation serves an access; a write through one whose D is not yet set walks again. -/
def TlbEntry.serves (e : TlbEntry) (asid : Nat) (host : Bool) (va : Nat) (write : Bool) : Bool := e.holds asid host va && (!write || !e.w || e.dirtySet)

/-- The translation of an address with the translations `tlb` at hand: a held one, else a walk (R311-R315). -/
def State.translateBy (s : State) (tlb : List TlbEntry) (site asid : Nat) (host : Bool) (va : Nat) (write : Bool) : Except XFault Xlat :=
  if 2 ^ 57 ≤ va then .error (unmappedFault write false)
  else if host && (s.die site).hostRefused asid then .error { code := evAddrPerm, kind := 2, queue := false }
  else
    match (s.die site).ctx? asid with
    | none => .error (unmappedFault write false)
    | some (_, c) =>
      match tlb.find? fun e => e.serves asid host va write with
      | some e => e.use (ctxDomain c) va write
      | none =>
        match (s.walk site asid host va).2 with
        | .leaf _ p log2 => (tlbOf asid host va p log2 true).use (ctxDomain c) va write
        | .absent => .error (unmappedFault write true)
        | .malformed _ => .error (unmappedFault write false)

/-- The translation of an address by a cluster's TLB. -/
def State.translate (s : State) (site cl asid : Nat) (host : Bool) (va : Nat) (write : Bool) : Except XFault Xlat :=
  s.translateBy (s.cluster cl).tlb site asid host va write

/-- The translation of an address for a core: its micro-TLB, then its cluster's TLB, then a walk (R313). -/
def State.xlat (s : State) (core asid : Nat) (host : Bool) (va : Nat) (write : Bool) : Except XFault Xlat :=
  s.translateBy ((s.core core).utlb ++ (s.cluster (clusterOf core)).tlb) (siteOf core) asid host va write

/-! ## Host event records (R388) -/

structure HostRec where
  rkind : Nat
  code : Nat
  qual : Nat := 0
  lseq : Nat := 0
  tidx : Nat := 0
  fsym : Nat := 0
  warp : Nat := 0
  pix : Nat := 0xFFFFFF
  modid : W64 := 0
  aux : Nat := 0
  dlen : Nat := 0
  deriving DecidableEq, Repr

def HostRec.words (r : HostRec) (lost asid eseq : Nat) : List W64 :=
  [BitVec.ofNat 64 (lost * 2 ^ 48 + asid * 2 ^ 32 + r.qual % 2 ^ 16 * 2 ^ 16 + r.rkind * 256 + r.code),
   BitVec.ofNat 64 r.lseq, BitVec.ofNat 64 r.tidx,
   BitVec.ofNat 64 (r.fsym % 2 ^ 32 * 2 ^ 32 + r.warp % 16 * 2 ^ 24 + r.pix % 2 ^ 24),
   r.modid, BitVec.ofNat 64 r.aux, BitVec.ofNat 64 (r.dlen % 2 ^ 32), BitVec.ofNat 64 eseq]

/-- The table address of a descriptor (R420). -/
def Die.descPa (d : Die) (slot : Nat) : Nat := field d.ctxBase.toNat 20 37 * 2 ^ 20 + 256 * slot

def Die.modCtx (d : Die) (slot : Nat) (f : CtxDesc → CtxDesc) : Die :=
  match d.ctxs.get? slot with
  | some c => { d with ctxs := d.ctxs.set slot (f c) }
  | none => d

/-- A device write to a context's own memory by virtual address, outside any core: none where it cannot be reached. -/
def State.writeVa (s : State) (site asid : Nat) (va : Nat) (bs : List Byte) : Option State :=
  if 2 ^ 57 ≤ va then none
  else
    let w := s.walk site asid false va
    let s1 := s.walkMarks w false true
    match w.2, (s.die site).ctx? asid with
    | .leaf _ p log2, some (_, c) =>
      match (tlbOf asid false va p log2 true).use (ctxDomain c) va true with
      | .ok x => some (s1.writePa x.pa x.dom x.nc false bs)
      | .error _ => none
    | _, _ => none

/-- A device read of a context's memory by virtual address; the bytes lie in one page. -/
def State.readVa (s : State) (site asid : Nat) (va n : Nat) : Option (List Byte) :=
  if 2 ^ 57 ≤ va then none
  else
    match (s.walk site asid false va).2 with
    | .leaf _ p log2 => some (s.bytesAt (pteAddr p + va % 2 ^ log2) n)
    | _ => none

/-- What such a read does on its way: the walk's marks (R312), and the home's service of the first line (R299, R305, R307). -/
def State.readMarks (s : State) (site asid : Nat) (va : Nat) : State :=
  let w := s.walk site asid false va
  let s1 := s.walkMarks w false false
  match w.2, (s.die site).ctx? asid with
  | .leaf _ p log2, some (_, c) =>
    match (tlbOf asid false va p log2 true).use (ctxDomain c) va false with
    | .ok x => if (s.die (siteOfPa x.pa)).enabled then s1.homeRead (lineOf x.pa) x.dom x.nc else s1
    | .error _ => s1
  | _, _ => s1

/-- Post a record on one die's ring of a context; dropped and counted when the ring is full, lost when it cannot be reached. -/
def State.post (s : State) (site asid : Nat) (r : HostRec) : State :=
  match (s.die site).ctx? asid with
  | none => s
  | some (slot, c) =>
    let d := s.die site
    let log2 := field (c.words.getD 10 0).toNat 0 5
    let tail := leNat (s.bytesAt (d.descPa slot + 96) 4)
    if (c.evHead + 2 ^ 32 - tail) % 2 ^ 32 = 2 ^ log2 then
      s.setDie site (d.modCtx slot fun c => { c with lost := Nat.min 65535 (c.lost + 1) })
    else
      let va := (c.words.getD 9 0).toNat + 64 * (c.evHead % 2 ^ log2)
      let bytes := ((r.words c.lost asid d.eseq).map fun w => leBytes 8 w.toNat).flatten
      match s.writeVa site asid va bytes with
      | none => s
      | some s1 =>
        let head := (c.evHead + 1) % 2 ^ 32
        let d1 := (s1.die site).modCtx slot fun c => { c with evHead := head, lost := 0 }
        (s1.setDie site { d1 with eseq := d1.eseq + 1 }).writePa (d.descPa slot + 88) 0 true false (leBytes 4 head)

/-- The ring of a record of a launch or a context: the lowest-site die the context enables that is not in reset (R388). -/
def State.postSite? (s : State) (asid : Nat) (among : Nat → Bool) : Option Nat :=
  [0, 1, 2, 3].find? fun i => among i && (s.die i).enabled && ((s.die i).ctx? asid).any fun c => ctxFlag c.2 (16 + i)

def State.postAny (s : State) (asid : Nat) (among : Nat → Bool) (r : HostRec) : State :=
  match s.postSite? asid among with
  | some i => s.post i asid r
  | none => s

/-- A walk as a page walker makes it: marks, the record of a malformed entry (R312), and the translation held (R313). A full
TLB drops its oldest (log 10). -/
def State.walkFill (s : State) (site cl asid : Nat) (host : Bool) (va : Nat) (write : Bool) : State :=
  if 2 ^ 57 ≤ va then s
  else
    let w := s.walk site asid host va
    let s1 := s.walkMarks w host write
    match w.2 with
    | .absent => s1
    | .malformed pa => s1.post site asid { rkind := 6, code := evAddrUnmapped, aux := pa }
    | .leaf pa p log2 =>
      let e := tlbOf asid host va p log2 ((s1.byte pa).getLsbD 6)
      s1.modCluster cl fun c =>
        let kept := c.tlb.filter fun x => !(x.asid = asid && x.host = host && x.base = e.base && x.log2 = log2)
        { c with tlb := (kept ++ [e]).drop (kept.length - 4095) }

/-- An entry of the micro-TLB; a full one drops its oldest (log 10). -/
def Core.microFill (k : Core) (e : TlbEntry) : Core :=
  let kept := k.utlb.filter fun x => !(x.asid = e.asid && x.host = e.host && x.base = e.base && x.log2 = e.log2)
  { k with utlb := (kept ++ [e]).drop (kept.length - 31) }

/-- What an access of a core does to the TLBs: the cluster's TLB or a walk fills the micro-TLB where it misses (R313). A walk takes no time here, so
no walker is ever found busy, and none is shared (log 11). -/
def State.walkIfMissed (s : State) (core asid : Nat) (host : Bool) (va : Nat) (write : Bool) : State :=
  let cl := clusterOf core
  if (s.core core).utlb.any fun e => e.serves asid host va write then s
  else
    let s1 := if (s.cluster cl).tlb.any fun e => e.serves asid host va write then s else s.walkFill (siteOf core) cl asid host va write
    match (s1.cluster cl).tlb.find? fun e => e.serves asid host va write with
    | some e => s1.modCore core fun k => k.microFill e
    | none => s1

end Sys2Proof.Machine
end

