-- ==== Sys2Proof/Machine/Log.lean ====
section
/-! DEFINITION. Sys2Proof/Machine/Log.lean: the Sampler's log buffer (R400-R412): which launches are logged, reserving and
writing records, stalls for space, and reading the log back in replay. -/

namespace Sys2Proof.Machine

open Sys2Proof

/-- A register with the bits [lo + w - 1 : lo] replaced. -/
def setField (x : W64) (lo w v : Nat) : W64 :=
  BitVec.ofNat 64 (x.toNat - field x.toNat lo w * 2 ^ lo + v % 2 ^ w * 2 ^ lo)

def Launch.flag (l : Launch) (b : Nat) : Bool := (l.record.getD 0 0).getLsbD b

def Die.smpMode (d : Die) : Nat := if d.smpOff then 0 else field d.smpCtl.toNat 0 2 % 3
def Die.smpAsid (d : Die) : Nat := field d.smpCtl.toNat 32 16
def Die.smpHeadPa (d : Die) : Nat := field d.smpHead.toNat 5 52 * 32
def Die.smpLimitPa (d : Die) : Nat := field d.smpLimit.toNat 5 52 * 32
def Die.smpBasePa (d : Die) : Nat := field d.smpBase.toNat 5 52 * 32
/-- Records that fit (R409). -/
def Die.smpFree (d : Die) : Nat := (d.smpLimitPa - d.smpHeadPa) / 32

/-- The mode under which a context's happenings are observed on a die (R402): watches and samples. -/
def State.smpFor (s : State) (site asid : Nat) : Nat := if (s.die site).smpAsid = asid then (s.die site).smpMode else 0
/-- The mode under which a launch's happenings are logged on a die (R402): 0 for none. -/
def State.logMode (s : State) (site asid lseq : Nat) : Nat :=
  if (s.launch? asid lseq).any fun l => l.flag 54 then s.smpFor site asid else 0

/-- CYC of R403. -/
def State.cyc (s : State) (site : Nat) : Nat := (s.cycle - (s.die site).resetAt) % 2 ^ 48

def State.setHead (s : State) (site pa : Nat) : State := s.modDie site fun d => { d with smpHead := setField d.smpHead 5 52 (pa / 32) }

/-- Reserve `n` records together (R407): the first one's address, or none where they do not fit. -/
def State.reserve (s : State) (site n : Nat) : Option (Nat × State) :=
  let d := s.die site
  if n ≤ d.smpFree then
    let pa := d.smpHeadPa
    let s1 := s.setHead site (pa + 32 * n)
    some (pa, s1.modDie site fun d => { d with smpOut := d.smpOut ++ (List.range n).map fun i => pa + 32 * i })
  else none

/-- A reserved record is written; a pending MODE 0 takes effect when none is left (R401). -/
def State.putRec (s : State) (site pa : Nat) (ws : List W64) : State :=
  (s.putWords pa ws).modDie site fun d =>
    let out := d.smpOut.filter (· ≠ pa)
    if d.smpOff && out.isEmpty then { d with smpOut := out, smpOff := false, smpCtl := setField d.smpCtl 0 2 0 } else { d with smpOut := out }

/-- Words 0 and 1 of a record (R403). -/
def State.recHead (s : State) (site rt lseq tidx : Nat) : List W64 :=
  [BitVec.ofNat 64 (rt * 2 ^ 56 + site * 2 ^ 54 + s.cyc site), BitVec.ofNat 64 (lseq % 2 ^ 32 * 2 ^ 32 + tidx % 2 ^ 32)]

def State.logRec (s : State) (site : Nat) (pa : Option Nat) (rt lseq tidx w2 w3 : Nat) : State :=
  match pa with
  | none => s
  | some a => s.putRec site a (s.recHead site rt lseq tidx ++ [BitVec.ofNat 64 w2, BitVec.ofNat 64 w3])

/-- The records of an abandoned happening become FILLER (R407). -/
def State.filler (s : State) (site pa : Nat) : State :=
  s.putRec site pa [BitVec.ofNat 64 (site * 2 ^ 54 + s.cyc site), 0, 0, 0]

/-- The next number of a home slice (R407). -/
def State.takeSeq (s : State) (pa : Nat) : Nat × State :=
  let site := siteOfPa pa
  let k := homeSlice pa
  let n := (s.die site).sliceSeq.get 0 k
  (n, s.modDie site fun d => { d with sliceSeq := d.sliceSeq.set k (n + 1) })

/-- LINE and ACC of R405. -/
def recLine (pa lane : Nat) : Nat := pa / 128 * 128 + lane
def recAcc (widx pa seq : Nat) : Nat := widx % 16 * 2 ^ 60 + homeSlice pa * 2 ^ 54 + seq % 2 ^ 48

/-! ## Stalls for space (R409) -/

/-- A scheduler operation that finds no space: STALL, with one record at the start of each stall. -/
def State.stallLog (s : State) (site lseq tidx : Nat) : State :=
  let d := s.die site
  let s1 := if d.smpStall.any fun c => s.cycle ≤ c + 1 then s
    else s.post site d.smpAsid { rkind := 7, code := evLogFull, lseq := lseq, tidx := tidx, aux := d.smpHeadPa }
  s1.modDie site fun d => { d with smpStall := some s.cycle }

/-- STALL as it reads (R400): some operation waited for space in this cycle or the last. -/
def State.stalled (s : State) (site : Nat) : Bool := (s.die site).smpStall.any fun c => s.cycle ≤ c + 1

/-! ## Replay (R410, R411) -/

def State.recWords (s : State) (pa : Nat) : List W64 := [s.word64 pa, s.word64 (pa + 8), s.word64 (pa + 16), s.word64 (pa + 24)]
def recRt (r : List W64) : Nat := field (r.getD 0 0).toNat 56 8
def recLseq (r : List W64) : Nat := field (r.getD 1 0).toNat 32 32
def recTidx (r : List W64) : Nat := field (r.getD 1 0).toNat 0 32

def State.findGo (s : State) (used : List Nat) (p : List W64 → Bool) : Nat → Nat → Option (Nat × List W64)
  | 0, _ => none
  | k + 1, pa =>
    let r := s.recWords pa
    if !used.contains pa && p r then some (pa, r) else s.findGo used p k (pa + 32)

/-- The first record of its kind not yet consumed, in buffer order. -/
def State.findRec (s : State) (site : Nat) (p : List W64 → Bool) : Option (Nat × List W64) :=
  let d := s.die site
  s.findGo d.smpUsed p d.smpFree d.smpHeadPa

/-- Replay stops: DIV with QUAL 1, or END with QUAL 2 (R411). -/
def State.stopReplay (s : State) (site qual lseq tidx : Nat) : State :=
  let d := s.die site
  let s1 := s.modDie site fun d => { d with smpCtl := setField (setField d.smpCtl (if qual = 1 then 7 else 6) 1 1) 0 2 0 }
  s1.post site d.smpAsid { rkind := 7, code := 0, qual := qual, lseq := lseq, tidx := tidx, aux := d.smpHeadPa }

def State.diverge (s : State) (site lseq tidx : Nat) : State :=
  if (s.die site).smpMode = 2 then s.stopReplay site 1 lseq tidx else s

def State.skipGo (s : State) (used : List Nat) : Nat → Nat → Nat
  | 0, pa => pa
  | k + 1, pa =>
    let rt := recRt (s.recWords pa)
    if used.contains pa || rt = 0 || rt = 0x19 || rt = 0x20 then s.skipGo used k (pa + 32) else pa

/-- HEAD advances past consumed and skipped records; at LIMIT the replay ends. -/
def State.consume (s : State) (site pa : Nat) : State :=
  let d := s.die site
  let used := pa :: d.smpUsed
  let head := s.skipGo used d.smpFree d.smpHeadPa
  let s1 := (s.setHead site head).modDie site fun d => { d with smpUsed := used.filter (head ≤ ·) }
  if d.smpLimitPa ≤ head then s1.stopReplay site 2 0 0 else s1

/-- The next record of a logical thread: its kind, launch, unit, `%warp`, and lane where the record names one. -/
def State.threadRec (s : State) (site rt lseq tidx widx : Nat) (lane : Option Nat) : Option (Nat × List W64) :=
  s.findRec site fun r =>
    recRt r = rt && recLseq r = lseq % 2 ^ 32 && recTidx r = tidx % 2 ^ 32 && field (r.getD 3 0).toNat 60 4 = widx % 16 &&
    (match lane with | some l => field (r.getD 2 0).toNat 0 7 = l | none => true)

/-! ## Watches (R418, R419) -/

/-- Live entries that a write of `n` bytes at `va` meets. -/
def State.watchHits (s : State) (asid va n : Nat) : List (Nat × WatchEntry) :=
  (s.info asid).watches.filter fun p => p.2.live && p.2.base < va + n && va < p.2.base + p.2.len

/-- The aligned words that hold a watched byte of the write, with the lowest log-mode entry of each. -/
def State.watchWords (s : State) (asid va n : Nat) : List (Nat × Nat × WatchEntry) :=
  let words := (List.range ((va + n + 3) / 4 - va / 4)).map fun i => (va / 4 + i) * 4
  words.filterMap fun w =>
    let lo := Nat.max w va
    let hi := Nat.min (w + 4) (va + n)
    ((s.info asid).watches.find? fun p => p.2.live && !p.2.trap && p.2.base < hi && lo < p.2.base + p.2.len).map fun p => (w, p)

/-- A WATCH record (R404, R405). -/
def State.putWatch (s : State) (site pa : Nat) (w : Warp) (t : Thread) (word : Nat) (e : Nat × WatchEntry) (old new : Nat) : State :=
  s.putRec site pa
    [BitVec.ofNat 64 (0x19 * 2 ^ 56 + site * 2 ^ 54 + t.lane * 2 ^ 47 + (word - e.2.base / 4 * 4) / 4 % 2 ^ 38),
     BitVec.ofNat 64 (w.lseq % 2 ^ 32 * 2 ^ 32 + w.tidx % 2 ^ 32), BitVec.ofNat 64 (new * 2 ^ 32 + old),
     BitVec.ofNat 64 (t.pc.pix % 2 ^ 24 * 2 ^ 40 + e.1 * 2 ^ 36 + w.widx % 16 * 2 ^ 32 + t.pc.fsym % 2 ^ 32)]

end Sys2Proof.Machine
end

