-- ==== Sys2Proof/Machine/Access.lean ====
section
/-! DEFINITION. Sys2Proof/Machine/Access.lean: where an address of a space leads (R255, R259, R266), the checks before an
access (R258-R260, R305, R392, R419), the hold buffer and the L1 (R325-R329), phase boundaries and releases (R328, R330), and
strong accesses at their homes (R332-R341). -/

namespace Sys2Proof.Machine

open Sys2Proof

/-! ## Places -/

/-- Where an access lands. -/
inductive Place where
  | mem (x : Xlat)
  | pad (wg off : Nat)
  | image (off : Nat)
  | param (off : Nat)
  deriving DecidableEq, Repr

/-- An event an access raises, and whether demand paging may queue it (R315). -/
abbrev MemEv := EvInfo × Bool

def spaceCode : Space → Nat
  | .global => 0 | .scratch => 1 | .cluster => 2 | .const => 3 | .param => 4 | .host => 5

def memEvent (sp : Space) (addr : Nat) (f : XFault) : MemEv :=
  ({ code := f.code, qual := spaceCode sp * 4 + f.kind, faddr := BitVec.ofNat 64 addr }, f.queue)

def addrEvent (code qual addr : Nat) : MemEv := ({ code := code, qual := qual, faddr := BitVec.ofNat 64 addr }, false)

/-- The workgroup that a window address reaches, with the offset (R266). -/
def State.window (s : State) (cl wgk addr n : Nat) : Except MemEv Place :=
  let g := s.wg wgk
  let i := field addr 32 4
  let w := g.windows.getD i {}
  let revoked : MemEv := addrEvent evGroupRevoked i addr
  if 2 ^ 36 ≤ addr || !w.open_ || w.gen ≠ field addr 20 12 then .error revoked
  else
    match (g.group.bind fun m => (s.cluster cl).groups.get? m.1).bind fun e => e.members.get? w.target with
    | none => .error revoked
    | some k =>
      let off := field addr 0 20
      if (s.wg k).grant * 256 < off + n then .error (addrEvent evScratchBounds 0 addr) else .ok (.pad k off)

def State.place (s : State) (core asid wgk : Nat) (sp : Space) (addr n : Nat) (write : Bool) : Except MemEv Place :=
  let cl := clusterOf core
  let low (limit : Nat) (p : Place) : Except MemEv Place :=
    if limit < addr + n then .error (memEvent sp addr (unmappedFault write false)) else .ok p
  match sp with
  | .scratch => if (s.wg wgk).grant * 256 < addr + n then .error (addrEvent evScratchBounds 0 addr) else .ok (.pad wgk addr)
  | .cluster => s.window cl wgk addr n
  | .const => low (dataLen (s.moduleWords (s.wg wgk).modIdx)) (.image addr)
  | .param => low (s.wg wgk).params.length (.param addr)
  | .global | .host =>
    match s.xlat core asid (sp = .host) addr write with
    | .ok x => .ok (.mem x)
    | .error f => .error (memEvent sp addr f)

/-- The walks that the accesses of some threads need, made before the checks. -/
def State.walks (s : State) (core asid : Nat) : List (Space × Nat × Bool) → State
  | [] => s
  | (sp, a, w) :: r =>
    (if sp = .global || sp = .host then s.walkIfMissed core asid (sp = .host) a w else s).walks core asid r

/-! ## Checks -/

/-- What the checks of one access know: its place or its events. -/
structure Access where
  space : Space
  addr : Nat
  n : Nat
  align : Nat
  read : Bool
  write : Bool
  /-- An ordinary access (R325). -/
  ord : Bool := false
  deriving DecidableEq, Repr

def leastEvent : List MemEv → Option MemEv
  | [] => none
  | e :: es =>
    match leastEvent es with
    | none => some e
    | some f => if f.1.code < e.1.code then some f else some e

/-! ## Uncorrectable data (R392) -/

/-- The most recently issued held store of a byte by any warp of the core (R325). -/
def newestByte (off : Nat) (pl : PLine) : List HoldEntry → Option (Byte × Nat)
  | [] => none
  | e :: es =>
    match (if e.pl = pl then e.bytes.get? off else none), newestByte off pl es with
    | none, r => r
    | some b, none => some b
    | some b, some b' => if b.2 < b'.2 then some b' else some b

def Core.heldByte (x : Core) (pl : PLine) (off : Nat) : Option Byte := (newestByte off pl x.hold).map Prod.fst

def Xlat.line (x : Xlat) : PLine := { host := x.host, line := x.pa / 128 }

/-- Whether a read of a byte meets an uncorrectable datum: an ordinary load finds its byte in the hold buffer, else in the L1, which
keeps what the fill met, else at the home; any other access reads the home. -/
def State.badByte (s : State) (core : Nat) (ord : Bool) (x : Xlat) : Bool :=
  let k := s.core core
  if x.host then false
  else if ord then
    (k.heldByte x.line (x.pa % 128)).isNone &&
      (match k.l1.get? (lineOf x.pa) with | some l => l.bad.contains (x.pa % 128) | none => s.poison.contains x.pa)
  else s.poison.contains x.pa

def State.poisoned (s : State) (core : Nat) (ord : Bool) (pl : Place) (n : Nat) : Bool :=
  match pl with
  | .mem x => (List.range n).any fun i => s.badByte core ord { x with pa := x.pa + i }
  | _ => false

/-- Bytes of a line whose datum at the home is uncorrectable. -/
def State.lineBad (s : State) (ln : Nat) : List Nat :=
  if s.poison.isEmpty then [] else (List.range 128).filter fun i => s.poison.contains (ln * 128 + i)

/-- The home is on a die that is in reset (R394). -/
def State.homeDown (s : State) (pl : Place) : Bool :=
  match pl with
  | .mem x => !x.host && !(s.die (siteOfPa x.pa)).enabled
  | _ => false

/-- An instruction has executed: its exemption is used up. -/
def Thread.useExempt (t : Thread) : Thread := if t.exempt = some t.pc then { t with exempt := none } else t

/-- Every event of one access: translation, alignment, bounds, watch traps, uncorrectable data, a home in reset. -/
def Cx.events (s : State) (c : Cx) (t : Thread) (watched : Bool) (a : Access) : List MemEv :=
  let al := if a.addr % a.align = 0 then [] else [addrEvent evAddrAlign (spaceCode a.space * 4) a.addr]
  match s.place c.iss.core c.w.asid c.w.wg a.space a.addr a.n a.write with
  | .error e => e :: al
  | .ok pl =>
    let wt := if watched && t.exempt ≠ some t.pc then
        (match (s.watchHits c.w.asid a.addr a.n).find? fun p => p.2.trap with
         | some p => [addrEvent evWatchHit p.1 a.addr]
         | none => [])
      else []
    let bad := if a.read && s.poisoned c.iss.core a.ord pl a.n then [addrEvent evUncorrectable 0 a.addr] else []
    let down := if s.homeDown pl then [addrEvent evDieReset 0 a.addr] else []
    al ++ wt ++ bad ++ down

/-- Whether page faults of the context are queued (R315, R316). -/
def State.dpage (s : State) (site asid : Nat) : Bool :=
  let d := s.die site
  let lg := field d.fqCfg.toNat 0 5
  d.fqCfg.getLsbD 31 && 6 ≤ lg && lg ≤ 16 && ((d.ctx? asid).any fun c => ctxFlag c.2 2)

/-- A queued page fault (R315): the warp stops with its registers discarded, and waits for the answer. -/
def State.pageWait (s : State) (c : Cx) (e : EvInfo) (sp : Space) (lanes : List Nat) : State :=
  let w1 := c.w.waitPage s.cycle (e.faddr.toNat / 65536) (e.qual % 4) e.faddr sp (fun t => t.grp = c.w.turn) fun t => lanes.contains t.lane
  { s.setWarp c.key { w1 with native := { w1.native with regs := [], outstanding := [], qTile := [], qScale := [] } } with issue := none }

/-- Check the accesses of the threads before any takes effect (R260): the event of the lowest failing thread, the lowest code
first; a page fault may be queued instead. -/
def State.memCheck (s : State) (c : Cx) (ts : List Thread) (sp : Space) (ev : Thread → List MemEv) (k : State) : State :=
  match ts.findSome? fun t => leastEvent (ev t) with
  | none => k
  | some (e, q) =>
    let lanes := (ts.filter fun t => (leastEvent (ev t)).any fun x => x.1.code = e.code).map Thread.lane
    if q && s.dpage c.site c.w.asid then s.pageWait c e sp lanes else s.takeEvent c e lanes

/-! ## Bytes at a home -/

def State.baseByte (s : State) (host : Bool) (a : Nat) : Byte := if host then cellGet s.hostMem a else s.byte a

/-- The parameter block and the data section are read-only images (R34, R61). -/
def State.homeBytes (s : State) (c : Cx) (n : Nat) : Place → List Byte
  | .mem x => (List.range n).map fun i => s.baseByte x.host (x.pa + i)
  | .pad k off => (List.range n).map fun i => cellGet (s.wg k).scratch (off + i)
  | .image off => (List.range n).map fun i => dataByte c.ws (off + i)
  | .param off => (List.range n).map fun i => (s.wg c.w.wg).params.getD (off + i) 0

def State.padWrite (s : State) (k off : Nat) (bs : List Byte) : State :=
  s.modWg k fun g => { g with scratch := cellsSet g.scratch off bs }

def State.hostWrite (s : State) (a : Nat) (bs : List Byte) : State := { s with hostMem := cellsSet s.hostMem a bs }

/-- A write at the home: slice, scratchpad or host port. -/
def State.homeWrite (s : State) (bs : List Byte) : Place → State
  | .mem x => if x.host then s.hostWrite x.pa bs else s.writePa x.pa x.dom x.nc false bs
  | .pad k off => s.padWrite k off bs
  | _ => s

/-! ## The hold buffer and the L1 -/

def Warp.name (w : Warp) : WarpName := { asid := w.asid, lseq := w.lseq, tidx := w.tidx, gmember := w.gmember, widx := w.widx }

def Core.dropLine (x : Core) (ln : Nat) : Core := { x with l1 := x.l1.del ln }

/-- An acquire at cluster scope or wider drops every line of the L1 (R329). -/
def State.acquire (s : State) (core : Nat) (sc : Scope) : State :=
  if sc = .core then s else s.modCore core fun x => { x with l1 := [] }

def leastLine : List (Nat × L1Line) → Option Nat
  | [] => none
  | e :: es =>
    match leastLine es with
    | none => some e.1
    | some k => if ((es.find? fun u => u.1 = k).map fun u => u.2.lru).getD 0 < e.2.lru then some k else some e.1

/-- A fill of the L1 (R327): a set of eight lines all read since the last acquire makes an implicit acquire. -/
def Core.l1Fill (x : Core) (ln asid va : Nat) (used : Bool) (bytes : List Byte) (bad : List Nat) : Core :=
  let set := x.l1.filter fun p => Config.l1Set p.1 % 128 = Config.l1Set ln % 128
  let l1 := if set.length < 8 then x.l1
    else match leastLine (set.filter fun p => !p.2.used) with
      | some k => x.l1.del k
      | none => []
  { x with l1 := l1.set ln { bytes := bytes, bad := bad, asid := asid, va := va / 128 * 128, used := used, lru := x.l1Clock }, l1Clock := x.l1Clock + 1 }

/-- AN ORDINARY LOAD of one thread (R325-R327): each byte from the hold buffer, else the L1, else the home. -/
def State.ordLoad (s : State) (c : Cx) (na : Bool) (addr n : Nat) (pl : Place) : State × List Byte :=
  match pl with
  | .mem x =>
    let k := s.core c.iss.core
    let held := (List.range n).map fun i => k.heldByte x.line (x.pa % 128 + i)
    let mix (base : Nat → Byte) : List Byte := (List.range n).map fun i => ((held.getD i none).getD (base i))
    if held.all Option.isSome then (s, mix fun _ => 0)
    else if x.host then (s, mix fun i => s.baseByte true (x.pa + i))
    else
      match k.l1.get? (lineOf x.pa) with
      | some l =>
        -- a load with `.na` leaves the line's recency, but has read it: it is not displaced before the next acquire (R327)
        let k1 : Core := if na then { k with l1 := k.l1.set (lineOf x.pa) { l with used := true } }
          else { k with l1 := k.l1.set (lineOf x.pa) { l with used := true, lru := k.l1Clock }, l1Clock := k.l1Clock + 1 }
        (s.setCore c.iss.core k1, mix fun i => l.bytes.getD (x.pa % 128 + i) 0)
      | none =>
        let s1 := s.homeRead (lineOf x.pa) x.dom x.nc
        let s2 := if na then s1
          else s1.setCore c.iss.core ((s1.core c.iss.core).l1Fill (lineOf x.pa) c.w.asid addr true (s1.lineBytes (lineOf x.pa)) (s1.lineBad (lineOf x.pa)))
        (s2, mix fun i => s1.byte (x.pa + i))
  | p => (s, s.homeBytes c n p)

/-- Bytes that a store of a thread adds to a line its warp holds. -/
def holdBytes (off seq : Nat) (t : Tbl (Byte × Nat)) : List Byte → Tbl (Byte × Nat)
  | [] => t
  | b :: bs => holdBytes (off + 1) seq (t.set off (b, seq)) bs

/-- The open entry of a warp's line. -/
def HoldEntry.openFor (e : HoldEntry) (o : WarpName) (pl : PLine) : Bool := e.owner = o && e.pl = pl && e.phase.isNone

/-- AN ORDINARY STORE of one thread to global or host space is held (R325); the core's copy of the line is dropped (R327). -/
def State.holdStore (s : State) (c : Cx) (x : Xlat) (bs : List Byte) : State :=
  let k := s.core c.iss.core
  let o := c.w.name
  let old := k.hold.find? fun e => e.openFor o x.line
  let e0 : HoldEntry := old.getD { owner := o, slot := c.iss.slot, pl := x.line, dom := x.dom, nc := x.nc }
  let e1 := { e0 with va := x.va, bytes := holdBytes (x.pa % 128) k.holdSeq e0.bytes bs }
  let hold := if old.isSome then k.hold.map fun e => if e.openFor o x.line then e1 else e else k.hold ++ [e1]
  let k1 := { k with hold := hold, holdSeq := k.holdSeq + 1 }
  s.setCore c.iss.core (if x.host then k1 else k1.dropLine (lineOf x.pa))

def State.ordStore (s : State) (c : Cx) (bs : List Byte) : Place → State
  | .mem x => s.holdStore c x bs
  | .pad k off => s.padWrite k off bs
  | _ => s

/-- Lines that some stores would add to the hold buffer. -/
def newLines (k : Core) (o : WarpName) (ls : List PLine) : Nat :=
  (ls.foldl (fun (acc : List PLine) l => if acc.contains l || k.hold.any fun e => e.openFor o l then acc else acc ++ [l]) []).length

/-! ## Phase boundaries and releases (R328) -/

/-- Lines that the warp holds and has not begun to publish. -/
def State.openLines (s : State) (c : Cx) : Nat := ((s.core c.iss.core).hold.filter fun e => e.owner = c.w.name && e.phase.isNone).length

/-- Number the entries that `pick` chooses for one boundary, with their records. -/
def stampHold (pick : HoldEntry → Bool) (b : Nat) : Option Nat → List HoldEntry → List HoldEntry
  | _, [] => []
  | r, e :: es =>
    if pick e then { e with phase := some b, logged := r } :: stampHold pick b (r.map (· + 32)) es
    else e :: stampHold pick b r es

/-- An entry of a warp that has not begun to be published. -/
def HoldEntry.openOf (o : WarpName) (e : HoldEntry) : Bool := e.owner = o && e.phase.isNone

/-- A PHASE BOUNDARY of a warp: every line it holds is to be published, before any of its next boundary (R328). -/
def State.boundaryOf (s : State) (core key : Nat) (o : WarpName) (rec0 : Option Nat) : State :=
  match s.warps.get? key with
  | none => s
  | some w =>
    let s1 := s.modCore core fun k => { k with hold := stampHold (HoldEntry.openOf o) w.boundary rec0 k.hold }
    s1.setWarp key { w with boundary := w.boundary + 1 }

def State.boundary (s : State) (c : Cx) (rec0 : Option Nat) : State :=
  if s.openLines c = 0 then s else s.boundaryOf c.iss.core c.key c.w.name rec0

/-- Whether a release at a scope has completed (R328, R330): the warp's publications and strong accesses are performed, those
of host space from domain scope. -/
def State.released (s : State) (core : Nat) (o : WarpName) (sc : Scope) : Bool :=
  sc = .core ||
  (!((s.core core).hold.any fun e => e.owner = o && (!e.pl.host || sc = .domain || sc = .system)) &&
   !(s.dies.any fun d => d.2.det.any fun h => h.owner = o))

/-- Reserve the records of a warp action (R407): publications first, then `n`; LOG_FULL where they do not fit. The addresses
are the publications' first and the others' first. -/
def State.warpReserve (s : State) (c : Cx) (pubs accs watches : Nat) : Except EvInfo (Option Nat × Option Nat × State) :=
  let logged := s.logMode c.site c.w.asid c.w.lseq = 1
  let nP := if logged then pubs else 0
  let nA := if logged then accs else 0
  let total := nP + nA + watches
  if total = 0 then .ok (none, none, s)
  else
    match s.reserve c.site total with
    | some (pa, s1) => .ok (if nP = 0 then none else some pa, if nA + watches = 0 then none else some (pa + 32 * nP), s1)
    | none => .error { code := evLogFull, qual := total }

/-- An instruction that is a phase boundary and nothing more before it acts. -/
def State.withBoundary (s : State) (c : Cx) (k : State → State) : State :=
  match s.warpReserve c (s.openLines c) 0 0 with
  | .error e => s.takeEvent c e c.w.activeLanes
  | .ok (p, _, s1) => k (s1.boundary c p)

/-- An instruction that releases at a scope before it acts: it stalls until the release completes (R328). -/
def State.withRelease (s : State) (c : Cx) (sc : Scope) (k : State → State) : State :=
  s.withBoundary c fun s1 => if s1.released c.iss.core c.w.name sc then k s1 else s1.stall

/-- The issued warp after operations that changed it. -/
def State.again (s : State) (c : Cx) : Cx := { c with w := (s.warps.get? c.key).getD c.w }

/-! ## Strong accesses at their homes (R332-R341) -/

/-- A little-endian value of bytes. -/
def leVal (bs : List Byte) : W64 := BitVec.ofNat 64 (leNat bs)

/-- New value of an atomic operation (R339). -/
def atomNew (op : AtomOp) (sgn : Bool) (ty : Ty) (o v : W64) : W64 :=
  let i (f : Int → Int → Int) := map2 ty (intBin sgn false ty.width f) o v
  match op with
  | .add => i (· + ·)
  | .min => i fun x y => if x ≤ y then x else y
  | .max => i fun x y => if x ≤ y then y else x
  | .and => o &&& v
  | .or => o ||| v
  | .xor => o ^^^ v
  | .exch => v
  | .inc => if v.toNat ≤ o.toNat then 0 else o + 1
  | .dec => if o = 0 || v.toNat < o.toNat then v else o - 1
  | .fadd => map2 ty (fun x y => roundF (ffOf ty.fmt) false false ((fdec ty.fmt x).add (fdec ty.fmt y))) o v
  | .fmin => map2 ty (fminElem ty.fmt) o v
  | .fmax => map2 ty (fmaxElem ty.fmt) o v

/-- What a strong access writes, from the value it read; none writes nothing. -/
def strongNew (i : Instr) (ty : Ty) (o v cmp : W64) : Option W64 :=
  match i with
  | .stb .. => some v
  | .atom _ op sgn _ _ _ _ _ _ | .red _ op sgn _ _ _ _ _ _ => some (atomNew op sgn ty o v)
  | .atomc .. => if o = cmp then some v else none
  | _ => none

/-- The record type of a strong access (R404). -/
def strongRt : Instr → Nat
  | .stb .. => 0x12
  | .atom .. | .atomc .. | .red .. => 0x13
  | _ => 0x11

def isLdb : Instr → Bool
  | .ldb .. | .flagw .. => true
  | _ => false

/-- Write a slice or host place with the new value, or prepare the line (R302, R339). -/
def State.strongStore (s : State) (host : Bool) (pa dom : Nat) (nc : Bool) (i : Instr) (n : Nat) (new : Option W64) : State :=
  match new with
  | some v => if host then s.hostWrite pa (leBytes n v.toNat) else s.writePa pa dom nc false (leBytes n v.toNat)
  | none =>
    if host then s
    else if isLdb i then s.homeRead (lineOf pa) dom nc
    else
      let s1 := s.snapGuard (lineOf pa) dom nc
      s1.modDie (siteOfPa pa) fun d => d.prepare (lineOf pa) dom nc s1.lineBytes

/-- Write the reserved WATCH records of an access whose words have changed from `before` (R419). -/
def State.watchLog (s : State) (site : Nat) (w : Warp) (t : Thread) (asid : Nat) (wrote : Bool) (before after : Nat → Nat) :
    List (Nat × Nat × Nat) → State
  | [] => s
  | (pa, word, e) :: r =>
    let s1 := if wrote then
        s.putWatch site pa w t word (e, ((s.info asid).watches.get {} e)) (before word) (after word)
      else s.filler site pa
    s1.watchLog site w t asid wrote before after r

/-- A word of memory at its home, by the address of an access near it. -/
def State.wordNear (s : State) (host : Bool) (va pa word : Nat) : Nat :=
  leNat ((List.range 4).map fun i => s.baseByte host (pa + word + i - va))

/-- AN ACCESS IS PERFORMED at its home (R324, R339): the value it read goes back to its thread, the core's L1 drops a line it
wrote (R327), records are written. -/
def State.perform (s : State) (h : HomeOp) : State :=
  let n := Nat.max 1 h.ty.bytes
  let old := leVal ((List.range n).map fun i => s.baseByte h.host (h.pa + i))
  let new := strongNew h.instr h.ty old h.v h.cmp
  let key := wkey h.core h.slot
  let site := siteOf h.core
  let s1 := s.strongStore h.host h.pa h.dom h.nc h.instr n new
  let s2 := if new.isSome && !h.host then s1.modCore h.core fun k => k.dropLine (lineOf h.pa) else s1
  let s3 := if h.log.isSome || h.seq.isSome then
      let (q, s2) := s2.takeSeq h.pa
      s2.logRec site h.log (strongRt h.instr) h.owner.lseq h.owner.tidx (recLine h.pa h.lane) (recAcc h.owner.widx h.pa q)
    else s2
  let s4 := match s3.warps.get? key with
    | none => s3
    | some w => s3.watchLog site w ((w.thread? h.lane).getD { lane := h.lane }) h.owner.asid new.isSome
        (s.wordNear h.host h.va h.pa) (s3.wordNear h.host h.va h.pa) h.watch
  s4.modWarp key fun w => if w.name = h.owner then w.modThread h.lane fun t => { t with home := some (some old) } else w

/-- Whether nothing holds back an access: its warp's publication of the line; its release, for which the warp's earlier publications and strong
accesses have been performed (R328, R333); its place in a replayed log. -/
def State.mayPerform (s : State) (h : HomeOp) : Bool :=
  !((s.core h.core).hold.any fun e => e.owner = h.owner && e.phase.isSome && e.pl = { host := h.host, line := h.pa / 128 }) &&
  (match h.rel with
   | none => true
   | some sc => sc = .core ||
     (!((s.core h.core).hold.any fun e => e.owner = h.owner && e.phase.isSome && (!e.pl.host || sc = .domain || sc = .system)) &&
      !(s.dies.any fun d => d.2.det.any fun g => g.owner = h.owner && g.arrive < h.arrive))) &&
  (match h.seq with
   | none => true
   | some q => q = (s.die (siteOfPa h.pa)).sliceSeq.get 0 (homeSlice h.pa))

def removeOp (h : HomeOp) : List HomeOp → List HomeOp
  | [] => []
  | x :: xs => if x = h then xs else x :: removeOp h xs

/-- Of two accesses that nothing holds back, the first: the one that arrived earlier, in one cycle by lower home slice, then lower TagSet (R304). -/
def HomeOp.first (d : Die) (a b : HomeOp) : Bool :=
  let k (h : HomeOp) : Nat := (h.arrive * 64 + (if h.host then 0 else homeSlice h.pa)) * 4096 + (if h.host then 0 else d.setOf (lineOf h.pa))
  k a ≤ k b

def firstOp (d : Die) : List HomeOp → Option HomeOp
  | [] => none
  | h :: hs =>
    match firstOp d hs with
    | none => some h
    | some g => if h.first d g then some h else some g

/-- Perform every access of a die that nothing holds back, in the order of R304. -/
def State.performReady (s : State) (site : Nat) : Nat → State
  | 0 => s
  | k + 1 =>
    match firstOp (s.die site) ((s.die site).det.filter fun h => !h.det && s.mayPerform h) with
    | none => s
    | some h => ((s.modDie site fun d => { d with det := removeOp h d.det }).perform h).performReady site k

def State.performAll (s : State) : State :=
  [0, 1, 2, 3].foldl (fun s i => s.performReady i (s.die i).det.length) s

/-! ## Publications (R325, R328) -/

/-- Whether a held line may be published now: one whose boundary has passed, after those of the warp's earlier boundaries; or, while a store
waits for room in the buffer, a line of a warp of no logged launch (R325, R407). -/
def State.mayPublish (s : State) (core : Nat) (e : HoldEntry) : Bool :=
  let k := s.core core
  match e.phase with
  | some b => !(k.hold.any fun f => f.owner = e.owner && f.phase.any (· < b))
  | none => 512 < k.hold.length + k.roomFor && !(k.hold.any fun f => f.owner = e.owner && f.phase.isSome) &&
    s.logMode (siteOf core) e.owner.asid e.owner.lseq = 0

/-- In replay, the record that a publication takes, where the launch is replayed (R410). -/
def State.publishRec (s : State) (core : Nat) (e : HoldEntry) : Option (Option (Nat × List W64)) :=
  let site := siteOf core
  if s.logMode site e.owner.asid e.owner.lseq = 2 && !e.pl.host then
    some (s.findRec site fun r => recRt r = 0x10 && recLseq r = e.owner.lseq % 2 ^ 32 && recTidx r = e.owner.tidx % 2 ^ 32 &&
      field (r.getD 3 0).toNat 60 4 = e.owner.widx % 16 && (r.getD 2 0).toNat = e.pl.line * 128)
  else none

/-- A PUBLICATION lands at its home (R302, R325): bytes by offset, a hash point (R299). The core's L1 drops the line: a copy filled while the store
was held is older than the store that the core's loads have returned (R327's promises; DEDUCED, log 40). -/
def State.publish (s : State) (core idx : Nat) (e : HoldEntry) (log : Bool) : State :=
  let bs := e.bytes.map fun p => (p.1, p.2.1)
  let s1 := s.modCore core fun k =>
    let k1 := { k with hold := k.hold.eraseIdx idx }
    if e.pl.host then k1 else k1.dropLine e.pl.line
  let s2 := if e.pl.host then { s1 with hostMem := bs.foldl (fun m b => cellSet m (e.pl.line * 128 + b.1) b.2) s1.hostMem }
    else s1.sliceWrite e.pl.line e.dom e.nc true bs
  let s3 := if log && !e.pl.host then
      let (q, s3) := s2.takeSeq (e.pl.line * 128)
      s3.logRec (siteOf core) e.logged 0x10 e.owner.lseq e.owner.tidx (recLine (e.pl.line * 128) 0) (recAcc e.owner.widx (e.pl.line * 128) q)
    else s2
  s3.performAll

end Sys2Proof.Machine
end

