-- ==== Sys2Proof/Machine/Memory.lean ====
section
/-! DEFINITION. Sys2Proof/Machine/Memory.lean: the memory instructions 0x50-0x5A: ordinary loads and stores (R258-R260),
prefetch (R261), cache control (R319), strong accesses and atomics (R332-R342), fences and phases (R337, R338). -/

namespace Sys2Proof.Machine

open Sys2Proof

/-- Bytes of an access of a type (R258). -/
def tySpan (t : Ty) : Nat := Nat.max 1 t.bytes

/-- Threads of the group that are not predicated off (R139). -/
def Cx.on (c : Cx) (p : Pred) : List Thread := c.active.filter fun t => !c.off p t

/-! ## Ordinary loads -/

/-- The loads of some threads, in lane order. -/
def State.loadAll (s : State) (c : Cx) (na : Bool) (sp : Space) (n : Thread → Nat) (addr : Thread → Nat) :
    List Thread → List (Thread × W64) → State × List (Thread × W64)
  | [], acc => (s, acc)
  | t :: ts, acc =>
    match s.place c.iss.core c.w.asid c.w.wg sp (addr t) (n t) false with
    | .error _ => s.loadAll c na sp n addr ts acc
    | .ok pl =>
      let (s1, bs) := s.ordLoad c na (addr t) (n t) pl
      s1.loadAll c na sp n addr ts (acc ++ [(t, leVal bs)])

/-- A load whose type may differ per thread: `ld`, `ldt`. `pre` gives an event before the access of a thread. -/
def loadWith (s : State) (p : Pred) (sp : Space) (na : Bool) (addr : Cx → Thread → Nat)
    (ty : Cx → Thread → Ty) (pre : Cx → Thread → List MemEv) : Out :=
  withCx s fun c =>
    let on := c.on p
    let a := addr c
    let n t := tySpan (ty c t)
    let s1 := s.walks c.iss.core c.w.asid (on.map fun t => (sp, a t, false))
    s1.memCheck c on sp
      (fun t => match pre c t with
        | [] => c.events s1 t false { space := sp, addr := a t, n := n t, align := Nat.min (n t) 8, read := true, write := false, ord := true }
        | es => es)
      (let (s2, vs) := s1.loadAll c na sp n a on []
       let res (t : Thread) : Val := mkVal (ty c t) (normBits (ty c t) (((vs.find? fun v => v.1 = t).map Prod.snd).getD 0))
       s2.advance c (c.w.putAll c.iss res c.active) false)

/-- R258 ld. -/
def execLd (ty : Ty) (sp : Space) (na : Bool) (p : Pred) (addr : Opnd) (off : Option (BitVec 30)) (s : State) : Out :=
  loadWith s p sp na (fun c t => c.addr t addr off) (fun _ _ => ty) fun _ _ => []

/-! ## Ordinary stores -/

/-- What one thread stores. -/
structure StoreReq where
  t : Thread
  addr : Nat
  bytes : List Byte
  deriving DecidableEq, Repr

/-- The word that an ordinary load of the thread would read (R419). -/
def State.peekWord (s : State) (c : Cx) (x : Xlat) (va word : Nat) : Nat :=
  leNat ((List.range 4).map fun i => ((s.ordLoad c true (word + i) 1 (.mem { x with pa := x.pa + (word + i) - va })).2).getD 0 0)

def State.storeAll (s : State) (c : Cx) (sp : Space) : List StoreReq → Option Nat → State
  | [], _ => s
  | r :: rs, rec0 =>
    match s.place c.iss.core c.w.asid c.w.wg sp r.addr r.bytes.length true with
    | .error _ => s.storeAll c sp rs rec0
    | .ok pl =>
      let s1 := s.ordStore c r.bytes pl
      match rec0, pl with
      | some pa, .mem x =>
        let ws := if sp = .global then s.watchWords c.w.asid r.addr r.bytes.length else []
        let recs := ws.zipIdx.map fun e => (pa + 32 * e.2, e.1.1, e.1.2.1)
        let s2 := s1.watchLog c.site c.w r.t c.w.asid true (s.peekWord c x r.addr) (s1.peekWord c x r.addr) recs
        s2.storeAll c sp rs (some (pa + 32 * ws.length))
      | _, _ => s1.storeAll c sp rs rec0

def reqPlace (s : State) (c : Cx) (sp : Space) (r : StoreReq) : Option PLine :=
  match s.place c.iss.core c.w.asid c.w.wg sp r.addr r.bytes.length true with
  | .ok (.mem x) => some x.line
  | _ => none

/-- The store for which the buffer made room has been held. -/
def State.roomMade (s : State) (core : Nat) : State := if (s.core core).roomFor = 0 then s else s.modCore core fun k => { k with roomFor := 0 }

/-- ORDINARY STORES of a group whose checks have passed: room in the hold buffer (R325), records (R407, R419), the stores in
lane order, then `fin`. -/
def State.storeThen (s : State) (c : Cx) (sp : Space) (rs : List StoreReq) (fin : State → State) : State :=
  let lines := rs.filterMap (reqPlace s c sp)
  let new := newLines (s.core c.iss.core) c.w.name lines
  if 512 < (s.core c.iss.core).hold.length + new then
    let s0 := s.modCore c.iss.core fun k => { k with roomFor := new }
    if s.logMode c.site c.w.asid c.w.lseq = 0 then s0.stall
    else s0.withBoundary c State.stall
  else
    let nw := if sp = .global && s.smpFor c.site c.w.asid = 1 then
        (rs.map fun r => (s.watchWords c.w.asid r.addr r.bytes.length).length).foldl (· + ·) 0 else 0
    match s.warpReserve c 0 0 nw with
    | .error e => s.takeEvent c e c.w.activeLanes
    | .ok (_, r, s1) => fin ((s1.storeAll c sp rs r).roomMade c.iss.core)

/-- The stores of an instruction. -/
def State.storeGroup (s : State) (c : Cx) (sp : Space) (rs : List StoreReq) : State :=
  s.storeThen c sp rs fun s2 => s2.advance c (c.w.mapActive Thread.useExempt) false

/-- A store whose type may differ per thread. -/
def storeWith (s : State) (p : Pred) (sp : Space) (addr : Cx → Thread → Nat) (ty : Cx → Thread → Ty) (val : Cx → Thread → W64)
    (pre : Cx → Thread → List MemEv) : Out :=
  withCx s fun c =>
    let on := c.on p
    let a := addr c
    let n t := tySpan (ty c t)
    let s1 := s.walks c.iss.core c.w.asid (on.map fun t => (sp, a t, true))
    s1.memCheck c on sp
      (fun t => match pre c t with
        | [] => c.events s1 t (sp = .global) { space := sp, addr := a t, n := n t, align := Nat.min (n t) 8, read := false, write := true }
        | es => es)
      (s1.storeGroup c sp (on.map fun t => { t := t, addr := a t, bytes := leBytes (n t) (normBits (ty c t) (val c t)).toNat }))

/-- R258 st; a dyn store takes each thread's own tag. -/
def execSt (ty : Ty) (sp : Space) (_na : Bool) (p : Pred) (addr v : Opnd) (off : Option (BitVec 30)) (s : State) : Out :=
  let tyOf (c : Cx) (t : Thread) : Ty := if ty = tyDyn then c.tagOf t v else ty
  storeWith s p sp (fun c t => c.addr t addr off) tyOf (fun c t => c.rd (tyOf c t) t v)
    fun c t => if (tyOf c t).dynTag then [] else [({ code := evFormat }, false)]

/-! ## Prefetch and cache control -/

/-- A line is brought in for one thread; any failure skips it (R261). -/
def State.prefetchOne (s : State) (c : Cx) (csc : Bool) (sp : Space) (a : Nat) : State :=
  match s.place c.iss.core c.w.asid c.w.wg sp (a / 128 * 128) 1 false with
  | .ok (.mem x) =>
    if x.host || s.homeDown (.mem x) then s
    else
      let s1 := s.homeRead (lineOf x.pa) x.dom x.nc
      if csc || ((s1.core c.iss.core).l1.get? (lineOf x.pa)).isSome then s1
      else s1.setCore c.iss.core ((s1.core c.iss.core).l1Fill (lineOf x.pa) c.w.asid a false (s1.lineBytes (lineOf x.pa)) (s1.lineBad (lineOf x.pa)))
  | _ => s

/-- R261 prefetch. -/
def execPrefetch (csc : Bool) (sp : Space) (addr : Opnd) (off : Option (BitVec 30)) (s : State) : Out :=
  withCx s fun c =>
    let as := c.active.map fun t => c.addr t addr off
    let s1 := s.walks c.iss.core c.w.asid (as.map fun a => (sp, a, false))
    let s2 := as.foldl (fun s a => s.prefetchOne c csc sp a) s1
    s2.advance c c.w false

/-- `wb`, `evict` and `cold` on the line of one thread, where the tag is of the access's own domain (R319). -/
def State.cctlOne (s : State) (c : Cx) (op : CctlOp) (a : Nat) : State :=
  match s.place c.iss.core c.w.asid c.w.wg .global a 1 false with
  | .ok (.mem x) =>
    let ln := lineOf x.pa
    let site := siteOfPa x.pa
    if x.nc || !((s.die site).tags.get? ln).any (fun t => t.dom = x.dom) then s
    else
      s.modDie site fun d =>
        match op with
        | .wb => d.clean ln
        | .evict => d.retire ln
        | .cold =>
          match d.tags.get? ln with
          | none => d
          | some t =>
            let es := match t.entry.bind fun e => (d.entries.get? e).map fun y => (e, y) with
              | some (e, y) => d.entries.set e { y with lru := 0 }
              | none => d.entries
            { d with tags := d.tags.set ln { t with lru := 0 }, entries := es }
        | .zero => d
  | _ => s

/-- R319 cctl. -/
def execCctl (op : CctlOp) (addr : Opnd) (off : Option (BitVec 30)) (s : State) : Out :=
  match op with
  | .zero =>
    withCx s fun c =>
      let a t := c.addr t addr off
      let s1 := s.walks c.iss.core c.w.asid (c.active.map fun t => (.global, a t, true))
      s1.memCheck c c.active .global
        (fun t => c.events s1 t true { space := .global, addr := a t, n := 128, align := 128, read := false, write := true })
        (s1.storeGroup c .global (c.active.map fun t => { t := t, addr := a t, bytes := List.replicate 128 0 }))
  | .wb | .evict | .cold =>
    withCx s fun c =>
      let as := c.active.map fun t => c.addr t addr off
      let s1 := s.walks c.iss.core c.w.asid (as.map fun a => (.global, a, false))
      (as.foldl (fun s a => s.cctlOne c op a) s1).advance c c.w false

/-! ## Strong accesses -/

/-- The parts of a strong access, the same for its five instructions (R336). -/
structure Strong where
  instr : Instr
  ty : Ty
  space : Space
  ord : Ord
  pred : Pred
  addr : Opnd
  off : Option (BitVec 30)
  v : Option Opnd
  cmp : Option Opnd
  atomic : Bool

def acqScope : Ord → Option Scope
  | .acq s | .acqrel s => some s
  | _ => none
def relScope : Ord → Option Scope
  | .rel s | .acqrel s => some s
  | _ => none

def Strong.isLoad (x : Strong) : Bool := isLdb x.instr
def Strong.va (x : Strong) (c : Cx) (t : Thread) : Nat := c.addr t x.addr x.off
def Strong.val (x : Strong) (c : Cx) (t : Thread) : W64 := (x.v.map fun o => normBits x.ty (c.rd x.ty t o)).getD 0
def Strong.cmpVal (x : Strong) (c : Cx) (t : Thread) : W64 := (x.cmp.map fun o => c.rd x.ty t o).getD 0

/-- The value now at the home of a thread's access, for the watch of an `atomc` that may not write (R419). -/
def Strong.writes (x : Strong) (s : State) (c : Cx) (t : Thread) : Bool :=
  match s.place c.iss.core c.w.asid c.w.wg x.space (x.va c t) (tySpan x.ty) (!x.isLoad) with
  | .ok pl => (strongNew x.instr x.ty (leVal (s.homeBytes c (tySpan x.ty) pl)) (x.val c t) (x.cmpVal c t)).isSome
  | .error _ => false

def Strong.events (x : Strong) (s : State) (c : Cx) (t : Thread) : List MemEv :=
  let n := (tySpan x.ty)
  c.events s t (x.space = .global && !x.isLoad && x.writes s c t)
    { space := x.space, addr := x.va c t, n := n, align := if x.atomic then n else Nat.min n 8,
      read := x.isLoad || x.atomic, write := !x.isLoad }

/-- The held lines of a warp that strong loads touch: they are published early (R333). -/
def State.touchedOpen (s : State) (c : Cx) (ls : List PLine) : Nat :=
  ((s.core c.iss.core).hold.filter fun e => e.owner = c.w.name && e.phase.isNone && ls.contains e.pl).length

/-- Give the touched open lines the number of the next boundary. -/
def State.earlyPublish (s : State) (c : Cx) (ls : List PLine) (rec0 : Option Nat) : State :=
  s.modCore c.iss.core fun k => { k with hold := stampHold (fun e => e.openOf c.w.name && ls.contains e.pl) c.w.boundary rec0 k.hold }

/-- Whether the launch orders atomics by key (R341). -/
def State.detFlag (s : State) (c : Cx) : Bool := (s.launch? c.w.asid c.w.lseq).any fun l => l.flag 49

/-- Issue the accesses of some threads: at a scratchpad at once, else to the home. -/
def State.issueAll (s : State) (c : Cx) (x : Strong) : List Thread → Option Nat → State
  | [], _ => s
  | t :: ts, rec0 =>
    let n := (tySpan x.ty)
    match s.place c.iss.core c.w.asid c.w.wg x.space (x.va c t) n (!x.isLoad) with
    | .error _ => s.issueAll c x ts rec0
    | .ok (.mem xl) =>
      let logged := x.space = .global && s.logMode c.site c.w.asid c.w.lseq = 1
      let watched := if x.space = .global && !x.isLoad && s.smpFor c.site c.w.asid = 1 then s.watchWords c.w.asid (x.va c t) n else []
      let r1 := rec0.map fun r => if logged then r + 32 else r
      let wl := match r1 with
        | some r => watched.zipIdx.map fun e => (r + 32 * e.2, e.1.1, e.1.2.1)
        | none => []
      let (s1, seq) : State × Option Nat :=
        if x.space = .global && s.logMode c.site c.w.asid c.w.lseq = 2 then
          match s.threadRec c.site (strongRt x.instr) c.w.lseq c.w.tidx c.w.widx (some t.lane) with
          | some (pa, r) =>
            if (r.getD 2 0).toNat = recLine xl.pa t.lane then (s.consume c.site pa, some (field (r.getD 3 0).toNat 0 48))
            else (s.diverge c.site c.w.lseq c.w.tidx, none)
          | none => (s.diverge c.site c.w.lseq c.w.tidx, none)
        else (s, none)
      let h : HomeOp :=
        { owner := c.w.name, core := c.iss.core, slot := c.iss.slot, lane := t.lane, wid := t.wid.toNat, n := t.detN, arrive := s.cycle,
          host := xl.host, va := x.va c t, pa := xl.pa, dom := xl.dom, nc := xl.nc, instr := x.instr, ty := x.ty, v := x.val c t,
          cmp := x.cmpVal c t,
          det := x.space = .global && s.detFlag c && seq.isNone && (match x.instr with | .atom .. | .atomc .. => true | _ => false),
          rel := relScope x.ord, log := if logged then rec0 else none, watch := wl, seq := seq }
      let site := if xl.host then c.site else siteOfPa xl.pa
      let s2 := s1.modDie site fun d => { d with det := d.det ++ [h] }
      let s3 := s2.modWarp c.key fun w => w.modThread t.lane fun u => { u with home := some none }
      s3.issueAll c x ts (r1.map fun r => r + 32 * watched.length)
    | .ok pl =>
      let old := leVal (s.homeBytes c n pl)
      let s1 := match strongNew x.instr x.ty old (x.val c t) (x.cmpVal c t) with
        | some v => s.homeWrite (leBytes n v.toNat) pl
        | none => s
      (s1.modWarp c.key fun w => w.modThread t.lane fun u => { u with home := some (some old) }).issueAll c x ts rec0

/-- Every access performed: results, counts of R341, the acquire, the end of the instruction; else the group waits where it
stands, its turn not ending (R181). -/
def State.strongFinish (s : State) (c0 : Cx) (x : Strong) (defines ends : Bool) : State :=
  let c := s.again c0
  let on := c.on x.pred
  if on.all fun t => t.home.any Option.isSome then
    let old (t : Thread) : W64 := ((t.home.bind id)).getD 0
    let res (t : Thread) : Val := mkVal x.ty (if c.off x.pred t then 0 else normBits x.ty (old t))
    let w1 := if defines then c.w.putAll c.iss res c.active else c.w
    let det := match x.instr with | .atom .. | .atomc .. => 1 | _ => 0
    let w2 := w1.mapActive fun t => { t.useExempt with home := none, detN := if c.off x.pred t then t.detN else t.detN + det }
    let s1 := match acqScope x.ord with
      | some sc => s.acquire c.iss.core sc
      | none => s
    s1.advance c w2 ends
  else s.stall

/-- A STRONG ACCESS of a group (R332-R336). Threads that have not issued are checked and issue together, with the phase
boundary of a write (R328); the instruction ends when every access has been performed. -/
def strong (s : State) (x : Strong) (defines ends : Bool) : Out :=
  withCx s fun c =>
    let need := (c.on x.pred).filter fun t => t.home.isNone
    if need.isEmpty then s.strongFinish c x defines ends
    else
      let s1 := s.walks c.iss.core c.w.asid (need.map fun t => (x.space, x.va c t, !x.isLoad))
      s1.memCheck c need x.space (x.events s1 c)
        (let lines := need.filterMap fun t =>
           match s1.place c.iss.core c.w.asid c.w.wg x.space (x.va c t) (tySpan x.ty) (!x.isLoad) with
           | .ok (.mem xl) => some xl.line
           | _ => none
         let pubs := if x.isLoad then s1.touchedOpen c lines else s1.openLines c
         let glob := x.space = .global
         let nw := if glob && !x.isLoad && s1.smpFor c.site c.w.asid = 1 then
             (need.map fun t => (s1.watchWords c.w.asid (x.va c t) (tySpan x.ty)).length).foldl (· + ·) 0 else 0
         match s1.warpReserve c pubs (if glob then need.length else 0) nw with
         | .error e => s1.takeEvent c e c.w.activeLanes
         | .ok (rp, ra, s2) =>
           let s3 := if x.isLoad then s2.earlyPublish c lines rp else s2.boundary c rp
           ((s3.issueAll c x need ra).performAll).strongFinish c x defines ends)

/-- R336 ldb. -/
def execLdb (ty : Ty) (ord : Ord) (sp : Space) (p : Pred) (addr : Opnd) (off : Option (BitVec 30)) (s : State) : Out :=
  strong s { instr := .ldb ty ord sp p addr off, ty := ty, space := sp, ord := ord, pred := p, addr := addr, off := off, v := none,
             cmp := none, atomic := false } true false
/-- R336 stb. -/
def execStb (ty : Ty) (ord : Ord) (sp : Space) (p : Pred) (addr v : Opnd) (off : Option (BitVec 30)) (s : State) : Out :=
  strong s { instr := .stb ty ord sp p addr v off, ty := ty, space := sp, ord := ord, pred := p, addr := addr, off := off, v := some v,
             cmp := none, atomic := false } false true
/-- R339 atom. -/
def execAtom (ty : Ty) (op : AtomOp) (sgn : Bool) (ord : Ord) (sp : Space) (p : Pred) (addr v : Opnd) (off : Option (BitVec 30))
    (s : State) : Out :=
  strong s { instr := .atom ty op sgn ord sp p addr v off, ty := ty, space := sp, ord := ord, pred := p, addr := addr, off := off,
             v := some v, cmp := none, atomic := true } true true
/-- R339 atomc. -/
def execAtomc (ty : Ty) (ord : Ord) (sp : Space) (p : Pred) (addr cmp new : Opnd) (off : Option (BitVec 30)) (s : State) : Out :=
  strong s { instr := .atomc ty ord sp p addr cmp new off, ty := ty, space := sp, ord := ord, pred := p, addr := addr, off := off,
             v := some new, cmp := some cmp, atomic := true } true true

/-- Buffered reductions of a slice (R342). -/
def Die.redsIn (d : Die) (sl : Nat) : Nat := (d.reds.filter fun r => !r.spilled && homeSlice r.pa = sl).length

/-- Room for the buffered reductions of some threads, each where it is stored: slice entries, then the context's overflow area (log 18). `acc`
holds the slices of those before it, none for the overflow area. -/
def State.redRoom (s : State) (asid : Nat) : List (Nat × Option Nat) → List Xlat → Bool
  | _, [] => true
  | acc, x :: xs =>
    let site := siteOfPa x.pa
    let sl := homeSlice x.pa
    let d := s.die site
    let len := ((d.ctx? asid).map fun c => (c.2.words.getD 16 0).toNat).getD 0
    if d.redsIn sl + acc.count (site, some sl) < 4096 then s.redRoom asid ((site, some sl) :: acc) xs
    else
      ((d.reds.filter fun r => r.spilled && r.asid = asid).length + acc.count (site, none) + 1) * 64 ≤ len &&
        s.redRoom asid ((site, none) :: acc) xs

def State.bufferRed (s : State) (c : Cx) (ty : Ty) (t : Thread) (x : Xlat) (v : W64) : State :=
  s.modDie (siteOfPa x.pa) fun d =>
    { d with reds := d.reds ++ [{ asid := c.w.asid, lseq := c.w.lseq, wid := t.wid.toNat, n := t.redN, pa := x.pa, ty := ty, v := v,
                                  dom := x.dom, nc := x.nc, spilled := 4096 ≤ d.redsIn (homeSlice x.pa) }] }

/-- R339 red, and R342: in a DET launch a ZPF-3 fadd to global space is buffered at its home. -/
def execRed (ty : Ty) (op : AtomOp) (sgn : Bool) (ord : Ord) (sp : Space) (p : Pred) (addr v : Opnd) (off : Option (BitVec 30))
    (s : State) : Out :=
  let x : Strong := { instr := .red ty op sgn ord sp p addr v off, ty := ty, space := sp, ord := ord, pred := p, addr := addr, off := off,
                      v := some v, cmp := none, atomic := true }
  match s.cx? with
  | none => .fault .noIssue
  | some c =>
    if op = .fadd && sp = .global && imageGen c.ws = 3 && s.detFlag c then
      let on := c.on p
      let s1 := s.walks c.iss.core c.w.asid (on.map fun t => (.global, x.va c t, true))
      .next (s1.memCheck c on .global
        (fun t => c.events s1 t false { space := .global, addr := x.va c t, n := (tySpan ty), align := (tySpan ty), read := true, write := true })
        (let xs := on.filterMap fun t =>
           match s1.place c.iss.core c.w.asid c.w.wg .global (x.va c t) (tySpan ty) true with
           | .ok (.mem xl) => some (t, xl)
           | _ => none
         let go (s2 : State) : State :=
           if !s2.redRoom c.w.asid [] (xs.map Prod.snd) then s2.stall
           else
             let s3 := xs.foldl (fun s e => s.bufferRed c ty e.1 e.2 (x.val c e.1)) s2
             let c3 := s3.again c
             s3.advance c3 (c3.w.mapActive fun t => { t with redN := if c.off p t then t.redN else t.redN + 1 }) true
         match relScope ord with
         | some sc => s1.withRelease c sc go
         | none => s1.withBoundary c go))
    else strong s x false true

/-! ## Fences and phases -/

/-- R337 fence. -/
def execFence (ord : FenceOrd) (sc : Scope) (s : State) : Out :=
  withCx s fun c =>
    match ord with
    | .acq => (s.acquire c.iss.core sc).advance c c.w true
    | .rel => s.withRelease c sc fun s1 => s1.advance (s1.again c) (s1.again c).w true
    | .acqrel => s.withRelease c sc fun s1 => (s1.acquire c.iss.core sc).advance (s1.again c) (s1.again c).w true

/-- R338 phase. -/
def execPhase (s : State) : Out :=
  withCx s fun c => s.withBoundary c fun s1 => s1.advance (s1.again c) (s1.again c).w true

end Sys2Proof.Machine
end

