-- ==== Sys2Proof/Machine/Collective.lean ====
section
/-! DEFINITION. Sys2Proof/Machine/Collective.lean: the collective instructions (R154-R158, R195) and the waits of masks
(R193): who takes part, what each receives, when a wait completes. -/

namespace Sys2Proof.Machine

open Sys2Proof

/-- A collective operand with its tag. -/
def Cx.cval (c : Cx) (ty : Ty) (t : Thread) (o : Opnd) : Val := if ty = tyDyn then c.val ty t o else mkVal ty (c.rd ty t o)

/-- The source lane of R155. -/
def shflSource (mode : ShflMode) (seg lane sel : Nat) : Nat :=
  let S := 128 >>> seg
  let l0 := lane - lane % S
  match mode with
  | .idx => l0 + sel % S
  | .up => if l0 + sel ≤ lane then lane - sel else lane
  | .down => if lane + sel < l0 + S then lane + sel else lane
  | .xor => l0 + ((lane - l0) ^^^ (sel % S))

/-- One combination of R157 on elements. -/
def scanElem (op : ScanOp) (sgn : Bool) (t : Ty) (a b : Nat) : Nat :=
  match op with
  | .add => wrapInt t.width (a + b : Int)
  | .min => intBin sgn false t.width (fun x y => if x ≤ y then x else y) a b
  | .max => intBin sgn false t.width (fun x y => if x ≤ y then y else x) a b
  | .and => a &&& b
  | .or => a ||| b
  | .xor => a ^^^ b
  | .fadd => fround t.fmt false false ((fdec t.fmt a).add (fdec t.fmt b))
  | .fmin => fminElem t.fmt a b
  | .fmax => fmaxElem t.fmt a b

/-- The identity of R157. -/
def scanIdent (op : ScanOp) (sgn : Bool) (t : Ty) : Nat :=
  match op with
  | .add | .or | .xor | .fadd => 0
  | .min => wrapInt t.width (maxInt sgn t.width)
  | .max => wrapInt t.width (minInt sgn t.width)
  | .and => 2 ^ t.width - 1
  | .fmin => if (ffOf t.fmt).hasInf then (ffOf t.fmt).infCode else (ffOf t.fmt).qnan
  | .fmax => if (ffOf t.fmt).hasInf then (ffOf t.fmt).signed true (ffOf t.fmt).infCode else (ffOf t.fmt).qnan

/-- ScanValue of R157 for the values of the participants before one (and of it, where inclusive), in lane order. -/
def scanFold (op : ScanOp) (sgn : Bool) (t : Ty) : List W64 → W64
  | [] => packElems t (List.replicate t.count (scanIdent op sgn t))
  | x :: xs => xs.foldl (fun acc v => map2 t (scanElem op sgn t) acc v) x

/-- One level of the tree of R158. -/
def treeLevel (f : W64 → W64 → W64) : List (Option W64) → List (Option W64)
  | u :: v :: r =>
    (match u, v with
     | none, y => y
     | x, none => x
     | some x, some y => some (f x y)) :: treeLevel f r
  | r => r

def treeRoot (f : W64 → W64 → W64) : Nat → List (Option W64) → List (Option W64)
  | 0, l => l
  | n + 1, l => treeRoot f n (treeLevel f l)

/-- WredFadd of R158 over the values by lane. -/
def wredTree (f : W64 → W64 → W64) (vals : List (Nat × W64)) : W64 :=
  let leaves := (List.range 128).map fun l => (vals.find? fun p => p.1 = l).map Prod.snd
  ((treeRoot f 7 leaves).headD none).getD 0

/-- The common type of the participants' operands for `scan` and `wred`: with dyn all must carry one accepted tag. -/
def scanType (ty : Ty) (vs : List Val) : Option Ty := if ty = tyDyn then commonTag Ty.float vs else some ty

/-- The result of a collective in one participant (R154-R158, R195), from all participants in lane order. A `dyn` value of tag 0 (R139) travels
through `shfl` and `bcast` without FORMAT (log 25). -/
def collVal (c : Cx) (i : Instr) (ps : List Thread) (t : Thread) : Except EvInfo Val :=
  match i with
  | .shfl ty mode seg x sel _ =>
    let src := shflSource mode seg.val t.lane (c.rd32 t sel)
    .ok (c.cval ty ((ps.find? fun u => u.lane = src).getD t) x)
  | .bcast ty x src _ =>
    let low := ps.headD t
    let L := c.rd32 low src % 128
    .ok (c.cval ty ((ps.find? fun u => u.lane = L).getD low) x)
  | .bcastFirst ty x _ => .ok (c.cval ty (ps.headD t) x)
  | .scan ty op sgn excl x _ =>
    match scanType ty (ps.map fun u => c.cval ty u x) with
    | none => .error evFmt
    | some u =>
      let before := ps.filter fun v => if excl then v.lane < t.lane else v.lane ≤ t.lane
      .ok (mkVal u (scanFold op sgn u (before.map fun v => c.rd u v x)))
  | .wred ty op sgn x _ =>
    match scanType ty (ps.map fun u => c.cval ty u x) with
    | none => .error evFmt
    | some u =>
      if op = .fadd then .ok (mkVal u (wredTree (map2 u (scanElem op sgn u)) (ps.map fun v => (v.lane, c.rd u v x))))
      else .ok (mkVal u (scanFold op sgn u (ps.map fun v => c.rd u v x)))
  | .vote mode x _ =>
    let bs := ps.map fun u => c.rdP u x
    .ok (mkVal tyP (boolBits (match mode with
      | .any => bs.any id
      | .all => bs.all id
      | .uni => bs.all id || !bs.any id)))
  | .voteBallot x h _ =>
    .ok (mkVal tyB64 (BitVec.ofNat 64 ((ps.filter fun u => c.rdP u x && u.lane / 64 = h.val).foldl (fun r u => r ||| 2 ^ (u.lane % 64)) 0)))
  | _ => .ok {}

/-! ## Completion of waits -/

/-- The members of a mask (R191). -/
def Warp.members (w : Warp) (k : Fin 12) : List Thread := w.threads.filter fun t => t.live && laneIn (w.mask k) t.lane

def Wait.onMask (k : Fin 12) : Wait → Bool
  | .mask j => j = k
  | .coll j _ _ => j = k
  | _ => false

def Wait.isMask : Wait → Bool
  | .mask _ => true
  | _ => false

/-- When the groups of some threads last held the turn (R181): the latest of them. -/
def Warp.stampOf (w : Warp) (pick : Thread → Bool) : Nat :=
  ((w.threads.filter fun t => t.live && pick t).map fun t => w.stamps.get 0 t.grp).foldl Nat.max 0

/-- Threads leave a wait together as one path group (R193) and stand at the next instruction. A new group has waited since the last of its
threads held the turn (R181; log 19); native threads whose engines stand at different bundles divide (R178). -/
def Warp.release (cycle : Nat) (lanes : List Nat) (w : Warp) : Warp :=
  let keep := w.threads.any fun t => lanes.contains t.lane && t.grp = w.turn
  let g := if keep then w.turn else w.nextGrp
  let w1 : Warp :=
    { w with
      nextGrp := if keep then w.nextGrp else w.nextGrp + 1
      stamps := if keep then w.stamps else w.stamps.set w.nextGrp (w.stampOf fun t => lanes.contains t.lane)
      threads := w.threads.map fun t =>
        if lanes.contains t.lane then
          { t with wait := .none, grp := g, pc := { t.pc with pix := t.pc.pix + 1 } }
        else t }
  (w1.divideGroup g).fixTurn cycle

/-- After a change of membership or an arrival: a wait on mask k whose members all stand at one instruction completes
(R154, R193); members at different `waitm` raise MASK_MISUSE in every one of them. -/
def State.settleMask (s : State) (key : Nat) (k : Fin 12) : State :=
  match s.warps.get? key with
  | none => s
  | some w =>
    let ms := w.members k
    if w.event.isSome || ms.isEmpty || !ms.all (fun t => t.wait.onMask k) then s
    else
      let t0 := ms.headD { lane := 0 }
      let lanes := ms.map Thread.lane
      if ms.all fun t => t.pc = t0.pc && t.wait = t0.wait then
        match t0.wait with
        | .coll _ iss i =>
          let c : Cx := s.cxFor iss w
          match firstEvent (fun t => match collVal c i ms t with | .error e => some e | .ok _ => none) ms with
          | some (e, ls) => s.raiseIn key e ls lanes
          | none =>
            let w1 := w.putAll iss (fun t => match collVal c i ms t with | .ok v => v | .error _ => {}) ms
            s.setWarp key (w1.release s.cycle lanes)
        | _ => s.setWarp key (w.release s.cycle lanes)
      else if ms.all fun t => t.wait.isMask then s.raiseIn key { code := evMaskMisuse, qual := k.val } lanes lanes
      else s

def allMasks : List (Fin 12) := [0, 1, 2, 3, 4, 5, 6, 7, 8, 9, 10, 11]

/-- Every mask of a warp is looked at. -/
def State.settleMasks (s : State) (key : Nat) : State := allMasks.foldl (fun s k => s.settleMask key k) s

/-- The turn ends where the turn-holding group waits. -/
def State.endIfWaiting (s : State) (key : Nat) : State :=
  s.modWarp key fun w => if w.event.isNone && !w.ready w.turn then w.endTurn s.cycle else w

/-- Arrival at `waitm` or a collective (R154, R193): a non-member raises MASK_MISUSE before any effect; the members wait,
and the wait may be met at once. -/
def arriveMask (k : Fin 12) (wait : Issue → Wait) (s : State) : Out :=
  withCx s fun c =>
    s.precise c (fun t => if laneIn (c.w.mask k) t.lane then none else some { code := evMaskMisuse, qual := k.val })
      ((({ s.setWarp c.key (c.w.mapActive fun t => { t with wait := wait c.iss }) with issue := none }).settleMask c.key k).endIfWaiting c.key)

/-! ## The instructions -/

/-- R155 shfl. -/
def execShfl (ty : Ty) (mode : ShflMode) (seg : Fin 7) (x sel : Opnd) (k : Fin 12) (s : State) : Out :=
  arriveMask k (fun i => .coll k i (.shfl ty mode seg x sel k)) s
/-- R156 bcast. -/
def execBcast (ty : Ty) (x src : Opnd) (k : Fin 12) (s : State) : Out :=
  arriveMask k (fun i => .coll k i (.bcast ty x src k)) s
/-- R156 bcast.first. -/
def execBcastFirst (ty : Ty) (x : Opnd) (k : Fin 12) (s : State) : Out :=
  arriveMask k (fun i => .coll k i (.bcastFirst ty x k)) s
/-- R157 scan. -/
def execScan (ty : Ty) (op : ScanOp) (sgn excl : Bool) (x : Opnd) (k : Fin 12) (s : State) : Out :=
  arriveMask k (fun i => .coll k i (.scan ty op sgn excl x k)) s
/-- R158 wred. -/
def execWred (ty : Ty) (op : ScanOp) (sgn : Bool) (x : Opnd) (k : Fin 12) (s : State) : Out :=
  arriveMask k (fun i => .coll k i (.wred ty op sgn x k)) s
/-- R195 vote. -/
def execVote (mode : VoteMode) (x : Opnd) (k : Fin 12) (s : State) : Out :=
  arriveMask k (fun i => .coll k i (.vote mode x k)) s
/-- R195 vote.ballot. -/
def execVoteBallot (x : Opnd) (h : Fin 2) (k : Fin 12) (s : State) : Out :=
  arriveMask k (fun i => .coll k i (.voteBallot x h k)) s
/-- R193 waitm. -/
def execWaitm (k : Fin 12) (s : State) : Out := arriveMask k (fun _ => .mask k) s

end Sys2Proof.Machine
end

