-- ==== Sys2Proof/Machine/Sync.lean ====
section
/-! DEFINITION. Sys2Proof/Machine/Sync.lean: barrier owners and named barriers (R345-R347), the gang barrier (R371),
convergence registers (R197, R198), and what the going of threads does to each of them (R188, R193, R347). -/

namespace Sys2Proof.Machine

open Sys2Proof

/-! ## Owners -/

/-- Workgroups that share a barrier owner or a gang: the gang's members, else the workgroup alone (R345). -/
def State.ownerWgs (s : State) (wgk : Nat) : List Nat :=
  let g := s.wg wgk
  if g.isGang then
    match (g.group.bind fun m => (s.cluster (clusterOf (wgk / 16))).groups.get? m.1) with
    | some e => e.members.map Prod.snd
    | none => [wgk]
  else [wgk]

/-- Warps of some workgroups. -/
def State.warpsOf (s : State) (wgs : List Nat) : List (Nat × Warp) := s.warps.filter fun p => wgs.contains p.2.wg

/-- A logical thread of an owner: member and `%warp`, lane. -/
def threadName (w : Warp) (t : Thread) : Nat × Nat := (w.gmember * 16 + w.widx, t.lane)

def State.liveNames (s : State) (wgs : List Nat) : List (Nat × Nat) :=
  ((s.warpsOf wgs).map fun p => (p.2.threads.filter Thread.live).map (threadName p.2)).flatten

/-! ## Releasing waiters -/

/-- The lanes of a warp are released together: those of one group that stay behind keep its number (R179). -/
def Warp.freeLanes (cycle : Nat) (pick : Thread → Bool) (w : Warp) : Warp :=
  let gs := (w.threads.filter fun t => t.live && pick t).map Thread.grp
  let whole (g : Nat) : Bool := w.threads.all fun t => !(t.live && t.grp = g) || pick t
  let w1 : Warp :=
    { w with
      nextGrp := w.nextGrp + 128
      stamps := gs.foldl (fun st g => if whole g then st else st.set (w.nextGrp + gs.findIdx (· = g)) (w.stamps.get 0 g)) w.stamps
      threads := w.threads.map fun t =>
        if t.live && pick t then
          { t with wait := .none, ck := { t.ck with wait := .none }, grp := if whole t.grp then t.grp else w.nextGrp + (gs.findIdx (· = t.grp)) }
        else t }
  { w1 with hangBase := cycle }.fixTurn cycle

/-- Release every thread of some warps that `pick` chooses; their cores acquire at the scopes given (R348). -/
def State.freeWaiters (s : State) (wgs : List Nat) (pick : Thread → Bool) : State :=
  (s.warpsOf wgs).foldl (fun s p =>
    let ts := p.2.threads.filter fun t => t.live && pick t
    if ts.isEmpty then s
    else
      let acq := ts.any fun t => match t.wait with | .barrier _ _ (some sc) => sc != .core | _ => false
      let s1 := s.modWarp p.1 (Warp.freeLanes s.cycle pick)
      if acq then s1.acquire (p.1 / 16) .cluster else s1) s

/-! ## Named barriers -/

def State.nbar (s : State) (cl phys : Nat) : NBar := (s.cluster cl).nbs.get {} phys
def State.setNbar (s : State) (cl phys : Nat) (b : NBar) : State := s.modCluster cl fun c => { c with nbs := c.nbs.set phys b }

/-- The physical barrier of a name (R345). -/
def State.nbOf (s : State) (wgk : Nat) (name : Nat) : Nat := (s.wg wgk).nbs.get 0 name

def waitsOn (phys gen : Nat) (t : Thread) : Bool :=
  match t.wait with
  | .barrier p g _ => p = phys && g = gen
  | _ => false

/-- Complete of R346. -/
def State.nbComplete (s : State) (cl phys : Nat) (wgs : List Nat) : State :=
  let b := s.nbar cl phys
  (s.setNbar cl phys { b with gen := (b.gen + 1) % 65536, arr := 0, cnt := none, all := false, arrived := [] }).freeWaiters wgs (waitsOn phys b.gen)

/-- Arrive of R346: none is BARRIER_MISMATCH; else the thread's generation. `cnt` none is All. -/
def State.arrive (s : State) (cl phys : Nat) (wgs : List Nat) (name : Nat × Nat) (cnt : Option Nat) : Option (Nat × State) :=
  let b := s.nbar cl phys
  let bad (c : Option Nat) : Bool := c.any fun n => n = 0 || 262144 < n
  let opened : Option NBar :=
    if bad cnt then none
    else
      match b.cnt, cnt with
      | none, none => some { b with cnt := some (s.liveNames wgs).length, all := true }
      | none, some n => some { b with cnt := some n, all := false }
      | some _, none => if b.all then some b else none
      | some m, some n => if !b.all && m = n then some b else none
  opened.map fun b1 =>
    let b2 := { b1 with arr := b1.arr + 1, arrived := name :: b1.arrived }
    let s1 := s.setNbar cl phys b2
    (b.gen, if b2.cnt = some b2.arr then s1.nbComplete cl phys wgs else s1)

/-- The generation is abandoned: its waiters stop with BARRIER_ORPHAN at their wait (R347). -/
def State.nbAbandon (s : State) (cl phys name : Nat) (wgs : List Nat) : State :=
  let b := s.nbar cl phys
  let s1 := s.setNbar cl phys { b with abg := b.gen, abv := true, gen := (b.gen + 1) % 65536, arr := 0, cnt := none, all := false, arrived := [] }
  (s1.warpsOf wgs).foldl (fun s p =>
    let ls := (p.2.threads.filter fun t => t.live && waitsOn phys b.gen t).map Thread.lane
    if ls.isEmpty || p.2.event.isSome then s else s.raiseIn p.1 { code := evBarrierOrphan, qual := name } ls ls) s1

/-- A barrier is looked at after threads of its owner have gone (R347). -/
def State.nbGone (s : State) (cl : Nat) (wgs : List Nat) (gone : List (Nat × Nat)) (nb : Nat × Nat) : State :=
  let b := s.nbar cl nb.2
  match b.cnt with
  | none => s
  | some n =>
    if b.all then
      let n' := n - (gone.filter fun t => !b.arrived.contains t).length
      let s1 := s.setNbar cl nb.2 { b with cnt := some n' }
      if n' = b.arr then s1.nbComplete cl nb.2 wgs else s1
    else if ((s.liveNames wgs).filter fun t => !b.arrived.contains t).length < n - b.arr then s.nbAbandon cl nb.2 nb.1 wgs
    else s

/-! ## The gang barrier (R371) -/

def waitsGang (gen : Nat) (t : Thread) : Bool :=
  match t.wait with
  | .gang g => g = gen
  | _ => false

/-- The generation completes when every live thread of the gang has arrived. -/
def State.gangCheck (s : State) (wgk : Nat) : State :=
  let wgs := s.ownerWgs wgk
  let gen := (s.wg wgk).gangGen
  let live := ((s.warpsOf wgs).map fun p => p.2.threads.filter Thread.live).flatten
  if !live.isEmpty && live.all (waitsGang gen) then
    (wgs.foldl (fun s k => s.modWg k fun g => { g with gangGen := gen + 1 }) s).freeWaiters wgs (waitsGang gen)
  else s

/-! ## Convergence registers (R198) -/

def State.cv (s : State) (core phys : Nat) : CvReg := (s.core core).cvs.get {} phys
def State.setCv (s : State) (core phys : Nat) (v : CvReg) : State := s.modCore core fun k => { k with cvs := k.cvs.set phys v }
def State.cvOf (s : State) (wgk : Nat) (name : Nat) : Nat := (s.wg wgk).cvs.get 0 name

/-- A thread of a workgroup as a convergence register numbers it. -/
def cvName (w : Warp) (t : Thread) : Nat := w.widx * 128 + t.lane

inductive CvAct where
  | done (v : CvReg)
  | wait
  | mismatch
  deriving DecidableEq, Repr

/-- `sign` by one thread. -/
def CvReg.sign (v : CvReg) (t : Nat) : CvAct :=
  match v.state with
  | .idle | .broken => .mismatch
  | .ready => .wait
  | .open_ =>
    if v.signed.contains t then .mismatch
    else .done { v with signed := t :: v.signed, sig := v.sig + 1, state := if v.sig + 1 = v.cnt then .ready else .open_ }

/-- `cvset n` (R198). -/
def CvReg.set (v : CvReg) (n : Nat) : CvAct :=
  match v.state with
  | .idle => .done { v with state := .open_, cnt := n, sig := 0, signed := [] }
  | .open_ => if n = v.cnt || v.sig = 0 then .done { v with cnt := n } else .mismatch
  | .ready => if n = v.cnt then .done v else .mismatch
  | .broken => .mismatch

/-- Threads that wait to sign a register sign in the next generation, in slot and lane order, while it is OPEN. Each commits as its signature
counts; the group goes on when its last thread has signed. -/
def State.signWaiters (s : State) (core phys : Nat) : List (Nat × Nat) → State
  | [] => s
  | (key, lane) :: r =>
    match s.warps.get? key with
    | none => s.signWaiters core phys r
    | some w =>
      match w.thread? lane with
      | none => s.signWaiters core phys r
      | some t =>
        match (s.cv core phys).sign (cvName w t) with
        | .done v =>
          let w1 := w.modThread lane (Thread.commitPast (s.flip (key / 16) w))
          let mine (u : Thread) : Bool := u.live && u.grp = t.grp
          let all := w1.threads.all fun u => !mine u || u.wait = .none
          let w2 : Warp :=
            { w1 with threads := if all then w1.threads.map fun u => if mine u then { u with pc := { u.pc with pix := u.pc.pix + 1 } } else u else w1.threads
                      ccnt := w1.ccnt + 1, hangBase := s.cycle }
          ((s.setCv core phys v).setWarp key (w2.fixTurn s.cycle)).signWaiters core phys r
        | .wait => s
        | .mismatch => (s.raiseIn key { code := evConvergenceMismatch, qual := (s.cv core phys).name } [lane] [lane]).signWaiters core phys r

def waitsSign (phys : Nat) (t : Thread) : Bool :=
  match t.wait with
  | .sign p => p = phys
  | _ => false

/-- Consume of R198, and the signatures of those that waited. -/
def State.cvConsume (s : State) (core phys : Nat) : State :=
  let v := s.cv core phys
  let s1 := s.setCv core phys { v with state := .open_, gen := (v.gen + 1) % 65536, sig := 0, signed := [] }
  let ws := s1.warps.filter fun p => p.1 / 16 = core
  s1.signWaiters core phys ((ws.map fun p => (p.2.threads.filter fun t => t.live && waitsSign phys t).map fun t => (p.1, t.lane)).flatten)

/-- An OPEN register that can no longer be signed is BROKEN. -/
def State.cvGone (s : State) (core wgk : Nat) (cv : Nat × Nat) : State :=
  let v := s.cv core cv.2
  let live := ((s.warpsOf [wgk]).map fun p => (p.2.threads.filter Thread.live).map (cvName p.2)).flatten
  if v.state = .open_ && (live.filter fun t => !v.signed.contains t).length < v.cnt - v.sig then s.setCv core cv.2 { v with state := .broken }
  else s

/-! ## The going of threads and warps (R188) -/

/-- A warp without live threads frees its slot; a workgroup without warps has ended and awaits release (R288). -/
def State.endWarp (s : State) (key : Nat) : State :=
  match s.warps.get? key with
  | none => s
  | some w =>
    let s1 := { s with warps := s.warps.del key }
    let s2 := s1.modCore (key / 16) fun k => { k with scrubSlots := k.scrubSlots ++ [key % 16] }
    s2.modWg w.wg fun g =>
      let ws := g.warps.filter (· ≠ key)
      { g with warps := ws, ended := g.ended || ws.isEmpty }

/-- Some threads of a warp have gone for good: masks, barriers, gang and convergence counts (R188, R193, R198, R347, R371). -/
def State.threadsGone (s : State) (key : Nat) (lanes : List Nat) : State :=
  match s.warps.get? key with
  | none => s
  | some w =>
    let gone := (w.threads.filter fun t => t.live && lanes.contains t.lane).map (threadName w)
    let w1 : Warp :=
      { w with
        threads := w.threads.map fun t => if lanes.contains t.lane then { t with live := false } else t
        masks := w.masks.map fun m => m &&& ~~~(lanesOf lanes) }
    let s1 := (s.setWarp key w1).settleMasks key
    let cl := clusterOf (key / 16)
    let g := s1.wg w.wg
    let wgs := s1.ownerWgs w.wg
    let s2 := g.nbs.foldl (fun s nb => s.nbGone cl wgs gone nb) s1
    let s3 := g.cvs.foldl (fun s cv => s.cvGone (key / 16) w.wg cv) s2
    let s4 := s3.gangCheck w.wg
    match s4.warps.get? key with
    | none => s4
    | some w4 => if w4.threads.any Thread.live then s4.modWarp key fun w => w.fixTurn s.cycle else s4.endWarp key

end Sys2Proof.Machine
end

