-- ==== Sys2Proof/Machine/Barrier.lean ====
section
/-! DEFINITION. Sys2Proof/Machine/Barrier.lean: named barriers 0x90-0x93 and 0x97 (R348), sleeping and waiting on a flag (R201,
R202), convergence 0x7C-0x7D (R199) and the gang barrier 0x7E (R371). -/

namespace Sys2Proof.Machine

open Sys2Proof

/-! ## Named barriers -/

/-- The threads of a group arrive one by one in lane order (R346): the generation of each, none where it mismatched. -/
def State.arriveAll (s : State) (cl phys : Nat) (wgs : List Nat) (w : Warp) (cnt : Thread → Option Nat) :
    List Thread → List (Nat × Option Nat) → State × List (Nat × Option Nat)
  | [], acc => (s, acc)
  | t :: ts, acc =>
    match s.arrive cl phys wgs (threadName w t) (cnt t) with
    | none => s.arriveAll cl phys wgs w cnt ts (acc ++ [(t.lane, none)])
    | some (g, s1) => s1.arriveAll cl phys wgs w cnt ts (acc ++ [(t.lane, some g)])

def genOf (gs : List (Nat × Option Nat)) (lane : Nat) : Option Nat := (gs.find? fun p => p.1 = lane).bind Prod.snd

/-- ARRIVAL of a group at a named barrier (R346, R348). Threads that arrived commit the next region, where those wait whose
generation has not completed; mismatching threads stop at the instruction with BARRIER_MISMATCH. -/
def State.barArrive (s : State) (c : Cx) (nb : Nat) (cnt : Thread → Option Nat) (waits : Bool) (acq : Option Scope)
    (result : Option (Nat → Val)) : State :=
  let cl := clusterOf c.iss.core
  let phys := s.nbOf c.w.wg nb
  let wgs := s.ownerWgs c.w.wg
  let (s1, gs) := s.arriveAll cl phys wgs c.w cnt c.active []
  let now := (s1.nbar cl phys).gen
  let w := (s1.warps.get? c.key).getD c.w
  let bad := (c.active.filter fun t => (genOf gs t.lane).isNone).map Thread.lane
  let step (t : Thread) : Thread :=
    match genOf gs t.lane with
    | none => t
    | some g =>
      let t1 := { t with pc := { t.pc with pix := t.pc.pix + 1 }, wait := if waits && g = now then .barrier phys g acq else .none }
      t1.commit c.flip
  let w1 : Warp := match result with
    | some r => (c.active.filter fun t => (genOf gs t.lane).isSome).foldl (fun (w : Warp) (t : Thread) => w.put c.iss t.lane (r ((genOf gs t.lane).getD 0))) w
    | none => w
  let lanes := c.w.activeLanes
  let w2 : Warp := { w1 with threads := w1.threads.map fun t => if t.live && lanes.contains t.lane then step t else t
                             ccnt := w1.ccnt + 1, hangBase := s.cycle }
  -- threads released while others of the group wait stand apart (R179), as do those that mismatched
  let go := (w2.threads.filter fun t => lanes.contains t.lane && !bad.contains t.lane && t.wait = .none).map Thread.lane
  let stay := (w2.threads.filter fun t => lanes.contains t.lane && !bad.contains t.lane && t.wait ≠ .none).map Thread.lane
  let w3 := if stay.isEmpty || (go.isEmpty && bad.isEmpty) then w2 else w2.split stay
  let w4 := if bad.isEmpty || go.isEmpty then w3 else w3.split go
  let w5 := if w4.ready w4.turn then w4.mergeAt else w4.endTurn s.cycle
  let s2 := { s1.setWarp c.key w5 with issue := none }
  let s3 := match acq with
    | some sc => if go.isEmpty then s2 else s2.acquire c.iss.core sc
    | none => s2
  if bad.isEmpty then s3 else s3.raiseIn c.key { code := evBarrierMismatch, qual := nb } bad bad

def Cx.cnt (c : Cx) (o : Option Opnd) (t : Thread) : Option Nat := o.map fun x => c.rd32 t x

/-- R348 barv. -/
def execBarv (nb : Fin 64) (cnt : Option Opnd) (s : State) : Out :=
  withCx s fun c => s.withBoundary c fun s1 => s1.barArrive (s1.again c) nb.val (c.cnt cnt) true none none

/-- R348 bars. -/
def execBars (nb : Fin 64) (cnt : Option Opnd) (s : State) : Out :=
  withCx s fun c => s.withBoundary c fun s1 =>
    s1.barArrive (s1.again c) nb.val (c.cnt cnt) false none (some fun g => mkVal tyB32 (BitVec.ofNat 64 g))

/-- R348 bmem. -/
def execBmem (sc : Scope) (nb : Fin 64) (cnt : Option Opnd) (s : State) : Out :=
  withCx s fun c => s.withRelease c sc fun s1 => s1.barArrive (s1.again c) nb.val (c.cnt cnt) true (some sc) none

/-- R348 barw. -/
def execBarw (nb : Fin 64) (g : Opnd) (s : State) : Out :=
  withCx s fun c =>
    let phys := s.nbOf c.w.wg nb.val
    let b := s.nbar (clusterOf c.iss.core) phys
    let tok (t : Thread) : Nat := c.rd32 t g % 65536
    s.precise c (fun t => if b.abv && tok t = b.abg then some { code := evBarrierOrphan, qual := nb.val } else none)
      (s.withBoundary c fun s1 =>
        let c1 := s1.again c
        let w1 : Warp := { c1.w.mapActive fun t =>
            let t1 : Thread := { t with pc := { t.pc with pix := t.pc.pix + 1 }, wait := if tok t = b.gen then .barrier phys b.gen none else .none }
            t1.commit c.flip with ccnt := c1.w.ccnt + 1, hangBase := s.cycle }
        let stay := (w1.active.filter fun t => t.wait ≠ .none).map Thread.lane
        let w2 := if stay.isEmpty || stay.length = w1.active.length then w1 else w1.split stay
        let w3 := if w2.ready w2.turn then w2.mergeAt else w2.endTurn s.cycle
        { s1.setWarp c.key w3 with issue := none })

/-- R348 bcnt. -/
def execBcnt (nb : Fin 64) (s : State) : Out :=
  withCx s fun c =>
    let b := s.nbar (clusterOf c.iss.core) (s.nbOf c.w.wg nb.val)
    let v := b.gen * 2 ^ 48 + (if b.all then 2 ^ 47 else 0) + b.cnt.getD 0 * 2 ^ 19 + b.arr
    s.advance c (c.w.putAll c.iss (fun _ => mkVal tyB64 (BitVec.ofNat 64 v)) c.active) false

/-! ## The gang barrier -/

/-- R371 gsync: the threads arrive, and wait at the head of the next region. -/
def execGsync (s : State) : Out :=
  withCx s fun c => s.withBoundary c fun s1 =>
    let c1 := s1.again c
    let gen := (s1.wg c.w.wg).gangGen
    let w1 : Warp := { c1.w.mapActive fun t => ({ t with pc := { t.pc with pix := t.pc.pix + 1 }, wait := .gang gen } : Thread).commit c.flip with
      ccnt := c1.w.ccnt + 1, hangBase := s.cycle }
    let s2 := ({ s1.setWarp c.key w1 with issue := none }).gangCheck c.w.wg
    s2.modWarp c.key fun w => if w.ready w.turn then w else w.endTurn s.cycle

/-! ## Convergence -/

/-- The signatures of a group, one by one in lane order (R198): the lanes that must wait, or those that mismatch. -/
def signGo (w : Warp) : CvReg → List Thread → List Nat → CvReg × List Nat × List Nat
  | v, [], waits => (v, waits, [])
  | v, t :: ts, waits =>
    match v.sign (cvName w t) with
    | .done v1 => signGo w v1 ts waits
    | .wait => signGo w v ts (waits ++ [t.lane])
    | .mismatch =>
      let r := signGo w v ts waits
      (r.1, r.2.1, t.lane :: r.2.2)

/-- Whether some thread of the group would have to wait to sign. -/
def State.signWaits (s : State) (core : Nat) (w : Warp) (cv : Fin 16) : Bool :=
  !((signGo w (s.cv core (s.cvOf w.wg cv.val)) w.active []).2.1.isEmpty)

/-- R199 sign. A group whose signers all signed ends its region; else the others wait until the generation is consumed, while each that has
signed commits, so that no restart signs it again. -/
def execSign (cv : Fin 16) (s : State) : Out :=
  withCx s fun c =>
    let phys := s.cvOf c.w.wg cv.val
    let (v, waits, bad) := signGo c.w (s.cv c.iss.core phys) c.active []
    if !bad.isEmpty then s.takeEvent c { code := evConvergenceMismatch, qual := cv.val } bad
    else s.withBoundary c fun s1 =>
      let c1 := s1.again c
      let s2 := s1.setCv c.iss.core phys v
      if waits.isEmpty then s2.advance c1 c1.w true
      else
        let w1 := c1.w.mapActive fun t => if waits.contains t.lane then { t with wait := .sign phys } else t.commitPast c.flip
        let w2 : Warp := if waits.length = c.active.length then w1 else { w1 with ccnt := w1.ccnt + 1, hangBase := s.cycle }
        { s2.setWarp c.key (w2.endTurn s.cycle) with issue := none }

/-- R199 cvset. -/
def execCvset (cv : Fin 16) (n : Opnd) (s : State) : Out :=
  withCx s fun c =>
    let phys := s.cvOf c.w.wg cv.val
    let n0 := c.rd32 c.lead n
    let mism : EvInfo := { code := evConvergenceMismatch, qual := cv.val }
    let out (t : Thread) : Bool := c.rd32 t n = 0 || 2048 < c.rd32 t n
    if c.active.any out then s.takeEvent c mism ((c.active.filter out).map Thread.lane)
    else if c.active.any fun t => c.rd32 t n ≠ n0 then s.takeEvent c mism c.w.activeLanes
    else
      match (s.cv c.iss.core phys).set n0 with
      | .done v => (s.setCv c.iss.core phys v).advance c c.w false
      | _ => s.takeEvent c mism c.w.activeLanes

/-! ## Sleeping and flags -/

/-- R201 sleep: the largest value of the group counts; 0 has no effect. -/
def execSleep (val : Bool) (n : Opnd) (s : State) : Out :=
  withCx s fun c =>
    let v (t : Thread) : Nat := if val then Nat.min (c.rd32 t n) 1048575 else c.rd32 t n % 2 ^ 20
    let m := (c.active.map v).foldl Nat.max 0
    if m = 0 then s.advance c c.w false
    else
      (s.advance c (c.w.mapActive fun t => { t with wait := .sleep (s.cycle + m) }) false).modWarp c.key fun w => w.endTurn s.cycle

/-- The lines that some threads poll. -/
def State.pollLines (s : State) (c : Cx) (ty : Ty) (addr : Opnd) (ts : List Thread) : List PLine :=
  ts.filterMap fun t => match s.place c.iss.core c.w.asid c.w.wg .global (c.addr t addr none) ty.bytes false with
    | .ok (.mem x) => some x.line
    | _ => none

/-- What the warp holds of the lines that it polls is published first (R333): the event that the log's want of room raises, or the state. -/
def State.pollPublish (s : State) (c : Cx) (ls : List PLine) : Except EvInfo State :=
  (s.warpReserve c (s.touchedOpen c ls) 0 0).map fun p => p.2.2.earlyPublish c ls p.1

/-- One poll of a waiting thread (R202): the word at its home, where no publication of the warp's own or log holds it back. -/
def State.poll (s : State) (c : Cx) (ty : Ty) (cond : Cond) (sgn : Bool) (addr v : Opnd) (t : Thread) : Option (W64 × State) :=
  match s.place c.iss.core c.w.asid c.w.wg .global (c.addr t addr none) ty.bytes false with
  | .ok (.mem x) =>
    let w := leVal (s.homeBytes c ty.bytes (.mem x))
    if (s.core c.iss.core).hold.any fun e => e.owner = c.w.name && e.pl = x.line then none
    else if condHolds cond (readInt sgn ty.width w.toNat) (readInt sgn ty.width (c.rd ty t v).toNat) then
      let s1 := s.homeRead (lineOf x.pa) x.dom x.nc
      match s.logMode c.site c.w.asid c.w.lseq with
      | 1 =>
        match s1.reserve c.site 1 with
        | none => none
        | some (pa, s2) =>
          let (q, s3) := s2.takeSeq x.pa
          some (w, s3.logRec c.site (some pa) 0x11 c.w.lseq c.w.tidx (recLine x.pa t.lane) (recAcc c.w.widx x.pa q))
      | 2 =>
        match s.threadRec c.site 0x11 c.w.lseq c.w.tidx c.w.widx (some t.lane) with
        | none => some (w, s1.diverge c.site c.w.lseq c.w.tidx)
        | some (pa, r) =>
          if field (r.getD 3 0).toNat 0 48 = (s.die (siteOfPa x.pa)).sliceSeq.get 0 (homeSlice x.pa) then
            let (_, s2) := s1.takeSeq x.pa
            some (w, (s2.consume c.site pa).performAll)
          else none
      | _ => some (w, s1)
    else none
  | _ => none

/-- Poll every thread that waits at the instruction; those that complete hold their word. -/
def State.pollAll (s : State) (c : Cx) (ty : Ty) (cond : Cond) (sgn : Bool) (addr v : Opnd) : List Thread → State
  | [] => s
  | t :: ts =>
    match t.wait with
    | .flag none _ _ =>
      (match s.poll c ty cond sgn addr v t with
       | some (w, s1) => s1.modWarp c.key fun x => x.modThread t.lane fun u => { u with wait := match u.wait with | .flag _ iss i => .flag (some w) iss i | x => x }
       | none => s).pollAll c ty cond sgn addr v ts
    | _ => s.pollAll c ty cond sgn addr v ts

/-- The wait of a group ends when every thread has completed: results, and the next instruction. -/
def State.flagDone (s : State) (c : Cx) (ty : Ty) (lanes : List Nat) : State :=
  match s.warps.get? c.key with
  | none => s
  | some w =>
    let ts := w.threads.filter fun t => t.live && lanes.contains t.lane
    let got (t : Thread) : Option W64 := match t.wait with | .flag d _ _ => d | _ => none
    if ts.all fun t => (got t).isSome then
      let w1 := w.putAll c.iss (fun t => mkVal ty ((got t).getD 0)) ts
      let w2 : Warp := { w1 with threads := w1.threads.map fun t =>
        if t.live && lanes.contains t.lane then { t with wait := .none, pc := { t.pc with pix := t.pc.pix + 1 } } else t }
      s.setWarp c.key (if w2.ready w2.turn then w2.mergeAt else w2.fixTurn s.cycle)
    else s

/-- R202 flagw: faults before any thread waits; a first poll; the group waits until all its threads have completed. -/
def execFlagw (ty : Ty) (cond : Cond) (sgn : Bool) (addr v : Opnd) (s : State) : Out :=
  withCx s fun c =>
    let a t := c.addr t addr none
    let s1 := s.walks c.iss.core c.w.asid (c.active.map fun t => (.global, a t, false))
    s1.memCheck c c.active .global
      (fun t => c.events s1 t false { space := .global, addr := a t, n := ty.bytes, align := Nat.min ty.bytes 8, read := true, write := false })
      (match s1.pollPublish c (s1.pollLines c ty addr c.active) with
       | .error e => s1.takeEvent c e c.w.activeLanes
       | .ok s0 =>
         let lanes := c.w.activeLanes
         let s2 := { s0.setWarp c.key ((s0.again c).w.mapActive fun t => { t with wait := .flag none c.iss (.flagw ty cond sgn addr v) }) with issue := none }
         let s3 := (s2.pollAll c ty cond sgn addr v (s2.again c).active).flagDone c ty lanes
         s3.endIfWaiting c.key)

end Sys2Proof.Machine
end

