-- ==== Sys2Proof/Machine/Groups.lean ====
section
/-! DEFINITION. Sys2Proof/Machine/Groups.lean: sharing groups and windows (R262-R266): `cjoin`, `cleave`, `cmap`. -/

namespace Sys2Proof.Machine

open Sys2Proof

/-! ## Joining (R263) -/

def State.groupEntry (s : State) (cl i : Nat) : Option GroupEntry := (s.cluster cl).groups.get? i
def State.setGroup (s : State) (cl i : Nat) (g : GroupEntry) : State := s.modCluster cl fun c => { c with groups := c.groups.set i g }

/-- The lowest free of the cluster's 64 group entries. -/
def Cluster.freeGroup (c : Cluster) : Option Nat := (List.range 64).find? fun i => (c.groups.get? i).isNone

/-- The status of one thread's `cjoin`, and its effect. -/
def State.joinGroup (s : State) (cl wgk key m : Nat) : Nat × State :=
  let g := s.wg wgk
  if key = 0 || 127 < m then (4, s)
  else if g.isGang then (3, s)
  else
    match g.group with
    | some (e, idx) => (if (s.groupEntry cl e).any (fun x => x.key = key) && idx = m then 0 else 3, s)
    | none =>
      let enter (e : Nat) (x : GroupEntry) : Nat × State :=
        (0, (s.setGroup cl e { x with members := x.members.set m wgk }).modWg wgk fun g => { g with group := some (e, m) })
      match (s.cluster cl).groups.find? fun p => p.2.asid = g.asid && p.2.key = key && p.2.gang.isNone with
      | some (e, x) => if (x.members.get? m).isSome then (2, s) else enter e x
      | none =>
        match (s.cluster cl).freeGroup with
        | none => (1, s)
        | some e => enter e { asid := g.asid, key := key }

/-- The threads of a group act in lane order; each has a result. -/
def State.eachThread (s : State) (f : State → Thread → W64 × State) : List Thread → List (Nat × W64) → State × List (Nat × W64)
  | [], acc => (s, acc)
  | t :: ts, acc =>
    let (v, s1) := f s t
    s1.eachThread f ts (acc ++ [(t.lane, v)])

def laneVal (vs : List (Nat × W64)) (lane : Nat) : W64 := ((vs.find? fun p => p.1 = lane).map Prod.snd).getD 0

/-- R263 cjoin. -/
def execCjoin (key m : Opnd) (s : State) : Out :=
  withCx s fun c => s.withBoundary c fun s1 =>
    let (s2, vs) := s1.eachThread (fun s t =>
      let r := s.joinGroup (clusterOf c.iss.core) c.w.wg (c.rd32 t key) (c.rd32 t m)
      (BitVec.ofNat 64 r.1, r.2)) c.active []
    let c2 := s2.again c
    s2.advance c2 (c2.w.putAll c.iss (fun t => mkVal tyB32 (laneVal vs t.lane)) c.active) true

/-! ## Windows (R265, R266) -/

def windowBase (i gen : Nat) : W64 := BitVec.ofNat 64 (i * 2 ^ 32 + gen * 2 ^ 20)

/-- The window onto a member that a thread's `cmap` returns, opened where it must be. -/
def State.mapWindow (s : State) (cl wgk m : Nat) : W64 × State :=
  let g := s.wg wgk
  match g.group.bind fun p => (s.groupEntry cl p.1).bind fun e => e.members.get? m with
  | none => (0, s)
  | some _ =>
    match g.windows.findIdx? fun w => w.open_ && w.target = m with
    | some i => (windowBase i (g.windows.getD i {}).gen, s)
    | none =>
      match g.windows.findIdx? fun w => !w.open_ with
      | none => (0, s)
      | some i =>
        let w := g.windows.getD i {}
        (windowBase i w.gen, s.modWg wgk fun g => { g with windows := g.windows.set i { w with open_ := true, target := m } })

/-- R265 cmap. -/
def execCmap (m : Opnd) (s : State) : Out :=
  withCx s fun c => s.withBoundary c fun s1 =>
    let (s2, vs) := s1.eachThread (fun s t => s.mapWindow (clusterOf c.iss.core) c.w.wg (c.rd32 t m)) c.active []
    let c2 := s2.again c
    s2.advance c2 (c2.w.putAll c.iss (fun t => mkVal tyB64 (laneVal vs t.lane)) c.active) true

/-- A window is revoked: its generation advances (R266). -/
def Window.revoke (w : Window) : Window := { w with open_ := false, gen := if 4095 ≤ w.gen then 1 else w.gen + 1 }

/-! ## Leaving (R264) -/

/-- An outstanding job that touches a workgroup's grant, or that uses one of its windows. -/
def Job.touches (j : Job) (wgk : Nat) : Bool :=
  (j.reads ++ j.writes).any fun r =>
    ((r.space = .scratch || r.space = .cluster) && r.wg = wgk) || (j.wg = wgk && r.space = .cluster)

/-- Steps 1 and 2 of R264: the windows onto a member and those that it holds are revoked; none while a job holds them. Ordinary accesses through
windows complete as they issue. -/
def State.revokeWindows (s : State) (cl wgk : Nat) : Option State :=
  match (s.wg wgk).group with
  | none => some s
  | some (e, idx) =>
    match s.groupEntry cl e with
    | none => some s
    | some x =>
      if x.members.any fun m => ((s.core (m.2 / 16)).jobs.any fun j => j.touches wgk) then none
      else some (x.members.foldl (fun s m => s.modWg m.2 fun g =>
        { g with windows := g.windows.map fun w => if w.open_ && (m.2 = wgk || w.target = idx) then w.revoke else w }) s)

/-- Step 4: the member index is free, and the entry with its last member. -/
def State.freeMember (s : State) (cl wgk : Nat) : State :=
  match (s.wg wgk).group with
  | none => s
  | some (e, idx) =>
    match s.groupEntry cl e with
    | none => s
    | some x =>
      let s1 := s.modWg wgk fun g => { g with group := none }
      let members := x.members.del idx
      if members.isEmpty then s1.modCluster cl fun c => { c with groups := c.groups.del e } else s1.setGroup cl e { x with members := members }

/-- The steps of R264 for a workgroup whose stores to its grant are published; none while step 1 waits. -/
def State.leaveGroup (s : State) (cl wgk : Nat) : Option State := (s.revokeWindows cl wgk).map fun s1 => s1.freeMember cl wgk

/-- R264 cleave; without effect in no member of a group and in a gang's. -/
def execCleave (s : State) : Out :=
  withCx s fun c =>
    let g := s.wg c.w.wg
    let cl := clusterOf c.iss.core
    if g.group.isNone || g.isGang then s.advance c c.w true
    else
      match s.revokeWindows cl c.w.wg with
      | none => s.stall
      | some s0 => s0.withRelease c .cluster fun s1 =>
        let s2 := s1.freeMember cl c.w.wg
        s2.advance (s2.again c) (s2.again c).w true

end Sys2Proof.Machine
end

