-- ==== Sys2Proof/Machine/Shapes.lean ====
section
/-! DEFINITION. Sys2Proof/Machine/Shapes.lean: shape descriptors and handles (R274, R275), `shp` (R276), `taddr` (R277), `ldt`
(R278). -/

namespace Sys2Proof.Machine

open Sys2Proof

/-- Element size (R274). -/
def Shape.esize (h : Shape) : Nat := tySpan h.ety

def product (l : List Nat) : Nat := l.foldl (· * ·) 1

/-- The descriptor of 21 words, where it is valid (R274). -/
def shapeOf (ws : List W64) : Option Shape :=
  let w (i : Nat) : Nat := (ws.getD i 0).toNat
  let nd := field (w 0) 6 4
  let ety := Ty.ofCode ((ws.getD 0 0).extractLsb' 0 6)
  let half (b i : Nat) : Nat := field (w (b + i / 2)) (32 * (i % 2)) 32
  let es := tySpan ety
  let used (i : Nat) : Bool := w (1 + i) < 2 ^ 48 && w (1 + i) % es = 0 && 1 ≤ half 11 i && 1 ≤ half 16 i
  let unused (i : Nat) : Bool := w (1 + i) = 0 && half 11 i = 0 && half 16 i = 0
  let boxes := (List.range nd).map (half 16)
  if w 0 < 2 ^ 10 && 1 ≤ nd && nd ≤ 10 && ety.dynTag && (List.range 10).all (fun i => if i < nd then used i else unused i) &&
      product boxes * es ≤ 524288 then
    some { ety := ety, strides := (List.range nd).map fun i => w (1 + i), extents := (List.range nd).map (half 11), boxes := boxes }
  else none

/-- The descriptor that a live handle of a context names (R275). -/
def State.shape? (s : State) (asid h : Nat) : Option Shape :=
  match (s.info asid).shapes.get? (h / 4096) with
  | some sl => if h / 4096 ≠ 0 && sl.gen = h % 4096 then sl.shape else none
  | none => none

/-- Slots of a context's shape table (R421). -/
def State.shapeSlots (s : State) (site asid : Nat) : Nat :=
  (((s.die site).ctx? asid).map fun c => field (c.2.words.getD 6 0).toNat 0 21).getD 0

/-- The lowest free slot of `1 … n - 1`. -/
def CtxInfo.freeShape (x : CtxInfo) (n : Nat) : Option Nat :=
  ((List.range (x.shapes.length + 1)).map (· + 1)).find? fun i =>
    i < n && (match x.shapes.get? i with | some sl => sl.shape.isNone && !sl.retired | none => true)

/-- A descriptor takes a slot: its handle, 0 where none is free. -/
def State.makeShape (s : State) (site asid : Nat) (h : Shape) : Nat × State :=
  let x := s.info asid
  match x.freeShape (s.shapeSlots site asid) with
  | none => (0, s)
  | some i =>
    let sl : ShapeSlot := x.shapes.get {} i
    (i * 4096 + sl.gen, s.setInfo asid { x with shapes := x.shapes.set i { sl with shape := some h } })

/-- A slot becomes free, or is retired (R276). -/
def State.freeShapeSlot (s : State) (asid i : Nat) : State :=
  let x := s.info asid
  match x.shapes.get? i with
  | none => s
  | some sl =>
    let sl1 : ShapeSlot := if 4095 ≤ sl.gen then { sl with shape := none, retired := true } else { sl with shape := none, gen := sl.gen + 1 }
    s.setInfo asid { x with shapes := x.shapes.set i sl1 }

/-- The words of a descriptor, read by the lowest thread as its ordinary loads. -/
def State.readWords (s : State) (c : Cx) (addr : Nat) : Nat → List W64 → State × List W64
  | 0, acc => (s, acc)
  | k + 1, acc =>
    match s.place c.iss.core c.w.asid c.w.wg .global addr 8 false with
    | .error _ => (s, acc)
    | .ok pl =>
      let (s1, bs) := s.ordLoad c false addr 8 pl
      s1.readWords c (addr + 8) k (acc ++ [leVal bs])

def evStale : EvInfo := { code := evHandleStale }

/-- R276 shp: make. -/
def execShp (desc : Opnd) (s : State) : Out :=
  withCx s fun c =>
    let a := c.rd64 c.lead desc
    let words := (List.range 21).map fun i => a + 8 * i
    let s1 := s.walks c.iss.core c.w.asid (words.map fun x => (.global, x, false))
    s1.memCheck c [c.lead] .global
      (fun t => (words.map fun x =>
        c.events s1 t false { space := .global, addr := x, n := 8, align := 8, read := true, write := false, ord := true }).flatten)
      (s1.withBoundary c fun s2 =>
        let (s3, ws) := s2.readWords c a 21 []
        let (h, s4) := match shapeOf ws with
          | some sh => s3.makeShape c.site c.w.asid sh
          | none => (0, s3)
        let c4 := s4.again c
        s4.advance c4 (c4.w.putAll c.iss (fun _ => mkVal tyB32 (BitVec.ofNat 64 h)) c.active) true)

/-- R276 shp.free. -/
def execShpFree (h : Opnd) (s : State) : Out :=
  withCx s fun c =>
    let x := c.rd32 c.lead h
    if (s.shape? c.w.asid x).isNone then s.takeEvent c evStale c.w.activeLanes
    else s.withBoundary c fun s1 =>
      let s2 := s1.freeShapeSlot c.w.asid (x / 4096)
      s2.advance (s2.again c) (s2.again c).w true

/-- R277 taddr. -/
def execTaddr (base h : Opnd) (cs : List Opnd) (s : State) : Out :=
  laneOp s none tyB64 (fun _ _ => none) fun c t =>
    match s.shape? c.w.asid (c.rd32 t h) with
    | none => .error evStale
    | some sh =>
      if sh.strides.length ≠ cs.length then .error { code := evFormat }
      else
        let off := (cs.zip sh.strides).foldl (fun (x : Int) p => x + toSigned 32 (c.rd32 t p.1) * (p.2 : Int)) 0
        .ok (mkVal tyB64 (BitVec.ofInt 64 ((c.rd64 t base : Int) + off)))

/-- R278 ldt: every handle is checked before any access. -/
def execLdt (sp : Space) (na : Bool) (p : Pred) (h addr : Opnd) (s : State) : Out :=
  match s.cx? with
  | none => .fault .noIssue
  | some c0 =>
    let stale (t : Thread) : Option EvInfo := if (s.shape? c0.w.asid (c0.rd32 t h)).isNone then some evStale else none
    match firstEvent stale (c0.on p) with
    | some (e, ls) => .next (s.takeEvent c0 e ls)
    | none =>
      loadWith s p sp na (fun c t => c.addr t addr none)
        (fun c t => if c.off p t then tyVoid else ((s.shape? c.w.asid (c.rd32 t h)).map Shape.ety).getD tyVoid) fun _ _ => []

end Sys2Proof.Machine
end

