-- ==== Sys2Proof/Machine/Jobs.lean ====
section
/-! DEFINITION. Sys2Proof/Machine/Jobs.lean: copy tags and engine jobs (R269-R293): checks and issue, the footprint tracker,
starting, completion, `cpyw`, `colr`. -/

namespace Sys2Proof.Machine

open Sys2Proof

/-! ## Boxes -/

/-- The index vectors of a box in dense order, dimension 0 fastest (R289, R292). -/
def boxIndices : List Nat → List (List Nat)
  | [] => [[]]
  | b :: bs => ((boxIndices bs).map fun j => (List.range b).map fun i => i :: j).flatten

def strideSum (js strides : List Nat) : Nat := ((js.zip strides).map fun p => p.1 * p.2).foldl (· + ·) 0

/-- Bytes from the lowest to the highest element of index vectors bounded by `counts`. -/
def spanOf (sh : Shape) (counts : List Nat) : Nat := strideSum (counts.map fun b => b - 1) sh.strides + sh.esize

def Shape.boxBytes (sh : Shape) : Nat := product sh.boxes * sh.esize

/-- Tensor coordinates of a box element (R292): none where one lies out of bounds. `ix`: the index list. -/
def coords (sh : Shape) (cs : List Int) (ix : Option (List Int)) (j : List Nat) : Option (List Nat) :=
  let last := sh.boxes.length - 1
  let xs : List Int := (List.range sh.boxes.length).map fun i =>
    match ix with
    | some l => if i = last then l.getD (j.getD i 0) 0 else cs.getD i 0 + (j.getD i 0 : Int)
    | none => cs.getD i 0 + (j.getD i 0 : Int)
  if (xs.zip sh.extents).all fun p => 0 ≤ p.1 && p.1 < (p.2 : Int) then some (xs.map Int.toNat) else none

/-- The in-bounds part of a box's coordinate range on the tensor side: offset and length in bytes. -/
def tensorRange (sh : Shape) (cs : List Int) : Nat × Nat :=
  let lo := cs.map fun x => max x 0
  let hi := (cs.zip (sh.boxes.zip sh.extents)).map fun p => min (p.1 + (p.2.1 : Int)) (p.2.2 : Int) - 1
  if (lo.zip hi).any fun p => p.2 < p.1 then (0, 0)
  else
    let a := strideSum (lo.map Int.toNat) sh.strides
    (a, strideSum (hi.map Int.toNat) sh.strides + sh.esize - a)

/-! ## What an instruction asks for -/

/-- A byte range by the operand's own addresses. -/
structure Rng where
  space : Space
  lo : Nat
  len : Nat
  deriving DecidableEq, Repr

/-- A job as its operands give it: footprints (R280), aligned operands with their rule, an event of R281's length check. -/
structure JobSpec where
  op : JobOp
  reads : List Rng
  writes : List Rng
  aligned : List (Space × Nat × Nat) := []
  tooBig : Option EvInfo := none
  empty : Bool := false

/-- Where an operand address leads at issue. -/
def State.jloc (s : State) (c : Cx) (sp : Space) (addr : Nat) : JLoc :=
  match sp with
  | .scratch | .const | .param => { space := sp, wg := c.w.wg, addr := addr }
  | .cluster =>
    match s.window (clusterOf c.iss.core) c.w.wg addr 1 with
    | .ok (.pad k off) => { space := sp, wg := k, addr := off }
    | _ => { space := sp, wg := c.w.wg, addr := addr % 2 ^ 20 }
  | .global | .host => { space := sp, addr := addr }

def State.fpRange (s : State) (c : Cx) (r : Rng) : FpRange :=
  let l := s.jloc c r.space r.lo
  { space := r.space, wg := l.wg, lo := l.addr, len := r.len }

/-- A length or count above its limit (R281). -/
def tooLong (ds : Space) (dst n limit : Nat) : Option EvInfo :=
  if limit < n then some { code := evAddrPerm, qual := spaceCode ds * 4 + 2, faddr := BitVec.ofNat 64 dst } else none

/-- R281's scratch and cluster checks of a range. -/
def State.rangeEvent (s : State) (c : Cx) (r : Rng) : List MemEv :=
  match r.space with
  | .scratch => if 0 < r.len && (s.wg c.w.wg).grant * 256 < r.lo + r.len then [addrEvent evScratchBounds 0 r.lo] else []
  | .cluster =>
    match s.window (clusterOf c.iss.core) c.w.wg r.lo (Nat.max 1 r.len) with
    | .ok _ => []
    | .error e => [e]
  | _ => []

def alignEvent (a : Space × Nat × Nat) : List MemEv :=
  if a.2.1 % a.2.2 = 0 then [] else [addrEvent evAddrAlign (spaceCode a.1 * 4) a.2.1]

/-! ## The tracker (R283) -/

def isPad (sp : Space) : Bool := sp = .scratch || sp = .cluster

/-- Two ranges meet in some 128-byte granule. -/
def FpRange.meets (a b : FpRange) : Bool :=
  (if isPad a.space then isPad b.space && a.wg = b.wg else a.space = b.space) && 0 < a.len && 0 < b.len &&
  a.lo / 128 ≤ (b.lo + b.len - 1) / 128 && b.lo / 128 ≤ (a.lo + a.len - 1) / 128

def anyMeet (as bs : List FpRange) : Bool := as.any fun a => bs.any a.meets

/-- The pieces of a range between multiples of `g`: first byte and length. -/
def piecesOf (g lo len : Nat) : List (Nat × Nat) :=
  if len = 0 then []
  else (List.range ((lo + len - 1) / g - lo / g + 1)).map fun i =>
    let a := Nat.max lo ((lo / g + i) * g)
    (a, Nat.min (lo + len) ((lo / g + i + 1) * g) - a)

/-- The 64 KiB pieces of a range. -/
def pieces (lo len : Nat) : List (Nat × Nat) := piecesOf 65536 lo len

/-- Whether a held line holds bytes of a global or host range (R284). -/
def State.heldIn (s : State) (c : Cx) (pl : PLine) (r : Rng) : Bool :=
  pl.host = (r.space = .host) && (r.space = .global || r.space = .host) &&
  (pieces r.lo r.len).any fun p =>
    match s.xlat c.iss.core c.w.asid (r.space = .host) p.1 false with
    | .ok x => x.pa < pl.line * 128 + 128 && pl.line * 128 < x.pa + p.2
    | .error _ => false

/-! ## Tags (R270) -/

def State.tag (s : State) (core i : Nat) : CopyTag := (s.core core).tags.get {} i
def State.setTag (s : State) (core i : Nat) (t : CopyTag) : State := s.modCore core fun k => { k with tags := k.tags.set i t }

/-- The physical tag of a name (R269). -/
def State.tagOf (s : State) (wgk : Nat) (name : Nat) : Nat := (s.wg wgk).tags.get 0 name

/-- Bytes written by a tag's jobs are acquired: the core's copies of their lines go (R272). -/
def State.dropLines (s : State) (core : Nat) (ls : List Nat) : State := ls.foldl (fun s ln => s.modCore core fun k => k.dropLine ln) s

def stalledOn (i : Nat) (t : Thread) : Bool := t.live && t.cwait = some (i, none)

/-- A warp whose issue goes on: a `cpyw` at which another stalls is executed anew after the stop, and finds PEND (R287). -/
def State.goesOn (s : State) (w : Warp) : Bool :=
  let g := s.wg w.wg
  w.event.isNone && !(w.frame.getD 0 0).getLsbD 45 && g.stop.isNone && !g.parking && w.pendingRestart.isNone

/-- COUNT has fallen to 0 (R270, R285): hash points of the lines written; the waiting groups complete, or PEND is set. -/
def State.tagDone (s : State) (core i : Nat) : State :=
  let t := s.tag core i
  let s1 := t.fresh.foldl (fun s ln =>
    s.modDie (siteOfPa (ln * 128)) fun d =>
      match d.tags.get? ln with
      | some g => d.hashPoint ln g.dom s.lineBytes
      | none => d) s
  let ws := s1.warps.filter fun p => p.1 / 16 = core && s.goesOn p.2 && p.2.threads.any (stalledOn i)
  if ws.isEmpty then s1.setTag core i { t with pend := true, fresh := [] }
  else
    let s2 := (s1.setTag core i { t with err := 0, lines := [], fresh := [], pend := false }).dropLines core t.lines
    ws.foldl (fun s p => s.modWarp p.1 fun w =>
      { w with threads := w.threads.map fun u => if stalledOn i u then { u with cwait := some (i, some t.err) } else u }) s2

/-- A job of a tag completes with a code, 0 for none, and its qualifier (R270). -/
def State.tagLower (s : State) (core i order err qual : Nat) : State :=
  let t := s.tag core i
  let t1 : CopyTag := if err ≠ 0 && (t.err = 0 || order < t.errOrder) then { t with err := err, errOrder := order, errQual := qual } else t
  let s1 := s.setTag core i { t1 with count := t.count - 1 }
  if t.count ≤ 1 then s1.tagDone core i else s1

/-! ## Issue (R279-R286) -/

/-- The declared regions of a footprint symbol: writes and reads (R280). -/
def Cx.declared (c : Cx) (sym : Nat) : List (Bool × Rng) :=
  match (moduleFunc c.ws c.lead.pc.fsym).bind fun f => f.fps.find? fun d => d.sym = sym with
  | none => []
  | some d => d.lines.map fun l =>
    let base := if l.shared then (symAddr c.ws l.base).toNat else (c.lead.vals.get {} l.base).bits.toNat
    (l.write, { space := (Space.ofCode? l.space).getD .global, lo := base, len := l.len })

/-- THE ISSUE OF A JOB under a tag, its checks passed and room found. -/
def State.acceptJob (s : State) (c : Cx) (sc : Scope) (i : Nat) (decl : Bool) (js : JobSpec) (rd wr : List Rng) : State :=
  let core := c.iss.core
  let mine := ((s.core core).hold.filter fun e => e.owner = c.w.name && rd.any (s.heldIn c e.pl)).map HoldEntry.pl
  match s.warpReserve c (s.touchedOpen c mine) 0 0 with
  | .error e => s.takeEvent c e c.w.activeLanes
  | .ok (rp, _, s0) =>
    let s1 := if mine.isEmpty then s0 else s0.earlyPublish c mine rp
    let fr := rd.map (s1.fpRange c)
    let fw := wr.map (s1.fpRange c)
    let k := s1.core core
    let edges := (k.jobs.filter fun j => j.asid = c.w.asid && (anyMeet fr j.writes || anyMeet fw j.reads || anyMeet fw j.writes)).map Job.id
    let job : Job := { id := k.nextJob, asid := c.w.asid, wg := c.w.wg, owner := c.w.name, tag := i, cls := (s1.tag core i).cls, scope := sc, op := js.op,
                       reads := fr, writes := fw, declared := decl, edges := edges, drain := mine }
    let s2 := s1.setCore core { k with jobs := if js.empty then k.jobs else k.jobs ++ [job], nextJob := k.nextJob + 1 }
    let t := s2.tag core i
    let s3 := s2.setTag core i { t with count := t.count + 1 }
    let s4 := if js.empty then s3.tagLower core i k.nextJob 0 0 else s3
    let c4 := s4.again c
    s4.advance c4 c4.w false

/-- A JOB INSTRUCTION (R279): the checks of R281, precise; a full tracker or tag stalls. -/
def jobInstr (s : State) (sc : Scope) (tag : Fin 64) (fp : Option (BitVec 29)) (spec : Cx → Except EvInfo JobSpec) : Out :=
  withCx s fun c =>
    match spec c with
    | .error e => s.takeEvent c e c.w.activeLanes
    | .ok js =>
      let decl := (fp.map fun f => c.declared f.toNat).getD []
      let rd := if fp.isSome then (decl.filter fun p => !p.1).map Prod.snd else js.reads
      let wr := if fp.isSome then (decl.filter Prod.fst).map Prod.snd else js.writes
      let bad := (js.tooBig.map fun e => (e, false)).toList ++ (js.aligned.map alignEvent).flatten ++
        ((js.reads ++ js.writes).map (s.rangeEvent c)).flatten ++ (if fp.isSome then ((rd ++ wr).map (s.rangeEvent c)).flatten else [])
      match leastEvent bad with
      | some (e, _) => s.takeEvent c e c.w.activeLanes
      | none =>
        let i := s.tagOf c.w.wg tag.val
        if 128 ≤ (s.core c.iss.core).jobs.length || 255 ≤ (s.tag c.iss.core i).count then s.stall
        else s.acceptJob c sc i fp.isSome js rd wr

/-- R289 cpy, linear. -/
def execCpy (sc : Scope) (ss ds : Space) (dst src len : Opnd) (tag : Fin 64) (fp : Option (BitVec 29)) (s : State) : Out :=
  jobInstr s sc tag fp fun c =>
    let d := c.rd64 c.lead dst
    let a := c.rd64 c.lead src
    let n := c.rd64 c.lead len
    .ok { op := .copy (s.jloc c ds d) (s.jloc c ss a) n, reads := [{ space := ss, lo := a, len := n }],
          writes := [{ space := ds, lo := d, len := n }], tooBig := tooLong ds d n (2 ^ 40), empty := n = 0 }

/-- The shape of a handle operand, with the dimension limits of the instruction. -/
def Cx.useShape (s : State) (c : Cx) (h : Opnd) (ok : Shape → Bool) (f : Shape → JobSpec) : Except EvInfo JobSpec :=
  match s.shape? c.w.asid (c.rd32 c.lead h) with
  | none => .error evStale
  | some sh => if ok sh then .ok (f sh) else .error { code := evFormat }

/-- R289 cpy.shape. -/
def execCpyShape (scatter : Bool) (sc : Scope) (ss ds : Space) (dst src h : Opnd) (tag : Fin 64) (fp : Option (BitVec 29)) (s : State) : Out :=
  jobInstr s sc tag fp fun c =>
    let d := c.rd64 c.lead dst
    let a := c.rd64 c.lead src
    c.useShape s h (fun sh => sh.strides.length ≤ 4) fun sh =>
      let al := Nat.min sh.esize 8
      let strided := spanOf sh sh.boxes
      let dense := sh.boxBytes
      { op := .shaped scatter (s.jloc c ds d) (s.jloc c ss a) sh
        reads := [{ space := ss, lo := a, len := if scatter then dense else strided }]
        writes := [{ space := ds, lo := d, len := if scatter then strided else dense }]
        aligned := [(ds, d, al), (ss, a, al)] }

/-- R290 cpyf. -/
def execCpyf (ty : Ty) (sc : Scope) (ds : Space) (dst len pat : Opnd) (tag : Fin 64) (fp : Option (BitVec 29)) (s : State) : Out :=
  jobInstr s sc tag fp fun c =>
    let d := c.rd64 c.lead dst
    let n := c.rd64 c.lead len
    .ok { op := .fill (s.jloc c ds d) n (tySpan ty) (c.rd ty c.lead pat), reads := [], writes := [{ space := ds, lo := d, len := n }],
          aligned := [(ds, d, tySpan ty)], tooBig := tooLong ds d n (2 ^ 40), empty := n = 0 }

/-- R291 cpyq. -/
def execCpyq (ty : Ty) (op : CpyqOp) (sgn sat : Bool) (sc : Scope) (ss ds : Space) (dst src n : Opnd) (tag : Fin 64)
    (fp : Option (BitVec 29)) (s : State) : Out :=
  jobInstr s sc tag fp fun c =>
    let d := c.rd64 c.lead dst
    let a := c.rd64 c.lead src
    let k := c.rd64 c.lead n
    let w := tySpan ty
    let al := Nat.min w 8
    .ok { op := .reduce ty op sgn sat (s.jloc c ds d) (s.jloc c ss a) k
          reads := [{ space := ss, lo := a, len := k * w }, { space := ds, lo := d, len := k * w }]
          writes := [{ space := ds, lo := d, len := k * w }]
          aligned := [(ds, d, al), (ss, a, al)], tooBig := tooLong ds d k (2 ^ 32) }

/-- Coordinates and index list of `gld` and `gst`: under IDX the last operand is the list's scratch offset (R292). -/
def Cx.boxArgs (c : Cx) (idx : Bool) (cs : List Opnd) : List Int × Option Nat :=
  let xs := cs.map fun o => toSigned 32 (c.rd32 c.lead o)
  if idx then (xs.dropLast ++ [0], (cs.getLast?).map fun o => c.rd64 c.lead o) else (xs, none)

/-- A box job: the side that is the tensor, the side that is dense (R292). -/
def boxSpec (s : State) (c : Cx) (load idx : Bool) (tsp dsp : Space) (base dense : Nat) (h : Opnd) (cs : List Opnd) : Except EvInfo JobSpec :=
  let (xs, list) := c.boxArgs idx cs
  c.useShape s h (fun sh => sh.strides.length = cs.length) fun sh =>
    let al := Nat.min sh.esize 8
    let (lo, len) := if idx then (0, spanOf sh sh.extents) else tensorRange sh xs
    let tensor : Rng := { space := tsp, lo := base + lo, len := len }
    let box : Rng := { space := dsp, lo := dense, len := sh.boxBytes }
    let ix := list.map fun a => s.jloc c .scratch a
    let ixr := (list.map fun a => ({ space := .scratch, lo := a, len := 4 * sh.boxes.getLastD 0 } : Rng)).toList
    { op := if load then .load (s.jloc c dsp dense) (s.jloc c tsp base) sh xs ix else .store (s.jloc c dsp dense) (s.jloc c tsp base) sh xs ix
      reads := (if load then [tensor] else [box]) ++ ixr
      writes := if load then [box] else [tensor]
      aligned := [(tsp, base, al), (dsp, dense, al)] }

/-- R292 gld. -/
def execGld (idx : Bool) (sc : Scope) (ss ds : Space) (dst base h : Opnd) (cs : List Opnd) (tag : Fin 64) (fp : Option (BitVec 29))
    (s : State) : Out :=
  jobInstr s sc tag fp fun c => boxSpec s c true idx ss ds (c.rd64 c.lead base) (c.rd64 c.lead dst) h cs

/-- R292 gst: the first operand is the dense source, the second the tensor's base. -/
def execGst (idx : Bool) (sc : Scope) (ss ds : Space) (dst base h : Opnd) (cs : List Opnd) (tag : Fin 64) (fp : Option (BitVec 29))
    (s : State) : Out :=
  jobInstr s sc tag fp fun c => boxSpec s c false idx ds ss (c.rd64 c.lead base) (c.rd64 c.lead dst) h cs

/-! ## Starting (R282) -/

/-- The pages of a job's global and host ranges, each with whether the job writes it. -/
def Job.pageList (j : Job) : List (Bool × Nat × Bool) :=
  let of_ (w : Bool) (r : FpRange) : List (Bool × Nat × Bool) :=
    if r.space = .global || r.space = .host then (pieces r.lo r.len).map fun p => (r.space = .host, p.1, w) else []
  (j.reads.map (of_ false)).flatten ++ (j.writes.map (of_ true)).flatten

/-- Translate the pages: the pinned translations, or the code and qualifier with which the job ends. -/
def State.pinPages (s : State) (core asid : Nat) : List (Bool × Nat × Bool) → List TlbEntry → State × Except (Nat × Nat) (List TlbEntry)
  | [], acc => (s, .ok acc)
  | (host, a, w) :: r, acc =>
    let s1 := s.walkIfMissed core asid host a w
    match s1.xlat core asid host a w with
    | .error f => (s1, .error (f.code, spaceCode (if host then .host else .global) * 4 + f.kind))
    | .ok x =>
      if s1.homeDown (.mem x) then (s1, .error (evDieReset, 0))
      else
        let e : TlbEntry := { asid := x.dom, host := host, base := a / 65536, log2 := 16, frame := x.pa - a % 65536, w := w, pub := x.pub, nc := x.nc,
                              dirtySet := w }
        s1.pinPages core asid r (acc ++ [e])

/-- A range of the data section beyond its end. -/
def State.constOver (s : State) (j : Job) : Bool :=
  j.reads.any fun r => r.space = .const && dataLen (s.moduleWords (s.wg j.wg).modIdx) < r.lo + r.len

/-- Whether a job may start: its edges completed, the drain of R284 performed. -/
def State.mayStart (s : State) (core : Nat) (j : Job) : Bool :=
  let k := s.core core
  !j.started && j.edges.all (fun e => k.jobs.all fun x => x.id ≠ e) &&
  !(k.hold.any fun e => e.owner = j.owner && e.phase.isSome && j.drain.contains e.pl)

/-- Served first (R273): the higher class, then the older. -/
def servedBefore (a b : Job) : Bool := b.cls < a.cls || (a.cls = b.cls && a.id < b.id)

def Job.globals (j : Job) : List FpRange := (j.reads ++ j.writes).filter fun r => r.space = .global

/-- Remove a job, its pins with it. -/
def State.dropJob (s : State) (core : Nat) (j : Job) : State :=
  (s.modCore core fun k => { k with jobs := k.jobs.filter fun x => x.id ≠ j.id }).modDie (siteOf core) fun d =>
    { d with pins := d.pins.filter fun p => p.job ≠ some (core, j.id) }

/-- R282 JOB_START: a job that may start, first in the order of service, pins its pages; a page it cannot use ends it at once.
Too few pin records: it waits (R318). -/
def State.startJob (s : State) (core : Nat) (j : Job) : State :=
  let site := siteOf core
  let need := j.globals.length
  if !s.mayStart core j || ((s.core core).jobs.any fun x => s.mayStart core x && servedBefore x j) then s
  else if Config.pinRecords < (s.die site).pins.length + need then s
  else
    match s.pinPages core j.asid j.pageList [] with
    | (s1, .error e) => (s1.dropJob core j).tagLower core j.tag j.id e.1 e.2
    | (s1, .ok ps) =>
      if s1.constOver j then (s1.dropJob core j).tagLower core j.tag j.id evAddrUnmapped (spaceCode .const * 4)
      else
        let begin_ (x : Job) : Job := if x.id = j.id then { x with started := true, pages := ps } else x
        let s2 := s1.modCore core fun k => { k with jobs := k.jobs.map begin_ }
        s2.modDie site fun d => { d with pins := d.pins ++ j.globals.map fun r =>
          ({ asid := j.asid, lo := r.lo, len := r.len, job := some (core, j.id), lseq := j.owner.lseq } : PinRec) }

def execJobStart (core job : Nat) (s : State) : Out :=
  match (s.core core).jobs.find? fun j => j.id = job with
  | some j => .next (s.startJob core j)
  | none => .next s

/-! ## Running a job: its reads, then its writes (R289-R292) -/

/-- The device or host place of a byte through the job's pinned translations. -/
def Job.pinned (j : Job) (host : Bool) (va : Nat) : Option Xlat :=
  (j.pages.find? fun e => e.host = host && e.base = va / 65536).map fun e =>
    { pa := e.frame + va % 65536, dom := e.asid, nc := e.nc, pub := e.pub, host := host }

/-- One byte a job reads at its home, and whether it is uncorrectable (R282: zero). -/
def State.jobByte (s : State) (j : Job) (l : JLoc) : Byte × Bool :=
  match l.space with
  | .scratch | .cluster => (cellGet (s.wg l.wg).scratch l.addr, false)
  | .const | .param => (dataByte (s.moduleWords (s.wg j.wg).modIdx) l.addr, false)
  | .global =>
    match j.pinned false l.addr with
    | some x => if s.poison.contains x.pa then (0, true) else (s.byte x.pa, false)
    | none => (0, false)
  | .host =>
    match j.pinned true l.addr with
    | some x => (cellGet s.hostMem x.pa, false)
    | none => (0, false)

def JLoc.at_ (l : JLoc) (off : Nat) : JLoc := { l with addr := l.addr + off }

/-- A byte that a job writes: the place, and the place it comes from or its value. -/
structure Move where
  dst : JLoc
  src : Option JLoc
  val : Byte := 0
  deriving DecidableEq, Repr

def moveBytes (dst src : JLoc) (n : Nat) : List Move := (List.range n).map fun i => { dst := dst.at_ i, src := some (src.at_ i) }

/-- A signed 32-bit index list at its place (R292). -/
def State.indexList (s : State) (j : Job) (l : JLoc) (n : Nat) : List Int :=
  (List.range n).map fun i => toSigned 32 (leNat ((List.range 4).map fun b => (s.jobByte j (l.at_ (4 * i + b))).1))

/-- Moves of a box, element by element in ascending dense order. -/
def State.boxMoves (s : State) (j : Job) (load : Bool) (dense base : JLoc) (sh : Shape) (cs : List Int) (ix : Option JLoc) : List Move :=
  let list := ix.map fun l => s.indexList j l (sh.boxes.getLastD 0)
  let es := sh.esize
  ((boxIndices sh.boxes).zipIdx.map fun e =>
    let d := dense.at_ (e.2 * es)
    match coords sh cs list e.1 with
    | some xs =>
      let t := base.at_ (strideSum xs sh.strides)
      if load then moveBytes d t es else moveBytes t d es
    | none => if load then (List.range es).map fun i => { dst := d.at_ i, src := none } else []).flatten

/-- The byte moves of every job but a reduce-copy. -/
def State.moves (s : State) (j : Job) : List Move :=
  match j.op with
  | .copy dst src len => moveBytes dst src len
  | .shaped scatter dst src sh =>
    ((boxIndices sh.boxes).zipIdx.map fun e =>
      let strided := strideSum e.1 sh.strides
      let dense := e.2 * sh.esize
      moveBytes (dst.at_ (if scatter then strided else dense)) (src.at_ (if scatter then dense else strided)) sh.esize).flatten
  | .fill dst len size pat => (List.range len).map fun i => { dst := dst.at_ i, src := none, val := (pat >>> (8 * (i % size))).setWidth 8 }
  | .load dense base sh cs ix => s.boxMoves j true dense base sh cs ix
  | .store dense base sh cs ix => s.boxMoves j false dense base sh cs ix
  | .reduce .. => []

/-- R291 Combine. -/
def cpyqElem (ty : Ty) (op : CpyqOp) (sgn sat : Bool) (d x : W64) : W64 :=
  match op with
  | .add => map2 ty (intBin sgn sat ty.width (· + ·)) d x
  | .min => map2 ty (intBin sgn false ty.width fun a b => if a ≤ b then a else b) d x
  | .max => map2 ty (intBin sgn false ty.width fun a b => if a ≤ b then b else a) d x
  | .fadd => map2 ty (fun a b => fround ty.fmt sat false ((fdec ty.fmt a).add (fdec ty.fmt b))) d x
  | .fmin => map2 ty (fminElem ty.fmt) d x
  | .fmax => map2 ty (fmaxElem ty.fmt) d x

/-- One byte a job writes at its home: a slice write, a scratchpad or the host port (R344). -/
def State.jobWrite (s : State) (core tag : Nat) (j : Job) (l : JLoc) (b : Byte) : State :=
  match l.space with
  | .scratch | .cluster => s.padWrite l.wg l.addr [b]
  | .host =>
    match j.pinned true l.addr with
    | some x => s.hostWrite x.pa [b]
    | none => s
  | .global =>
    match j.pinned false l.addr with
    | some x =>
      let s1 := s.writePa x.pa x.dom x.nc false [b]
      let t := s1.tag core tag
      let add (l : List Nat) : List Nat := if l.contains (lineOf x.pa) then l else lineOf x.pa :: l
      s1.setTag core tag { t with lines := add t.lines, fresh := add t.fresh }
    | none => s
  | _ => s

/-- Whether byte `out` of a combined value depends on byte `b` of an operand (R282): in a wrapping sum those of its element from it on do, else
all of its element (DEDUCED, log 43). -/
def cpyqDepends (ty : Ty) (op : CpyqOp) (sat : Bool) (b out : Nat) : Bool :=
  let n := Nat.max 1 (ty.width / 8)
  out / n = b / n && (match op with | .add => sat || b ≤ out | _ => true)

/-- Values of a reduce-copy in ascending order; whether an uncorrectable byte was read. -/
def State.reduceGo (s : State) (core : Nat) (j : Job) (ty : Ty) (op : CpyqOp) (sgn sat : Bool) (dst src : JLoc) : Nat → Nat → Bool → State × Bool
  | 0, _, bad => (s, bad)
  | k + 1, i, bad =>
    let w := tySpan ty
    let get (l : JLoc) : List (Byte × Bool) := (List.range w).map fun b => s.jobByte j (l.at_ (i * w + b))
    let ds := get dst
    let ss := get src
    let ill := (List.range w).filter fun b => (ds.getD b (0, false)).2 || (ss.getD b (0, false)).2
    let v := cpyqElem ty op sgn sat (leVal (ds.map Prod.fst)) (leVal (ss.map Prod.fst))
    let out (b : Byte × Nat) : Byte := if ill.any fun x => cpyqDepends ty op sat x b.2 then 0 else b.1
    let s1 := (leBytes w v.toNat).zipIdx.foldl (fun s b => s.jobWrite core j.tag j (dst.at_ (i * w + b.2)) (out b)) s
    s1.reduceGo core j ty op sgn sat dst src k (i + 1) (bad || !ill.isEmpty)

def FpRange.holds (r : FpRange) (l : JLoc) : Bool :=
  (if isPad l.space then isPad r.space && r.wg = l.wg else r.space = l.space) && r.lo ≤ l.addr && l.addr < r.lo + r.len

/-- Under FP, the first access outside every region of its kind, which stops the job (R280). -/
def Job.outside (j : Job) (rs ws : List JLoc) : Option JLoc :=
  if !j.declared then none
  else (rs.find? fun l => !(j.reads.any fun r => r.holds l)).or (ws.find? fun l => !(j.writes.any fun r => r.holds l))

/-- The homes of the lines that a job reads serve it: a tag of another domain is retired, a line without one filled (R299, R305). -/
def State.jobFetch (s : State) (j : Job) (ls : List JLoc) : State :=
  let xs := ls.filterMap fun l => if l.space = .global then j.pinned false l.addr else none
  (xs.foldl (fun (t : Tbl Xlat) x => t.set (lineOf x.pa) x) []).foldl (fun s p => s.homeRead p.1 p.2.dom p.2.nc) s

/-- The job's accesses all made: the state, its error code and qualifier. That of UNCORRECTABLE, for which R392 gives a job none, is a free value
(log 20). -/
def State.runJob (s : State) (core : Nat) (j : Job) : State × Nat × Nat :=
  let perm (l : JLoc) : Nat × Nat := (evAddrPerm, spaceCode l.space * 4 + 2)
  let ended (bad : Bool) (s : State) : State × Nat × Nat :=
    if bad then let (q, s1) := s.free; (s1, evUncorrectable, q.toNat % 2 ^ 16) else (s, 0, 0)
  match j.op with
  | .reduce ty op sgn sat dst src n =>
    let all := (List.range (n * tySpan ty)).map fun i => (dst.at_ i, src.at_ i)
    match j.outside (all.map Prod.fst ++ all.map Prod.snd) (all.map Prod.fst) with
    | some l => (s, perm l)
    | none =>
      let (s1, bad) := (s.jobFetch j (all.map Prod.fst ++ all.map Prod.snd)).reduceGo core j ty op sgn sat dst src n 0 false
      ended bad s1
  | op =>
    let ms := s.moves j
    let list : List JLoc := match op with
      | .load _ _ sh _ (some l) | .store _ _ sh _ (some l) => (List.range (4 * sh.boxes.getLastD 0)).map l.at_
      | _ => []
    match j.outside (ms.filterMap Move.src ++ list) (ms.map Move.dst) with
    | some l => (s, perm l)
    | none =>
      let vals := ms.map fun m =>
        match m.src with
        | some l => let r := s.jobByte j l; (m.dst, r.1, r.2)
        | none => (m.dst, m.val, false)
      ended (vals.any fun v => v.2.2) (vals.foldl (fun s v => s.jobWrite core j.tag j v.1 v.2.1) (s.jobFetch j (ms.filterMap Move.src ++ list)))

/-- R270 JOB_COMPLETE: a started job makes its accesses and lowers its tag's COUNT. -/
def State.completeJob (s : State) (core : Nat) (j : Job) : State :=
  let (s1, err) := s.runJob core j
  (s1.dropJob core j).tagLower core j.tag j.id err.1 err.2

def execJobComplete (core job : Nat) (s : State) : Out :=
  match (s.core core).jobs.find? fun j => j.id = job && j.started with
  | some j => .next (s.completeJob core j)
  | none => .next s

/-! ## Waiting and classes -/

/-- The end of a `cpyw` with the code of its tag; the fault of `.trap` (R374). Of an address event no rule states which address FADDR gives: a free
value (log 20). -/
def State.cpywDone (s : State) (c0 : Cx) (trap : Bool) (e qual : Nat) : State :=
  let c : Cx := { c0 with w := c0.w.mapActive fun t => { t with cwait := none } }
  if e ≠ 0 && trap then
    let (a, s1) := s.free
    if e = evAddrUnmapped || e = evAddrPerm then s1.takeEvent c { code := e, qual := qual, faddr := a } c.w.activeLanes
    else s.takeEvent c { code := e, qual := qual } c.w.activeLanes
  else s.advance c (c.w.putAll c.iss (fun _ => mkVal tyB32 (BitVec.ofNat 64 e)) c.active) true

/-- The wait of a `cpyw` is over: ERR and PEND are cleared, and the bytes that the tag's jobs wrote acquired (R272). -/
def State.cpywTake (s : State) (c : Cx) (trap : Bool) (i : Nat) : State :=
  let t := s.tag c.iss.core i
  ((s.setTag c.iss.core i { t with err := 0, pend := false, lines := [] }).dropLines c.iss.core t.lines).cpywDone c trap t.err t.errQual

/-- R272 cpyw: once per group; a stall until COUNT is 0. -/
def execCpyw (trap : Bool) (tag : Fin 64) (s : State) : Out :=
  withCx s fun c =>
    let core := c.iss.core
    let i := s.tagOf c.w.wg tag.val
    let t := s.tag core i
    match c.lead.cwait with
    | some (_, some e) => s.cpywDone c trap e t.errQual
    | some (_, none) => if t.count = 0 then s.cpywTake c trap i else s.stall
    | none =>
      if t.count = 0 && !t.pend then s.takeEvent c { code := evWaitOrphan, qual := tag.val } c.w.activeLanes
      else s.withBoundary c fun s1 =>
        let c1 := s1.again c
        if t.count = 0 then s1.cpywTake c1 trap i
        else { s1.setWarp c.key (c1.w.mapActive fun u => { u with cwait := some (i, none) }) with issue := none }

/-- R273 colr. -/
def execColr (tag : Fin 64) (cl : Fin 4) (s : State) : Out :=
  withCx s fun c =>
    let i := s.tagOf c.w.wg tag.val
    (s.setTag c.iss.core i { s.tag c.iss.core i with cls := cl.val }).advance c c.w false

end Sys2Proof.Machine
end

