-- ==== Sys2Proof/Machine/Matrix.lean ====
section
/-! DEFINITION. Sys2Proof/Machine/Matrix.lean: the matrix engine (R350-R368): reservations, fills, codebook slots, the scale
queue, accumulators, multiplies, the matrix status. Tile operations take effect in core order at their acceptance and stay
outstanding until TILE_OP_COMPLETE (R353). -/

namespace Sys2Proof.Machine

open Sys2Proof

/-! ## Formats -/

/-- Element bits (R356). -/
def mfBits : MFmt → Nat
  | .b8 | .e4m3 | .e5m2 => 8
  | .f16 | .bf16 => 16
  | .i4 | .cb4 => 4
  | .cb6 => 6

def blkLen : Blk → Nat
  | .none => 0 | .b16 => 16 | .b32 => 32 | .b64 => 64 | .b128 => 128

/-- N and M of a sparsity; dense is (1, 1). -/
def spNM : Sparsity → Nat × Nat
  | .dense => (1, 1)
  | .of4 n => (n.val, 4)
  | .of8 n => (n.val, 8)
  | .of16 n => (n.val, 16)

def Resv.rows (r : Resv) : Nat := if r.rows32 then 32 else 64
/-- Values that a row of A holds (R356). -/
def Resv.vals (r : Resv) : Nat := r.k * (spNM r.sp).1 / (spNM r.sp).2

def up16 (n : Nat) : Nat := (n + 15) / 16 * 16
def ceilDiv (a b : Nat) : Nat := (a + b - 1) / b

/-- Bytes of `n` packed elements (R88). -/
def packedLen (f : MFmt) (n : Nat) : Nat :=
  match f with
  | .cb6 => 3 * ceilDiv n 4
  | f => ceilDiv (n * (mfBits f)) 8

/-- Units that a reservation takes (R356). -/
def Resv.need (r : Resv) : Nat :=
  if r.side then ceilDiv (r.k * (mfBits r.fmt)) 512
  else
    let row := up16 (ceilDiv (r.vals * (mfBits r.fmt)) 8) + (if r.sp = .dense then 0 else up16 (ceilDiv r.vals 2))
    ceilDiv (r.rows * row) 1024

/-! ## Handles (R351) -/

def resvHandle (i : Nat) (r : Resv) : Nat := r.gen * 2 ^ 20 + (if r.side then 32 else 0) + i

/-- The record that a live handle of a workgroup names. -/
def State.resv? (s : State) (core wgk h : Nat) : Option (Nat × Resv) :=
  match (s.core core).resv.get? (h % 32) with
  | some r => if r.held = some wgk && h = resvHandle (h % 32) r then some (h % 32, r) else none
  | none => none

def accHandle (u : Nat) (a : AccUnit) : Nat := a.gen * 2 ^ 20 + (if a.second.isNone then 8 else 0) + u

/-- The first unit of the accumulator that a live handle names. -/
def State.acc? (s : State) (core wgk h : Nat) : Option (Nat × AccUnit) :=
  match (s.core core).acc.get? (h % 8) with
  | some a => if a.held = some wgk && a.first && h = accHandle (h % 8) a then some (h % 8, a) else none
  | none => none

def AccUnit.rows (a : AccUnit) : Nat := if a.second.isNone then 32 else 64
def nextGen (g : Nat) : Nat := if 4095 ≤ g then 1 else g + 1

def evShape : EvInfo := { code := evMatrixShape }

/-! ## Tile operations (R353) -/

/-- Items that operations touch: records 0-31, units 32-39, codebook slots 40-47, the scale queue 48, a status 49. -/
def itemAcc (u : Nat) : Nat := 32 + u
def itemCb (i : Nat) : Nat := 40 + i
def itemQueue : Nat := 48

def State.pushTile (s : State) (c : Cx) (items : List Nat) (due : Nat) : State :=
  s.modCore c.iss.core fun k => { k with tileOps := k.tileOps ++ [{ slot := c.iss.slot, wg := c.w.wg, items := items, due := due }] }

def State.touched (s : State) (core item : Nat) : Bool := (s.core core).tileOps.any fun o => o.items.contains item

/-- R353 TILE_OP_COMPLETE: the oldest operation completes, a multiply not before its cycles have passed (R366). -/
def execTileOpComplete (core : Nat) (s : State) : Out :=
  match (s.core core).tileOps with
  | [] => .next s
  | o :: r => .next (if s.cycle < o.due then s else s.modCore core fun k => { k with tileOps := r })

/-! ## Reservations -/

/-- The lowest run of `n` units of a store of `total`, free of the held records of its side (R356). -/
def Core.freeRun (k : Core) (side : Bool) (total n : Nat) : Option Nat :=
  (List.range total).find? fun b =>
    b + n ≤ total && k.resv.all fun p => p.2.held.isNone || p.2.side ≠ side || b + n ≤ p.2.base || p.2.base + p.2.units ≤ b

/-- K of R355. -/
def kOk (k : Nat) (blk : Blk) (sp : Sparsity) : Bool :=
  k % 16 = 0 && 16 ≤ k && k ≤ 8192 && ((blkLen blk) = 0 || k % (blkLen blk) = 0) && k % (spNM sp).2 = 0

/-- R355 orsv. -/
def execOrsv (side : Bool) (fmt : MFmt) (blk : Blk) (rows32 : Bool) (sp : Sparsity) (k : Opnd) (cbs : Fin 8) (soff : BitVec 12)
    (s : State) : Out :=
  withCx s fun c =>
    let core := c.iss.core
    let n := c.rd32 c.lead k
    if !kOk n blk sp then s.takeEvent c evShape c.w.activeLanes
    else
      let x := s.core core
      let r : Resv := { held := some c.w.wg, side := side, fmt := fmt, blk := blk, rows32 := rows32, sp := sp, k := n, cbs := cbs.val,
                        soff := soff.toNat }
      let total := if side then Config.bstageUnits (w2eCore core) else Config.operandUnits
      match (List.range 32).find? fun i => (x.resv.get {} i).held.isNone, x.freeRun side total r.need with
      | some i, some b =>
        let r1 : Resv := { r with gen := (x.resv.get {} i).gen, base := b, units := r.need }
        let s1 := s.setCore core { x with resv := x.resv.set i r1 }
        s1.advance c (c.w.putAll c.iss (fun _ => mkVal tyB32 (BitVec.ofNat 64 (resvHandle i r1))) c.active) true
      | _, _ => s.takeEvent c { code := evReserveFull } c.w.activeLanes

/-- A record is freed: its scale entries are discarded and its generation advances (R358). -/
def Core.freeResv (k : Core) (i : Nat) : Core :=
  match k.resv.get? i with
  | none => k
  | some r => { k with resv := k.resv.set i { gen := nextGen r.gen }, scaleq := k.scaleq.filter fun e => !(e.resv = i && e.gen = r.gen) }

/-- R358 orel: it waits for the operations that touch the reservation. -/
def execOrel (r : Opnd) (s : State) : Out :=
  withCx s fun c =>
    match s.resv? c.iss.core c.w.wg (c.rd32 c.lead r) with
    | none => s.takeEvent c evStale c.w.activeLanes
    | some (i, _) =>
      if s.touched c.iss.core i then s.stall else (s.modCore c.iss.core fun k => k.freeResv i).advance c c.w true

/-! ## Reading memory as the issuing thread does (R354) -/

/-- The bytes of one piece of a range, each with whether it is uncorrectable. -/
def State.loadPiece (s : State) (c : Cx) (sp : Space) (addr n : Nat) : State × List (Byte × Bool) :=
  match s.place c.iss.core c.w.asid c.w.wg sp addr n false with
  | .error _ => (s, List.replicate n (0, false))
  | .ok pl =>
    let bad (i : Nat) : Bool := match pl with
      | .mem x => s.badByte c.iss.core true { x with pa := x.pa + i }
      | _ => false
    let (s1, bs) := s.ordLoad c false addr n pl
    (s1, bs.zipIdx.map fun b => (b.1, bad b.2))

def State.loadRange (s : State) (c : Cx) (sp : Space) : List (Nat × Nat) → List (Byte × Bool) → State × List (Byte × Bool)
  | [], acc => (s, acc)
  | p :: ps, acc =>
    let (s1, bs) := s.loadPiece c sp p.1 p.2
    s1.loadRange c sp ps (acc ++ bs)

/-- The events of some ranges read, every byte checked (R357); an uncorrectable byte is none. -/
def Cx.rangeEvents (s : State) (c : Cx) (sp : Space) (rs : List (Nat × Nat)) : List MemEv :=
  ((rs.map fun r => piecesOf 128 r.1 r.2).flatten.map fun p =>
    c.events s c.lead false { space := sp, addr := p.1, n := p.2, align := 1, read := false, write := false }).flatten

/-- An operation that reads ranges as the lowest thread: aligned operands first, then every byte, then the effect. -/
def State.readOp (s : State) (c : Cx) (sp : Space) (aligned : Bool) (addr : Nat) (rs : List (Nat × Nat)) (k : State → State) : State :=
  let s1 := s.walks c.iss.core c.w.asid (((rs.map fun r => pieces r.1 r.2).flatten).map fun p => (sp, p.1, false))
  s1.memCheck c [c.lead] sp
    (fun _ => (if aligned then [] else [addrEvent evAddrAlign (spaceCode sp * 4) addr]) ++ c.rangeEvents s1 sp rs) (k s1)

/-- Element `i` of packed bytes (R88), and whether one of its bytes is uncorrectable. -/
def packedElem (bits i : Nat) (bs : List (Byte × Bool)) : Nat × Bool :=
  let lo := bits * i / 8
  let part := (bs.drop lo).take ((bits * i + bits - 1) / 8 - lo + 1)
  (field (leNat (part.map Prod.fst)) (bits * i % 8) bits, part.any Prod.snd)

/-! ## Fills (R357) -/

/-- The elements of source rows: key of row and element, code, poisoned. -/
def State.fillRows (s : State) (c : Cx) (sp : Space) (bits count len stride stepKey : Nat) : Nat → Nat → Nat → List (Nat × Nat × Bool) →
    State × List (Nat × Nat × Bool)
  | 0, _, _, acc => (s, acc)
  | n + 1, row, addr, acc =>
    let (s1, bs) := s.loadRange c sp (piecesOf 128 addr len) []
    let es := (List.range count).map fun j => (row * stepKey + j, packedElem bits j bs)
    s1.fillRows c sp bits count len stride stepKey n (row + 1) (addr + stride) (acc ++ es)

/-- Elements enter a record: contents or index map, and the poison marks. -/
def Resv.take (r : Resv) (meta_ : Bool) (es : List (Nat × Nat × Bool)) : Resv :=
  let bad := (es.filter fun e => e.2.2).map Prod.fst
  let keep (old : List Nat) : List Nat := bad ++ old.filter fun p => !(es.any fun e => e.1 = p)
  let t := es.foldl (fun (t : Tbl Nat) e => t.set e.1 e.2.1) (if meta_ then r.index else r.data)
  if meta_ then { r with index := t, indexPoison := keep r.indexPoison } else { r with data := t, poison := keep r.poison }

/-- A FILL of a record: its rows are read whole. -/
def State.fill (s : State) (c : Cx) (meta_ bSide : Bool) (sp : Space) (h addr stride : Opnd) : State :=
  match s.resv? c.iss.core c.w.wg (c.rd32 c.lead h) with
  | none => s.takeEvent c evStale c.w.activeLanes
  | some (i, r) =>
    let bits := if meta_ then 4 else (mfBits r.fmt)
    let count := if bSide then 64 else r.vals
    let rows := if bSide then r.k else r.rows
    let len := if meta_ then ceilDiv count 2 else packedLen r.fmt count
    let a := c.rd64 c.lead addr
    let st := c.rd32 c.lead stride
    if r.side ≠ bSide || (meta_ && r.sp = .dense) || st < len then s.takeEvent c evShape c.w.activeLanes
    else
      s.readOp c sp (a % 16 = 0 && st % 16 = 0) a ((List.range rows).map fun j => (a + j * st, len)) fun s1 =>
        let (s2, es) := s1.fillRows c sp bits count len st (if bSide then 64 else 8192) rows 0 a []
        let s3 := s2.modCore c.iss.core fun k => { k with resv := k.resv.set i (r.take meta_ es) }
        (s3.pushTile c [i] 0).advance c c.w false

/-- R357 ofill. -/
def execOfill (meta_ : Bool) (sp : Space) (r addr stride : Opnd) (s : State) : Out :=
  withCx s fun c => s.fill c meta_ false sp r addr stride
/-- R357 bfill. -/
def execBfill (sp : Space) (r addr stride : Opnd) (s : State) : Out :=
  withCx s fun c => s.fill c false true sp r addr stride

/-! ## Codebook slots (R359) -/

/-- BF16 values of bytes, and the indices of the poisoned ones. -/
def bf16List (n : Nat) (bs : List (Byte × Bool)) : List (BitVec 16) × List Nat :=
  let es := (List.range n).map fun j => packedElem 16 j bs
  (es.map fun e => BitVec.ofNat 16 e.1, (es.zipIdx.filter fun e => e.1.2).map Prod.snd)

/-- The physical slot of a workgroup's name (R350). -/
def State.cbOf (s : State) (wgk name : Nat) : Nat := (s.wg wgk).cbs.get 0 name

def State.loadSlot (s : State) (c : Cx) (six : Bool) (slot : Nat) (bs : List (Byte × Bool)) : State :=
  let (es, bad) := bf16List (if six then 64 else 16) bs
  let ph := s.cbOf c.w.wg slot
  let s1 := s.modCore c.iss.core fun k =>
    { k with cbslots := k.cbslots.set ph { owner := some c.w.wg, state := if six then .cb6 else .cb4, entries := es, poison := bad } }
  (s1.pushTile c [itemCb ph] 0).advance c c.w false

/-- R359 cbld of a symbol: the codebook's image in the data section. -/
def execCbld (six : Bool) (slot : Fin 8) (sym : BitVec 29) (s : State) : Out :=
  withCx s fun c =>
    let a := (symAddr c.ws sym.toNat).toNat
    s.loadSlot c six slot.val ((List.range (if six then 128 else 32)).map fun i => (dataByte c.ws (a + i), false))

/-- R359 cbld of an address. -/
def execCbldAddr (six : Bool) (sp : Space) (slot : Fin 8) (addr : Opnd) (s : State) : Out :=
  withCx s fun c =>
    let a := c.rd64 c.lead addr
    let n := if six then 128 else 32
    s.readOp c sp (a % 32 = 0) a [(a, n)] fun s1 =>
      let (s2, bs) := s1.loadRange c sp (piecesOf 128 a n) []
      s2.loadSlot c six slot.val bs

/-! ## The scale queue (R360, R361) -/

/-- R360 sclq. -/
def execSclq (sp : Space) (r addr bi : Opnd) (s : State) : Out :=
  withCx s fun c =>
    let core := c.iss.core
    match s.resv? core c.w.wg (c.rd32 c.lead r) with
    | none => s.takeEvent c evStale c.w.activeLanes
    | some (i, x) =>
      if x.blk = .none then s.takeEvent c evShape c.w.activeLanes
      else
        let a := c.rd64 c.lead addr
        let n := if x.side then 64 else x.rows
        s.readOp c sp (a % 16 = 0) a [(a, 2 * n)] fun s1 =>
          if 64 ≤ (s1.core core).scaleq.length then s1.stall
          else
            let (s2, bs) := s1.loadRange c sp (piecesOf 128 a (2 * n)) []
            let (es, bad) := bf16List n bs
            let e : ScaleEntry := { wg := c.w.wg, resv := i, gen := x.gen, bi := c.rd32 c.lead bi, scales := es, poison := bad }
            let s3 := s2.modCore core fun k => { k with scaleq := k.scaleq ++ [e] }
            (s3.pushTile c [i, itemQueue] 0).advance c c.w true

/-- R360 SCALE_ENTRY_ARRIVAL: the scales of an outstanding entry have arrived. -/
def execScaleEntryArrival (core idx : Nat) (s : State) : Out :=
  .next (s.modCore core fun k => { k with scaleq := k.scaleq.zipIdx.map fun e => if e.2 = idx then { e.1 with arrived := true } else e.1 })

/-- The entries that a scaled operand needs (R361): record, generation and block index. -/
def scaleNeeds (i : Nat) (r : Resv) : List (Nat × Nat × Nat) :=
  if r.blk = .none then [] else (List.range (r.k / (blkLen r.blk))).map fun j => (i, r.gen, r.soff + j)

inductive ScaleTake where
  | ok | stall | shape | imbalance
  deriving DecidableEq, Repr

/-- TakeScales of R361, over the entries that have arrived in order. -/
def takeScales (wgk : Nat) (q : List ScaleEntry) (need : List (Nat × Nat × Nat)) : ScaleTake :=
  if 64 < need.length then .shape
  else if (q.takeWhile ScaleEntry.arrived).length < need.length then
    (if q.any fun e => e.wg = wgk && !e.arrived then .stall else .imbalance)
  else if (q.zip need).all fun p => p.1.resv = p.2.1 && p.1.gen = p.2.2.1 && p.1.bi = p.2.2.2 then .ok
  else .imbalance

/-! ## Accumulators (R362, R363) -/

def Core.accFree (k : Core) (u : Nat) : Bool := (k.acc.get {} u).held.isNone

/-- Units of a new accumulator (R362). -/
def Core.pickAcc (k : Core) (w2e rows32 : Bool) : Option (Nat × Option Nat) :=
  let free := (List.range (Config.accUnits w2e)).filter k.accFree
  if rows32 then free.head?.map fun u => (u, none)
  else if w2e then
    match free with
    | u :: v :: _ => some (u, some v)
    | _ => none
  else ((List.range 4).find? fun t => free.contains (2 * t) && free.contains (2 * t + 1)).map fun t => (2 * t, some (2 * t + 1))

/-- R362 aacq. -/
def execAacq (rows32 : Bool) (s : State) : Out :=
  withCx s fun c =>
    let x := s.core c.iss.core
    match x.pickAcc (w2eCore c.iss.core) rows32 with
    | none => s.takeEvent c { code := evAccExhaust } c.w.activeLanes
    | some (u, v) =>
      let a : AccUnit := { held := some c.w.wg, gen := (x.acc.get {} u).gen, first := true, second := v }
      let t1 := x.acc.set u a
      let t2 := match v with
        | some j => t1.set j { held := some c.w.wg, gen := (x.acc.get {} j).gen }
        | none => t1
      (s.setCore c.iss.core { x with acc := t2 }).advance c
        (c.w.putAll c.iss (fun _ => mkVal tyB32 (BitVec.ofNat 64 (accHandle u a))) c.active) true

/-- An accumulator is freed: the generations of its units advance. -/
def Core.freeAcc (k : Core) (u : Nat) : Core :=
  match k.acc.get? u with
  | none => k
  | some a =>
    let t1 := k.acc.set u { gen := nextGen a.gen }
    { k with acc := match a.second with
        | some v => t1.set v { gen := nextGen (k.acc.get {} v).gen }
        | none => t1 }

/-- R362 arel. -/
def execArel (a : Opnd) (s : State) : Out :=
  withCx s fun c =>
    match s.acc? c.iss.core c.w.wg (c.rd32 c.lead a) with
    | none => s.takeEvent c evStale c.w.activeLanes
    | some (u, _) =>
      if s.touched c.iss.core (itemAcc u) then s.stall else (s.modCore c.iss.core fun k => k.freeAcc u).advance c c.w true

/-- The unit and key of an element of an accumulator. -/
def AccUnit.place (a : AccUnit) (u row col : Nat) : Nat × Nat := (if row < 32 then u else a.second.getD u, row % 32 * 64 + col)

def Core.accElem (k : Core) (p : Nat × Nat) : BitVec 48 := (k.acc.get {} p.1).elems.get 0 p.2
def Core.setElem (k : Core) (p : Nat × Nat) (v : BitVec 48) : Core :=
  match k.acc.get? p.1 with
  | some a => { k with acc := k.acc.set p.1 { a with elems := if v = 0 then a.elems.del p.2 else a.elems.set p.2 v } }
  | none => k

/-- The element of a thread's `acrd` or `acwr`, or its event (R363). -/
def Cx.accPlace (s : State) (c : Cx) (t : Thread) (a r col : Opnd) : Except EvInfo (Nat × Nat) :=
  match s.acc? c.iss.core c.w.wg (c.rd32 t a) with
  | none => .error evStale
  | some (u, x) =>
    let i := c.rd32 t r
    let j := c.rd32 t col
    if i < x.rows && j < 64 then .ok (x.place u i j) else .error evShape

/-- R363 acrd. -/
def execAcrd (ty : Ty) (sat rz : Bool) (p : Pred) (a r col : Opnd) (s : State) : Out :=
  laneOp s p ty (fun _ _ => none) fun c t =>
    match c.accPlace s t a r col with
    | .error e => .error e
    | .ok pl => .ok (mkVal ty (BitVec.ofNat 64 (fround ty.fmt sat rz (decodeF ffFa48 ((s.core c.iss.core).accElem pl).toNat))))

/-- R363 acwr. -/
def execAcwr (ty : Ty) (p : Pred) (a r col v : Opnd) (s : State) : Out :=
  withCx s fun c =>
    let on := c.on p
    s.precise c (fun t => if c.off p t then none else (match c.accPlace s t a r col with | .error e => some e | .ok _ => none))
      (let s1 := s.modCore c.iss.core fun k => on.foldl (fun (k : Core) (t : Thread) =>
         match c.accPlace s t a r col with
         | .ok pl => k.setElem pl (BitVec.ofNat 48 (roundF ffFa48 false false (fdec ty.fmt (c.rd ty t v).toNat)))
         | .error _ => k) k
       s1.advance c c.w false)

/-- R363 acwr.zero. -/
def execAcwrZero (a : Opnd) (s : State) : Out :=
  withCx s fun c =>
    match s.acc? c.iss.core c.w.wg (c.rd32 c.lead a) with
    | none => s.takeEvent c evStale c.w.activeLanes
    | some (u, x) =>
      let clear (t : Tbl AccUnit) (i : Nat) : Tbl AccUnit := match t.get? i with | some a => t.set i { a with elems := [] } | none => t
      (s.modCore c.iss.core fun k => { k with acc := (u :: x.second.toList).foldl clear k.acc }).advance c c.w false

/-! ## Multiplies (R364-R366) -/

/-- The value of an element code of a format; codes go through the slot's entries (R97). -/
def mfValue (f : MFmt) (entries : List (BitVec 16)) (code : Nat) : XR :=
  match f with
  | .b8 => XR.ofInt (toSigned 8 code)
  | .i4 => XR.ofInt (toSigned 4 code)
  | .f16 => decodeF ffF16 code
  | .bf16 => decodeF ffBf16 code
  | .e4m3 => decodeF ffE4m3 code
  | .e5m2 => decodeF ffE5m2 code
  | .cb4 | .cb6 => decodeF ffBf16 (cbIndex entries code).toNat

/-- The stored value that stands at position k of A row m; none where sparsity removes it (R364). -/
def Resv.aKey (r : Resv) (m k : Nat) : Option Nat :=
  if r.sp = .dense then some (m * 8192 + k)
  else
    let nm := (spNM r.sp)
    ((List.range nm.1).find? fun i => r.index.get 0 (m * 8192 + k / nm.2 * nm.1 + i) = k % nm.2).map fun i => m * 8192 + k / nm.2 * nm.1 + i

/-- Every group of every row holds strictly ascending indices below M. -/
def Resv.mapOk (r : Resv) : Bool :=
  let nm := (spNM r.sp)
  (List.range r.rows).all fun m => (List.range (r.k / nm.2)).all fun g => (List.range nm.1).all fun i =>
    let at_ (i : Nat) : Nat := r.index.get 0 (m * 8192 + g * nm.1 + i)
    at_ i < nm.2 && (i + 1 = nm.1 || at_ i < at_ (i + 1))

/-- One scaled operand: its record, its codebook slot, and the scale entries of its blocks. -/
structure Side where
  idx : Nat
  r : Resv
  slot : Nat
  cb : CbSlot
  scales : List ScaleEntry
  deriving DecidableEq, Repr

/-- The element of a key is poisoned: its byte, or its entry of the index map (R357, R364). -/
def Resv.bad (r : Resv) (key : Nat) : Bool := r.poison.contains key || r.indexPoison.contains key

def Side.codes (x : Side) : Bool := x.r.fmt = .cb4 || x.r.fmt = .cb6

/-- An element by its key: its code's value, and whether a data error replaces it (R102): element or codebook entry. -/
def Side.elem (x : Side) (key : Nat) : XR × Bool :=
  let code := x.r.data.get 0 key
  (mfValue x.r.fmt x.cb.entries code, x.r.bad key || (x.codes && x.cb.poison.contains code))

/-- The scale at position k of a row or column, and whether it is poisoned. -/
def Side.scale (x : Side) (i k : Nat) : XR × Bool :=
  if x.r.blk = .none then (XR.one, false)
  else
    let e := x.scales.getD (k / (blkLen x.r.blk)) { wg := 0, resv := 0, gen := 0, bi := 0 }
    (decodeF ffBf16 (e.scales.getD i 0).toNat, e.poison.contains i)

def plusZero : XR := .fin false 0 1 0

/-- One product of MatrixCell. -/
def product4 (a b : Side) (m n k : Nat) : XR :=
  match a.r.aKey m k with
  | none => plusZero
  | some key =>
    let x := a.elem key
    let y := b.elem (k * 64 + n)
    let p := a.scale m k
    let q := b.scale n k
    if x.2 || y.2 || p.2 || q.2 then plusZero else ((x.1.mul p.1).mul y.1).mul q.1

/-- g of R101. -/
def groupLen (a b : MFmt) : Nat :=
  let w := Nat.max (mfBits a) (mfBits b)
  if w = 16 then 4 else if w = 8 then 8 else 16

/-- MatrixCell of R101 for one element. -/
def matrixCell (a b : Side) (acc : BitVec 48) (m n : Nat) : BitVec 48 :=
  let g := groupLen a.r.fmt b.r.fmt
  (List.range (a.r.k / g)).foldl (fun acc i => cellStep acc ((List.range g).map fun j => product4 a b m n (i * g + j))) acc

/-! ### Data errors (R367) -/

/-- A replaced element, in the order of R367: source, RES, K, RC. -/
structure DataErr where
  src : Nat
  res : Nat
  k : Nat
  rc : Nat
  deriving DecidableEq, Repr

/-- Codes of a side multiplied at position k. -/
def Side.codesAt (x : Side) (isA : Bool) (k : Nat) : List Nat :=
  if !x.codes then []
  else if isA then (List.range x.r.rows).filterMap fun m => (x.r.aKey m k).map fun key => x.r.data.get 0 key
  else (List.range 64).map fun n => x.r.data.get 0 (k * 64 + n)

def Side.firstUse (x : Side) (isA : Bool) (e k : Nat) : Bool :=
  (x.codesAt isA k).contains e && (List.range k).all fun j => !(x.codesAt isA j).contains e

/-- The errors of a multiply at position k. -/
def dataErrsAt (a b : Side) (k : Nat) : List DataErr :=
  let ea := (List.range a.r.rows).filterMap fun m =>
    (a.r.aKey m k).bind fun key => if a.r.bad key then some { src := 0, res := a.idx, k := k, rc := m } else none
  let eb := (List.range 64).filterMap fun n => if b.r.bad (k * 64 + n) then some { src := 1, res := b.idx, k := k, rc := n } else none
  let cb (x : Side) (isA : Bool) (e : Nat) : List DataErr :=
    if x.cb.poison.contains e && x.firstUse isA e k then [{ src := 2, res := x.slot, k := 0, rc := e }] else []
  let both := a.codes && b.codes && a.slot = b.slot
  let ec := ((List.range 64).map fun e =>
    if both then
      (let usedBefore := (List.range k).any fun j => (a.codesAt true j).contains e || (b.codesAt false j).contains e
       let usedNow := (a.codesAt true k).contains e || (b.codesAt false k).contains e
       if a.cb.poison.contains e && usedNow && !usedBefore then [({ src := 2, res := a.slot, k := 0, rc := e } : DataErr)] else [])
    else cb a true e ++ cb b false e).flatten
  let sc (x : Side) (i : Nat) : List DataErr :=
    if x.r.blk ≠ .none && k % (blkLen x.r.blk) = 0 && (x.scale i k).2 then [{ src := 3, res := x.idx, k := k, rc := i }] else []
  let es := ((List.range 64).map fun i => (if i < a.r.rows then sc a i else []) ++ sc b i).flatten
  ea ++ eb ++ ec ++ es

/-- The status after some errors (R367). -/
def statusWith (old : W64) (es : List DataErr) : W64 :=
  match es with
  | [] => old
  | e :: _ =>
    let cnt := Nat.min (field old.toNat 0 32 + es.length) 0xFFFFFFFF
    if old.getLsbD 63 then BitVec.ofNat 64 (field old.toNat 32 32 * 2 ^ 32 + cnt) ||| (1#64 <<< 62)
    else BitVec.ofNat 64 (2 ^ 63 + (if es.length = 1 then 0 else 2 ^ 62) + e.src * 2 ^ 60 + e.res * 2 ^ 55 + e.k * 2 ^ 42 + e.rc * 2 ^ 36 + cnt)

/-! ### The instruction -/

/-- The slot of a side's record, where a code format needs its state (R97): none is FORMAT. -/
def State.sideOf (s : State) (core wgk idx : Nat) (r : Resv) (scales : List ScaleEntry) : Option Side :=
  let ph := s.cbOf wgk r.cbs
  let cb := (s.core core).cbslots.get {} ph
  let ok : Bool := match r.fmt with
    | .cb4 => cb.state = .cb4
    | .cb6 => cb.state = .cb6
    | _ => true
  if ok then some { idx := idx, r := r, slot := ph, cb := cb, scales := scales } else none

/-- Core cycles of a multiply (R366). -/
def mulCycles (w2e : Bool) (a b : Resv) : Nat :=
  let passes := if w2e && !a.rows32 then 2 else 1
  let wide := Nat.max (mfBits a.fmt) (mfBits b.fmt)
  let four (f : MFmt) : Bool := f = .i4 || f = .cb4
  let rate := if wide = 16 then 1 else if wide = 8 || a.fmt = .cb6 || b.fmt = .cb6 then 2 else if four a.fmt && four b.fmt then 4 else 2
  let nm := (spNM a.sp)
  -- min(M / N, 2), as a fraction
  let (num, den) := if 2 * nm.1 ≤ nm.2 then (2, 1) else (nm.2, nm.1)
  ceilDiv (a.k * passes * den) (rate * num) + 24

/-- Every element of the accumulator updated. -/
def State.multiply (s : State) (core u : Nat) (x : AccUnit) (a b : Side) : State :=
  s.modCore core fun k =>
    let unit (base i : Nat) (t : Tbl AccUnit) : Tbl AccUnit :=
      match k.acc.get? i with
      | none => t
      | some y =>
        let es := (List.range 2048).map fun j => (j, matrixCell a b (y.elems.get 0 j) (base + j / 64) (j % 64))
        t.set i { y with elems := es.filter fun e => e.2 ≠ 0 }
    let t1 := unit 0 u k.acc
    { k with acc := match x.second with | some v => unit 32 v t1 | none => t1 }

/-- Steps 6 and 7 of R364: the convergence register, then the scale entries. -/
def State.finishMul (s : State) (c : Cx) (u : Nat) (x : AccUnit) (ia : Nat) (ra : Resv) (ib : Nat) (rb : Resv) : State :=
  let core := c.iss.core
  let need := scaleNeeds ia ra ++ scaleNeeds ib rb
  let q := (s.core core).scaleq
  match takeScales c.w.wg q need with
  | .shape => s.takeEvent c evShape c.w.activeLanes
  | .imbalance => s.takeEvent c { code := evQueueImbalance } c.w.activeLanes
  | .stall => s.stall
  | .ok =>
    let na := (scaleNeeds ia ra).length
    match s.sideOf core c.w.wg ia ra (q.take na), s.sideOf core c.w.wg ib rb ((q.take need.length).drop na) with
    | some a, some b =>
      let s1 := s.modCore core fun k => { k with scaleq := k.scaleq.drop need.length }
      let s2 := s1.multiply core u x a b
      let errs := ((List.range ra.k).map (dataErrsAt a b)).flatten
      let s3 := s2.modWg c.w.wg fun g => { g with mstat := statusWith g.mstat errs }
      let last := ((s3.core core).tileOps.map TileOp.due).foldl Nat.max s3.cycle
      let items := [ia, ib, itemAcc u, itemQueue, itemCb a.slot, itemCb b.slot] ++ (x.second.map itemAcc).toList
      (s3.pushTile c items (last + mulCycles (w2eCore core) ra rb)).advance c (c.w.mapActive fun t => { t with consumed := false }) true
    | _, _ => s.takeEvent c { code := evFormat } c.w.activeLanes

/-- A MULTIPLY (R364): the checks in their order. -/
def mulOp (s : State) (sparse : Bool) (a ra rb : Opnd) (cv : Option (Fin 16)) : Out :=
  withCx s fun c =>
    let core := c.iss.core
    let wgk := c.w.wg
    match s.acc? core wgk (c.rd32 c.lead a), s.resv? core wgk (c.rd32 c.lead ra), s.resv? core wgk (c.rd32 c.lead rb) with
    | some (u, x), some (ia, A), some (ib, B) =>
      if A.side || !B.side || A.k ≠ B.k || A.rows ≠ x.rows || (sparse = (A.sp = .dense)) || (sparse && !A.mapOk) then
        s.takeEvent c evShape c.w.activeLanes
      else if (s.sideOf core wgk ia A []).isNone || (s.sideOf core wgk ib B []).isNone then s.takeEvent c { code := evFormat } c.w.activeLanes
      else
        match cv with
        | none => s.finishMul c u x ia A ib B
        | some v =>
          if c.lead.consumed then s.finishMul c u x ia A ib B
          else
            let phys := s.cvOf wgk v.val
            match (s.cv core phys).state with
            | .ready =>
              let s1 := s.cvConsume core phys
              let s2 := s1.modWarp c.key fun w => w.mapActive fun t => { t with consumed := true }
              s2.finishMul (s2.again c) u x ia A ib B
            | .open_ => s.stall
            | .idle | .broken => s.takeEvent c { code := evConvergenceMismatch, qual := v.val } c.w.activeLanes
    | _, _, _ => s.takeEvent c evStale c.w.activeLanes

/-- R364 mma. -/
def execMma (a ra rb : Opnd) (cv : Option (Fin 16)) (s : State) : Out := mulOp s false a ra rb cv
/-- R364 mmsp. -/
def execMmsp (a ra rb : Opnd) (cv : Option (Fin 16)) (s : State) : Out := mulOp s true a ra rb cv

/-- R367 mstat: it waits for the workgroup's tile operations. -/
def execMstat (clr : Bool) (s : State) : Out :=
  withCx s fun c =>
    if (s.core c.iss.core).tileOps.any fun o => o.wg = c.w.wg then s.stall
    else
      let v := (s.wg c.w.wg).mstat
      let s1 := if clr then s.modWg c.w.wg fun g => { g with mstat := 0 } else s
      s1.advance c (c.w.putAll c.iss (fun _ => mkVal tyB64 v) c.active) clr

/-- Release of a workgroup's matrix state (R350, R361). -/
def Core.freeMatrix (k : Core) (wgk : Nat) : Core :=
  let rs := (k.resv.filter fun p => p.2.held = some wgk).map Prod.fst
  let us := (k.acc.filter fun p => p.2.held = some wgk && p.2.first).map Prod.fst
  let k1 := us.foldl Core.freeAcc (rs.foldl Core.freeResv k)
  { k1 with
    cbslots := k1.cbslots.filter fun p => p.2.owner ≠ some wgk
    scaleq := k1.scaleq.filter fun e => e.wg ≠ wgk
    scaleqOwner := if k1.scaleqOwner = some wgk then none else k1.scaleqOwner }

end Sys2Proof.Machine
end

