-- ==== Sys2Proof/Machine/Stops.lean ====
section
/-! DEFINITION. Sys2Proof/Machine/Stops.lean: stopping warps, units and launches before their threads exit (R110, R211, R328): held
lines are published as at a phase boundary without release, accesses not yet performed are dropped, the threads are gone. -/

namespace Sys2Proof.Machine

open Sys2Proof

/-- The accesses of a warp that wait at their homes are dropped; their reserved records become FILLER (R407). -/
def State.dropHomeOps (s : State) (o : WarpName) : State :=
  [0, 1, 2, 3].foldl (fun s i =>
    let mine := (s.die i).det.filter fun h => h.owner = o
    let s1 := s.modDie i fun d => { d with det := d.det.filter fun h => h.owner ≠ o }
    mine.foldl (fun s h =>
      let site := siteOf h.core
      let recs := h.log.toList ++ h.watch.map Prod.fst
      recs.foldl (fun s pa => s.filler site pa) s) s1) s

/-- A phase boundary of a warp that stops: its records are reserved where they fit. -/
def State.lastBoundary (s : State) (key : Nat) : State :=
  match s.warps.get? key with
  | none => s
  | some w =>
    let core := key / 16
    let n := ((s.core core).hold.filter fun e => e.owner = w.name && e.phase.isNone).length
    if n = 0 then s
    else if s.logMode (siteOf core) w.asid w.lseq = 1 then
      match s.reserve (siteOf core) n with
      | some (pa, s1) => s1.boundaryOf core key w.name (some pa)
      | none => s.boundaryOf core key w.name none
    else s.boundaryOf core key w.name none

/-- A resident warp is stopped for good. -/
def State.killWarp (s : State) (key : Nat) : State :=
  match s.warps.get? key with
  | none => s
  | some w =>
    let s1 := (s.dropHomeOps w.name).lastBoundary key
    let s2 : State := if s1.issue.any fun i => wkey i.core i.slot = key then { s1 with issue := none } else s1
    s2.threadsGone key ((w.threads.filter Thread.live).map Thread.lane)

def State.killAll (s : State) (p : Warp → Bool) : State :=
  (s.warps.filter fun k => p k.2).foldl (fun s k => s.killWarp k.1) s

/-- Every walker of a launch gives up its interval and is FREE; the launch's share is gone. -/
def State.freeWalkers (s : State) (asid lseq : Nat) : State :=
  let s1 := s.modLaunch asid lseq fun l => { l with share := [] }
  { s1 with
    clusters := s1.clusters.mapVals fun _ c =>
      { c with
        walkers := c.walkers.filter fun w => !(w.2.asid = asid && w.2.lseq = lseq)
        splitReqs := c.splitReqs.filter fun r => !(r.asid = asid && r.lseq = lseq) }
    dies := s1.dies.mapVals fun _ d =>
      { d with ctxs := d.ctxs.mapVals fun _ c => { c with savedWalkers := c.savedWalkers.filter fun w => !(w.2.2.asid = asid && w.2.2.lseq = lseq) } } }

/-- A LAUNCH ENDS with an error (R211): the first error is the one reported. Its remaining units are not dispatched; a
translation fault (2) or a cancellation (4) also stops the units that run. -/
def State.stopLaunch (s : State) (asid lseq status code : Nat) : State :=
  match s.launch? asid lseq with
  | none => s
  | some l =>
    if l.status ≠ 0 || l.done then s
    else
      let s1 := (s.modLaunch asid lseq fun l => { l with status := status, code := code }).freeWalkers asid lseq
      if status = 3 then s1
      else
        let s2 := s1.killAll fun w => w.asid = asid && w.lseq = lseq
        let mine (u : SavedUnit) : Bool := u.asid = asid && u.lseq = lseq
        let landed (x : Landing) : Bool := x.warp.asid = asid && x.warp.lseq = lseq
        { s2 with
          dies := s2.dies.mapVals fun _ d =>
            { d with
              resume := d.resume.filter fun u => !mine u, parked := d.parked.filter fun u => !mine u
              landings := d.landings.filter fun l => !landed l.2, reland := d.reland.filter fun x => !landed x
              ctxs := d.ctxs.mapVals fun _ c =>
                { c with saveUnits := c.saveUnits.filter fun u => !mine u, savedLandings := c.savedLandings.filter fun l => !landed l.2 } } }

/-- A die takes part in a launch (R237). -/
def Launch.takesPart (l : Launch) (site : Nat) : Bool := l.clusters.any fun c => c / 4 = site

/-- A translation fault of a launch that runs (R110): the host event record, and the stop. -/
def State.translationFault (s : State) (asid lseq code fsym pix aux : Nat) : State :=
  match s.launch? asid lseq with
  | none => s
  | some l =>
    if l.status ≠ 0 then s
    else
      let s1 := s.postAny asid l.takesPart
        { rkind := 1, code := code, lseq := lseq, fsym := fsym, pix := pix, modid := (s.modules[l.modIdx]?.map Module.modid).getD 0, aux := aux }
      s1.stopLaunch asid lseq 2 code

end Sys2Proof.Machine
end

