-- ==== Sys2Proof/Machine/Control.lean ====
section
/-! DEFINITION. Sys2Proof/Machine/Control.lean: the control instructions 0x00-0x0A (R186-R190) and lane masks 0x0B-0x0E
(R191-R194). -/

namespace Sys2Proof.Machine

open Sys2Proof

/-! ## Dominators (R179) -/

/-- Blocks that the last instruction of a block may continue at. -/
def blockSuccs (b : BlockInfo) : List Nat :=
  match b.instrs.getLast? with
  | some (_, .br _ t) => [t.block.toNat]
  | some (_, .brc _ _ _ t f) => [t.block.toNat, f.block.toNat]
  | some (_, .switch _ _ d cs) => d.block.toNat :: cs.map fun c => c.block.toNat
  | _ => []

/-- Blocks reached without passing `avoid`. -/
def reachGo (succ : List (List Nat)) (avoid : Nat) : Nat → List Nat → List Nat → List Nat
  | 0, _, seen => seen
  | _, [], seen => seen
  | k + 1, x :: work, seen =>
    if x = avoid || seen.contains x then reachGo succ avoid k work seen else reachGo succ avoid k (succ.getD x [] ++ work) (x :: seen)

def dominates (bs : List BlockInfo) (a b : Nat) : Bool :=
  let succ := bs.map blockSuccs
  a = b || !(reachGo succ a (bs.length + (succ.map List.length).foldl (· + ·) 1) [0] []).contains b

/-! ## Branches -/

/-- A thread stands at the first instruction of a block with its arguments (R38). -/
def Thread.enter (t : Thread) (b : BlockInfo) (args : List Val) : Thread :=
  { t with pc := { t.pc with pix := b.pix }, vals := setVals b.argNum args t.vals }

/-- The edges of a branch, in operand order: the target of each, with the index of the chosen edge per thread. -/
structure Branch where
  edges : List Target
  choose : Thread → Nat
  /-- BH of R179. -/
  bh : Nat
  likely : Nat
  unlikely : Nat

/-- Whether two edges lead to the same place (R178). -/
def edgeGroup (edges : List Target) (i : Nat) : Nat := edges.findIdx fun t => some t.block = (edges[i]?.map Target.block)

/-- Whether some thread of the group takes an edge. -/
def firstOf (sel : List Nat) (k : Nat) : Bool := sel.contains k

/-- A BRANCH of the group: every thread enters its target; threads with different targets divide (R179, R187). A region head
at a target commits (R122). -/
def State.branch (s : State) (c : Cx) (br : Branch) : State :=
  match c.active.head?.bind fun t => moduleFunc c.ws t.pc.fsym with
  | none => { s with issue := none }
  | some f =>
    let kind (t : Thread) : Nat := edgeGroup br.edges (br.choose t)
    let enter (t : Thread) : Thread :=
      match br.edges[br.choose t]? with
      | none => t
      | some e =>
        match f.blocks[e.block.toNat]? with
        | none => t
        | some b => t.enter b (edgeVals c t b.args e.args)
    let commits (k : Nat) : Bool := ((br.edges[k]?).bind fun e => f.blocks[e.block.toNat]?).any fun b => (c.plan c.lead.pc.fsym).isHead b.pix
    let idemAt (k : Nat) : Option Nat := (br.edges[k]?).bind fun e =>
      if (f.blocks[e.block.toNat]?).any BlockInfo.rh then idemOf f.blocks e.block.toNat else none
    let sel := c.active.map kind
    let kinds := sel.foldl (fun (acc : List Nat) k => if acc.contains k then acc else acc ++ [k]) []
    let turn := if br.bh = 1 && firstOf sel (edgeGroup br.edges br.likely) then edgeGroup br.edges br.likely
      else if br.bh = 2 && firstOf sel (edgeGroup br.edges br.unlikely) then edgeGroup br.edges br.unlikely
      else sel.headD 0
    let move (t : Thread) : Thread :=
      let t1 := enter t
      let t2 : Thread := if commits (kind t) then
          (match idemAt (kind t) with | some r => { t1.commit c.flip with idem := some (r, (t1.commit c.flip).ck) } | none => t1.commit c.flip)
        else t1
      if kind t = turn then t2 else { t2 with grp := c.w.nextGrp + kind t }
    let w1 := c.w.mapActive move
    let w2 : Warp := if sel.any commits then { w1 with ccnt := w1.ccnt + 1, hangBase := s.cycle } else w1
    let w3 : Warp := if kinds.length ≤ 1 then w2
      else
        { w2 with
          nextGrp := w2.nextGrp + br.edges.length
          stamps := kinds.foldl (fun st k => if k = turn then st else st.set (w2.nextGrp + k) w2.stampClock) w2.stamps
          stampClock := w2.stampClock + 1
          turnStart := s.cycle, fairPin := none }
    { s.setWarp c.key w3.mergeAll with issue := none }

def hintBh : Hint → Nat
  | .none => 0 | .likely => 1 | .unlikely => 2 | .uniform => 3

/-- BH of a `brc` without a hint (R179). -/
def brcBh (c : Cx) (t f : Nat) : Nat :=
  match c.active.head?.bind fun th => (moduleFunc c.ws th.pc.fsym).map fun fn => (th, fn) with
  | none => 0
  | some (th, fn) =>
    match blockAt fn.blocks th.pc.pix with
    | none => 0
    | some (here, _) => if dominates fn.blocks t here then 1 else if dominates fn.blocks f here then 2 else 0

/-- R187 br. -/
def execBr (_pipe : Bool) (t : Target) (s : State) : Out :=
  withCx s fun c => s.branch c { edges := [t], choose := fun _ => 0, bh := 0, likely := 0, unlikely := 0 }

/-- R187 brc. -/
def execBrc (hint : Hint) (_pipe : Bool) (p : Opnd) (t f : Target) (s : State) : Out :=
  withCx s fun c =>
    s.branch c { edges := [t, f], choose := fun th => if c.rdP th p then 0 else 1,
                 bh := if hint = .none then brcBh c t.block.toNat f.block.toNat else hintBh hint, likely := 0, unlikely := 1 }

/-- R187 switch: cases first, then the default. -/
def execSwitch (uniform : Bool) (i : Opnd) (dflt : Target) (cases : List Target) (s : State) : Out :=
  withCx s fun c =>
    s.branch c { edges := cases ++ [dflt], choose := fun th => Nat.min (c.rd32 th i) cases.length,
                 bh := if uniform then 3 else 0, likely := 0, unlikely := cases.length }

/-! ## Calls -/

/-- Spilled values of a function's unit (R104, R131): NSPILL. -/
def Cx.nspill (c : Cx) (fsym : Nat) : Nat := (c.plan fsym).nspill

/-- Spill slots that SPSTRIDE holds: word 4 of the descriptor, in units of 512 bytes (R131, R421). -/
def State.spillSlots (s : State) (c : Cx) : Nat :=
  match (s.die c.site).ctx? c.w.asid with
  | some (_, x) => field (x.words.getD 4 0).toNat 0 17
  | none => 65536

/-- The warp enters a unit: SLIPW is loaded (R133). -/
def Cx.enterUnit (c : Cx) (fsym : Nat) (w : Warp) : Warp := 
  { w with slipw := XIn.slipw { mc := c.mc, ws := c.ws } (w.uname c.iss.core fsym) }

/-- R188 call: the return point is pushed, the callee's parameters take the arguments, SB rises by the caller's spills (R441),
and the callee's first region begins. A call that would carry a thread's spill slots too far ends the launch (R441, R110). -/
def execCall (ty : Ty) (f : BitVec 29) (args : List Opnd) (s : State) : Out :=
  withCx s fun c =>
    match moduleFunc c.ws f.toNat with
    | none => { s with issue := none }
    | some fn =>
      let need (t : Thread) : Nat := t.sb + c.nspill t.pc.fsym + c.nspill f.toNat
      if c.active.any fun t => s.spillSlots c < need t then
        s.translationFault c.w.asid c.w.lseq evXlateLimit c.lead.pc.fsym c.lead.pc.pix 0
      else
        let w1 := c.w.mapActive fun t =>
          let inc := c.nspill t.pc.fsym
          { t with
            stack := { ret := { t.pc with pix := t.pc.pix + 1 }, dest := if ty = tyVoid then none else some c.iss.n, vals := t.vals, sbInc := inc } :: t.stack
            sb := t.sb + inc
            vals := setVals 0 (edgeVals c t fn.params args) []
            pc := { fsym := f.toNat, pix := 0 } }
        s.goTo c (c.enterUnit f.toNat w1) true

def Thread.return (t : Thread) (v : Option Val) : Thread :=
  match t.stack with
  | [] => t
  | fr :: rest =>
    { t with pc := fr.ret, stack := rest, sb := t.sb - fr.sbInc
             vals := match fr.dest, v with
               | some d, some x => fr.vals.set d x
               | _, _ => fr.vals }

/-- A return: where the call ended a region, the caller's next region begins after it (R120). A handler's return at its first
frame ends the handler (R381). -/
def State.retWith (s : State) (c : Cx) (val : Thread → Option Val) : State :=
  let w1 := c.w.mapActive fun t =>
    if t.stack.isEmpty then
      match t.handler with
      | some h => { t with handler := some { h with action := (val t).map Val.bits }, wait := .none, halted := true }
      | none => t
    else t.return (val t)
  let w2 := (w1.commitActive c.flip s.cycle).divideByPlace s.cycle
  { s.setWarp c.key (c.enterUnit ((w2.active.head?.map fun t => t.pc.fsym).getD 0) w2).mergeAt with issue := none }

/-- R188 ret. -/
def execRet (s : State) : Out := withCx s fun c => s.retWith c fun _ => none

/-- The declared return type of the executing function (R33). -/
def Cx.retTy (c : Cx) : Ty := ((moduleFunc c.ws c.lead.pc.fsym).map FuncInfo.rty).getD tyVoid

/-- R188 ret with a value. -/
def execRetValue (v : Opnd) (s : State) : Out := withCx s fun c => s.retWith c fun t => some (c.val c.retTy t v)

/-- R188 exit: a phase boundary, then the threads leave every mask and count, and the warp's slot and workgroup may end. -/
def execExit (s : State) : Out :=
  withCx s fun c =>
    s.withBoundary c fun s1 =>
      let lanes := c.w.activeLanes
      let s2 : State := { s1 with issue := none }
      let s3 := s2.threadsGone c.key lanes
      s3.modWarp c.key fun w => if w.ready w.turn then w else w.endTurn s.cycle

/-- R188 unreachable. -/
def execUnreachable (s : State) : Out := withCx s fun c => s.takeEvent c { code := evUnreachable } c.w.activeLanes

/-- R189 select. -/
def execSelect (ty : Ty) (p : Pred) (x a b : Opnd) (s : State) : Out :=
  laneOp s p ty (fun c t => if ty = tyDyn then some (c.val ty t a) else none) fun c t =>
    if ty = tyDyn then
      let va := c.val ty t a
      let vb := c.val ty t b
      match commonTag (fun _ => true) [va, vb] with
      | some u => .ok (mkVal u (if c.rdP t x then va.bits else vb.bits))
      | none => .error { code := evFormat }
    else .ok (mkVal ty (if c.rdP t x then c.rd ty t a else c.rd ty t b))

/-- R190 nop. -/
def execNop (s : State) : Out := withCx s fun c => s.advance c c.w false
/-- R190 regn. -/
def execRegn (s : State) : Out := withCx s fun c => s.advance c c.w true
/-- R190 yield. -/
def execYield (s : State) : Out :=
  withCx s fun c =>
    let s1 := s.advance c c.w false
    s1.modWarp c.key fun w => { w with yielded := w.yielded ++ [w.turn] }.endTurn s.cycle

/-! ## Lane masks -/

/-- The executing threads change their own bits (R192); the change may complete a wait (R193). -/
def State.maskChange (s : State) (c : Cx) (k : Fin 12) (set : Bool) (pick : Thread → Bool) : State :=
  let ls := lanesOf ((c.active.filter pick).map Thread.lane)
  let w1 := c.w.setMask k (if set then c.w.mask k ||| ls else c.w.mask k &&& ~~~ls)
  (s.advance c w1 false).settleMask c.key k

/-- R192 join. -/
def execJoin (k : Fin 12) (s : State) : Out := withCx s fun c => s.maskChange c k true fun _ => true
/-- R192 join with a condition. -/
def execJoinCond (k : Fin 12) (p : Opnd) (s : State) : Out := withCx s fun c => s.maskChange c k true fun t => c.rdP t p
/-- R192 leave. -/
def execLeave (k : Fin 12) (s : State) : Out := withCx s fun c => s.maskChange c k false fun _ => true
/-- R192 leave with a condition. -/
def execLeaveCond (k : Fin 12) (p : Opnd) (s : State) : Out := withCx s fun c => s.maskChange c k false fun t => c.rdP t p

/-- R194 mrd.p. -/
def execMrdP (k : Fin 12) (s : State) : Out :=
  laneOp s none tyP noFirst fun c t => .ok (mkVal tyP (boolBits (laneIn (c.w.mask k) t.lane)))
/-- R194 mrd.b64. -/
def execMrdB64 (k : Fin 12) (h : Fin 2) (s : State) : Out :=
  laneOp s none tyB64 noFirst fun c _ => .ok (mkVal tyB64 ((c.w.mask k >>> (64 * h.val)).setWidth 64))

end Sys2Proof.Machine
end

