-- ==== Sys2Proof/Machine/Verify.lean ====
section
/-! DEFINITION. Sys2Proof/Machine/Verify.lean: what the lapidary verifies before a launch runs (R51-R54): the image (R61, R62),
function records (R63-R65), generations (R26), operand types (R140), availability (R40), blocks (R37, R38), calls (R36), regions
(R49), `.walk` (R50); and the call closure of a kernel with what it names (R51, R209). -/

namespace Sys2Proof.Machine

open Sys2Proof

/-- A breach: where it stands (a word offset, or a portable index), and its event code. -/
abbrev Breach := Nat × Nat

/-- The breach of R54 among some: lowest place, then lowest code. -/
def firstBreach : List Breach → Option Breach
  | [] => none
  | b :: bs =>
    match firstBreach bs with
    | none => some b
    | some c => if c.1 < b.1 || (c.1 = b.1 && c.2 < b.2) then some c else some b

def breachIf (p : Bool) (at_ code : Nat) : List Breach := if p then [(at_, code)] else []

def codeIf (p : Bool) (code : Nat) : List Nat := if p then [code] else []

/-! ## Generations (R26) -/

def opGen (op : Nat) : Nat :=
  if op ∈ [0x4E, 0x5F, 0x67, 0x7E, 0xB2, 0xB5, 0xB6, 0xB7] then 3
  else if op ∈ [0x5B, 0x5C, 0x64, 0x65, 0x66, 0x79, 0xA4] then 2 else 1

def tyGen (t : Ty) : Nat := if t.fmt = .dyn then 3 else if t.fmt = .cb6 then 2 else 1

/-- Whether a type may stand in a module of the generation. -/
def tyIn (gen : Nat) (t : Ty) : Bool := t.legal && tyGen t ≤ gen

/-- Breaches of R26 by operand-like modifiers: formats (TYPE) and sparse forms (VERIFY). -/
def modGen (gen : Nat) : Instr → Option Nat
  | .orsv _ f _ _ sp _ _ _ =>
    if f = .cb6 && gen < 2 then some evType else if sp ≠ .dense && gen < 2 then some evVerify else none
  | .cbld c _ _ | .cbldAddr c _ _ _ => if c && gen < 2 then some evType else none
  | _ => none

/-! ## Reading blocks whatever they hold -/

/-- Words that `n` operand words take with their literals. -/
def operandSpan : Nat → List W32 → Option Nat
  | 0, _ => some 0
  | n + 1, ws =>
    match ws with
    | [] => none
    | w :: ws' =>
      let lits := if (w.extractLsb' 30 2).toNat = 3 then (if w.getLsbD 0 then 2 else 1) else 0
      if ws'.length < lits then none else (operandSpan n (ws'.drop lits)).map (· + 1 + lits)

/-- The words of an instruction, decodable or not. -/
def instrSpan : List W32 → Option Nat
  | [] => none
  | h :: ws =>
    match (h.extractLsb' 15 3).toNat with
    | 7 => match ws with
      | c :: ws' => (operandSpan c.toNat ws').map (· + 2)
      | [] => none
    | n => (operandSpan n ws).map (· + 1)

/-- An instruction as verification meets it: `errs` are the codes that its own words give. Where they do not decode, `i` is the
instruction they would be without what keeps them from decoding, whose operands are still checked (R54). -/
structure VInstr where
  n : Nat
  i : Instr
  errs : List Nat
  deriving DecidableEq, Repr

/-! ## Words that do not decode (R54, R57-R60, R67) -/

/-- An operand word that must be a value reference and is none: distance 0, which no value bears (R58). -/
def badRef : Raw := .o (.ref 0)

/-- Every operand word, `none` for one that R58-R60 reject, and whether the words last. -/
def parseAll : Nat → List W32 → List (Option Raw)
  | 0, _ => []
  | n + 1, ws =>
    match ws with
    | [] => []
    | w :: ws' =>
      let lits := if (w.extractLsb' 30 2).toNat = 3 then (if w.getLsbD 0 then 2 else 1) else 0
      (parseOp ws).map Prod.fst :: parseAll n (ws'.drop lits)

/-- Numbers made of some of the bits of `m`, `m` itself first, then those with fewer bits. -/
def subMasks (m : Nat) : List Nat :=
  let bits := (List.range 15).filter fun b => m.testBit b
  let all := bits.foldl (fun acc b => acc ++ acc.map fun x => x - 2 ^ b) [m]
  ((List.range (bits.length + 1)).map fun k => all.filter fun x => (bits.filter fun b => !x.testBit b).length = k).flatten

/-- Operand lists of every length nearest to the given one. -/
def resized (rs : List Raw) : List (List Raw) :=
  rs :: (((List.range rs.length).reverse.map rs.take) ++ (List.range 8).map fun k => rs ++ List.replicate (k + 1) badRef)

/-- The instruction's own checks, but for the number of its operand words (R57). -/
def wfButCount (i : Instr) : Bool :=
  match i with
  | .switch u x d cs => (Instr.switch u x d []).wf && cs.all fun t => (Instr.br false t).wf
  | .call ty f args => (Instr.call ty f []).wf && args.all Opnd.portable
  | i => i.wf

/-- What an instruction's header and operand words would be with the fewest MOD bits cleared, bad operand words replaced and
operands dropped or added; and whether something other than the number of operands was at fault. -/
def repaired (op : Nat) (ty : Ty) (m : Nat) (os : List (Option Raw)) : Option (Instr × Bool) :=
  let bad := os.any Option.isNone
  let rss := if bad then [os.map fun o => o.getD badRef, os.map fun o => o.getD (.o (.imm 0))] else [os.map fun o => o.getD badRef]
  (subMasks m).findSome? fun m' =>
    if !opType op m' ty then none
    else
      rss.findSome? fun rs =>
        (resized rs).findSome? fun rs' => (build op ty m' rs').map fun i => (i, bad || m' ≠ m || !wfButCount i)

/-- The breaches of an instruction's own words, with the instruction whose operands are checked beside them. -/
def wordErrs (ws : List W32) : Instr × List Nat :=
  match decodeWords ws, ws with
  | .ok (i, _), _ => (i, [])
  | .error e, [] => (.nop, [e])
  | .error e, h :: ws' =>
    let op := (h.extractLsb' 24 8).toNat
    let ty := Ty.ofCode (h.extractLsb' 18 6)
    let m := (h.extractLsb' 0 15).toNat
    if e < evVerify then (.nop, [e])
    else
      match operandWords (h.extractLsb' 15 3).toNat ws' with
      | none => (.nop, [evVerify])
      | some (n, ws'') =>
        match repaired op ty m (parseAll n ws'') with
        | none => (.nop, [evVerify])
        | some (i, other) => (i, if 256 < n then evXlateLimit :: codeIf other evVerify else [evVerify])

structure VBlock where
  args : List Ty
  argNum : Nat
  pix : Nat
  rh : Bool
  re : Bool
  instrs : List VInstr
  errs : List Nat
  deriving DecidableEq, Repr

def headErr (gen : Nat) (h : W32) : Option Nat :=
  let op := (h.extractLsb' 24 8).toNat
  if opAssigned op && gen < opGen op then some evIllegalOp else none

def scanInstrs (gen : Nat) : Nat → Nat → List W32 → List VInstr × Nat × List W32 × Bool
  | 0, n, ws => ([], n, ws, true)
  | k + 1, n, ws =>
    match ws with
    | [] => ([{ n := n, i := .nop, errs := [evVerify] }], n, [], false)
    | h :: _ =>
      let (i, es) := wordErrs ws
      let own := (headErr gen h).toList ++ es ++ codeIf (gen < tyGen (Ty.ofCode (h.extractLsb' 18 6))) evType ++ (modGen gen i).toList
      match instrSpan ws with
      | none => ([{ n := n, i := i, errs := evVerify :: own }], n, [], false)
      | some len =>
        let r := scanInstrs gen k (if (instrDefTy i).isSome then n + 1 else n) (ws.drop len)
        ({ n := n, i := i, errs := own } :: r.1, r.2)

/-- Type words, with the codes of their breaches (R30, R32, R63). -/
def typeErrs (gen : Nat) (w : W32) : List Nat :=
  let t := Ty.ofCode (w.extractLsb' 0 6)
  (if w.toNat < 64 then [] else [evVerify]) ++ (if tyIn gen t && t.fmt ≠ .void then [] else [evType])

def scanBlocks (gen : Nat) : Nat → Nat → Nat → List W32 → List VBlock × List W32 × Bool
  | 0, _, _, ws => ([], ws, true)
  | k + 1, n, pix, ws =>
    match ws with
    | [] => ([{ args := [], argNum := n, pix := pix, rh := false, re := false, instrs := [], errs := [evVerify] }], [], false)
    | w :: ws' =>
      let argc := field w.toNat 0 7
      let tw := ws'.take argc
      let args := tw.map fun x => Ty.ofCode (x.extractLsb' 0 6)
      let ic := field w.toNat 9 23
      let r := scanInstrs gen ic (n + argc) (ws'.drop argc)
      let b : VBlock :=
        { args := args, argNum := n, pix := pix, rh := w.toNat.testBit 7, re := w.toNat.testBit 8, instrs := r.1
          errs := (tw.map (typeErrs gen)).flatten ++ (if 64 < argc then [evXlateLimit] else []) ++
            (if ic = 0 || tw.length < argc then [evVerify] else []) }
      if r.2.2.2 && tw.length = argc then
        let q := scanBlocks gen k r.2.1 (pix + r.1.length) r.2.2.1
        (b :: q.1, q.2)
      else ([b], [], false)

/-- A function record as verification meets it. A count of R53 that the record exceeds is a breach of that table alone. -/
structure FuncScan where
  sym : Nat
  kern : Bool
  rty : Ty
  params : List Ty
  blocks : List VBlock
  /-- Breaches of its declarations, which count as index 0 (R54). -/
  decl : List Nat
  deriving DecidableEq, Repr

/-- R50: a position that is a field boundary. -/
def isBoundary (widths : List Nat) (p : Nat) : Bool :=
  (List.range (widths.length + 1)).any fun i => (widths.take i).foldl (· + ·) 0 = p

def WalkDecl.ok (w : WalkDecl) : Bool :=
  let t := w.widths.foldl (· + ·) 0
  let g := w.gangB.getD w.wgB
  t ≤ 64 && isBoundary w.widths w.warpB && isBoundary w.widths w.wgB && isBoundary w.widths g && w.warpB ≤ 7 &&
  w.warpB ≤ w.wgB && w.wgB ≤ g && g ≤ t

/-- R48, R65: the breaches of footprint records, and the words after them. -/
def fpLineBad (ws : List W32) (pcount : Nat) (l : List W32) : Bool :=
  match l with
  | [w0, w1, w2, w3] =>
    let sp := field w0.toNat 1 3
    let len := w2.toNat + w3.toNat * 2 ^ 32
    16 ≤ w0.toNat || !(sp = 0 || sp = 1 || sp = 2 || sp = 5) || 2 ^ 30 ≤ w1.toNat || len = 0 || 2 ^ 40 < len ||
    (if w1.toNat.testBit 29 then !((moduleSym ws (field w1.toNat 0 29)).any fun y => y.kind = 4) else pcount ≤ field w1.toNat 0 29)
  | _ => true

def chunks4 : Nat → List W32 → List (List W32)
  | 0, _ => []
  | n + 1, ws => ws.take 4 :: chunks4 n (ws.drop 4)

/-- The words of a function record. -/
def recordWords (ws : List W32) (y : Sym) : List W32 :=
  let r := ws.drop y.val
  r.take ((r.getD 0 0).toNat)

/-- The symbol that the k-th footprint among some names (R65). -/
def nthFp : Nat → List W32 → Option Nat
  | _, [] => none
  | 0, w :: _ => some (field w.toNat 0 24)
  | k + 1, w :: ws => nthFp k (ws.drop (4 * field w.toNat 24 4))

/-- SVAL of a footprint symbol is its index within its function's record (R62): the record has a footprint there, and it names
the symbol. -/
def fpIndexOk (ws : List W32) (owner sym idx : Nat) : Bool :=
  (moduleSym ws owner).any fun y =>
    let body := recordWords ws y
    let w1 := (body.getD 1 0).toNat
    idx < field w1 7 7 && nthFp idx (body.drop (6 + field w1 0 7)) = some sym

def scanFps (img : List W32) (fsym pcount : Nat) : Nat → List W32 → List Nat × List W32
  | 0, ws => ([], ws)
  | k + 1, ws =>
    match ws with
    | [] => ([evVerify], [])
    | w :: ws' =>
      let n := field w.toNat 24 4
      let ls := chunks4 n ws'
      let wr := (ls.filter fun l => (l.getD 0 0).getLsbD 0).length
      let bad := 2 ^ 28 ≤ w.toNat || n = 0 || 8 < n || 4 < wr || 4 < n - wr || ls.any (fpLineBad img pcount) ||
        !((moduleSym img (field w.toNat 0 24)).any fun y => y.kind = 5 && y.owner = fsym)
      let r := scanFps img fsym pcount k (ws'.drop (4 * n))
      ((if bad then [evVerify] else []) ++ r.1, r.2)

def scanFunc (ws : List W32) (fsym : Nat) : FuncScan :=
  let gen := imageGen ws
  let y := (moduleSym ws fsym).getD { kind := 0, sty := 0, owner := 0, name := 0, val := 0, cnt := 0 }
  let rec0 := ws.drop y.val
  let w (i : Nat) : Nat := (rec0.getD i 0).toNat
  let flen := w 0
  let body := rec0.take flen
  let pc := field (w 1) 0 7
  let fc := field (w 1) 7 7
  let pw := (body.drop 6).take pc
  let params := pw.map fun x => Ty.ofCode (x.extractLsb' 0 6)
  let kern := decide (y.kind = 0)
  let fp := scanFps ws fsym pc fc (body.drop (6 + pc))
  let bl := scanBlocks gen (w 2) pc 0 fp.2
  let many := decide (65536 < w 2)
  let walk := (w 3).testBit 7
  let shared := (sharedLayout ws fsym).2
  let rty := Ty.ofCode ((rec0.getD 3 0).extractLsb' 0 6)
  let regions := (bl.1.filter VBlock.rh).length
  { sym := fsym, kern := kern, rty := rty, params := params, blocks := bl.1
    decl :=
      (if rec0.length < 6 || rec0.length < flen || flen < 6 || 2 ^ 14 ≤ w 1 || 256 ≤ w 3 || 2 ^ 30 ≤ w 4 || 2 ^ 28 ≤ w 5 || w 2 = 0 ||
          (w 3).testBit 6 ≠ kern || (rec0.getD 3 0).extractLsb' 0 6 ≠ y.sty || (!walk && (w 4 ≠ 0 || w 5 ≠ 0)) || (walk && !kern) ||
          (walk && !(parseWalk (w 4) (w 5)).ok) || pw.length < pc || (!many && (!bl.2.2 || !bl.2.1.isEmpty)) then [evVerify] else []) ++
      (if tyIn gen rty then [] else [evType]) ++
      (if 64 < pc || 64 < fc || many || 524288 < shared || 256 < regions ||
          1048576 < (bl.1.map fun b => b.instrs.length).foldl (· + ·) 0 then [evXlateLimit] else []) ++
      (pw.map (typeErrs gen)).flatten ++
      (if kern && params.any fun t => t = tyP || t = tyDyn then [evType] else []) ++ fp.1 }

/-! ## Operand requirements -/

/-- What an operand position accepts: a value, immediate or literal of a type, or a value reference of certain types. -/
inductive Req where
  | val (t : Ty)
  | ref (ok : Ty → Bool)

/-- A polymorphic position of a dyn instruction (R94): a value with a tag. -/
def polyReq : Req := .ref fun u => u = tyDyn || u.dynTag
def anyReq : Req := .ref fun u => u.fmt ≠ .void && u.fmt ≠ .p
/-- A position of the instruction's own TY. -/
def ownReq (t : Ty) : Req := if t = tyDyn then polyReq else .val t

def rp : Req := .val tyP
def r32 : Req := .val tyB32
def r64 : Req := .val tyB64

/-- The requirements of an edge's arguments: those of the target as far as they go, so that a count that differs says nothing of the
types of other operands (R38). -/
def edgeReqs (tys : List Ty) (n : Nat) : List Req :=
  (tys.take n).map .val ++ List.replicate (n - tys.length) (.ref fun _ => true)

/-- Operand types of each instruction, in the order of `Instr.opnds` (R140 and each description). `args` gives a block's argument
types, `callee` a function's parameters, `rty` the return type of a `.func`, none in a kernel, which has no `ret` to type (R33);
`src` is the type of the value an operand names. -/
def reqsOf (args : Nat → List Ty) (callee : Nat → List Ty) (rty : Option Ty) (src : Opnd → Option Ty) : Instr → List Req
  | .br _ t => edgeReqs (args t.block.toNat) t.args.length
  | .brc _ _ _ t f => rp :: (edgeReqs (args t.block.toNat) t.args.length ++ edgeReqs (args f.block.toNat) f.args.length)
  | .switch _ _ d cs => r32 :: (edgeReqs (args d.block.toNat) d.args.length ++
      (cs.map fun c => edgeReqs (args c.block.toNat) c.args.length).flatten)
  | .call _ f as => edgeReqs (callee f.toNat) as.length
  | .retValue _ => [match rty with | some t => .val t | none => .ref fun _ => true]
  | .select ty _ _ _ _ => [rp, ownReq ty, ownReq ty]
  | .joinCond _ _ | .leaveCond _ _ | .vote _ _ _ | .voteBallot _ _ _ => [rp]
  | .bfx ty _ _ _ _ _ => [.val ty, r32, r32]
  | .bfi ty _ _ _ _ _ => [.val ty, .val ty, r32, r32]
  | .lea .. => [r64, .ref fun u => u = tyB32 || u = tyB64]
  | .cvti ty _ _ _ _ => [.ref fun u => u.intI4 && u.count = ty.count]
  | .fcvt ty _ _ _ _ => [.ref fun u => u = tyDyn || (u.float && u.count = ty.count)]
  | .f2i ty _ _ _ _ _ => [.ref fun u => u = tyDyn || (u.float && u.count = ty.count)]
  | .i2f ty _ _ _ _ _ => [.ref fun u => u.intI4 && u.count = ty.count]
  | .pwid ty _ _ _ _ _ _ => [.ref fun u => u = ty]
  | .pnar ty _ _ _ _ _ xs =>
    xs.map fun _ => .ref fun u => u.legal && widePair ty.fmt u.fmt && u.count * xs.length = ty.count && ((xs.head?).bind src).all (u = ·)
  | .pdot ty _ _ _ _ _ _ _ =>
    [ownReq ty, ownReq ty, if ty = tyDyn then .ref (· = tyDyn) else if ty.isFloat then .val tyF32 else r32]
  | .cbdec ty _ _ _ _ => [.val ty]
  | .cbenc ty _ _ _ => [.ref fun u => u.legal && (u.fmt = .f16 || u.fmt = .bf16 || u.fmt = .f32) && u.count = ty.count]
  | .fldx ty _ _ _ _ _ => [ownReq ty, r32]
  | .ftag _ _ _ => [anyReq, r32]
  | .ftagGet _ _ => [anyReq]
  | .cst ty _ => [.val ty]
  | .shfl ty _ _ _ _ _ => [.val ty, r32]
  | .bcast ty _ _ _ => [.val ty, r32]
  | .bcastFirst ty _ _ => [.val ty]
  | .scan ty _ _ _ _ _ | .wred ty _ _ _ _ => [ownReq ty]
  | .ld .. | .ldb .. | .prefetch .. | .cctl .. => [r64]
  | .st ty _ _ _ _ _ _ => [r64, .val ty]
  | .stb ty _ _ _ _ _ _ => [r64, .val ty]
  | .atom ty _ _ _ _ _ _ _ _ | .red ty _ _ _ _ _ _ _ _ => [r64, .val ty]
  | .atomc ty _ _ _ _ _ _ _ => [r64, .val ty, .val ty]
  | .gld idx _ _ _ _ _ _ cs _ _ | .gst idx _ _ _ _ _ _ cs _ _ =>
    [r64, r64, r32] ++ (if idx then (cs.dropLast.map fun _ => r32) ++ [r64] else cs.map fun _ => r32)
  | .shp _ => [r64]
  | .shpFree _ => [r32]
  | .taddr _ _ cs => [r64, r32] ++ cs.map fun _ => r32
  | .ldt .. => [r32, r64]
  | .cpy .. => [r64, r64, r64]
  | .cpyShape .. => [r64, r64, r32]
  | .cpyf ty _ _ _ _ _ _ _ => [r64, r64, .val ty]
  | .cpyq .. => [r64, r64, r64]
  | .cjoin .. => [r32, r32]
  | .cmap _ => [r32]
  | .orsv .. | .orel _ | .arel _ | .acwrZero _ => [r32]
  | .ofill .. | .bfill .. | .sclq .. => [r32, r64, r32]
  | .cbldAddr .. => [r64]
  | .mma .. | .mmsp .. => [r32, r32, r32]
  | .acrd .. => [r32, r32, r32]
  | .acwr ty _ _ _ _ _ => [r32, r32, r32, .val ty]
  | .cvset .. => [r32]
  | .barv _ c | .bars _ c | .bmem _ _ c => c.toList.map fun _ => r32
  | .barw .. => [r32]
  | .sleep .. => [r32]
  | .flagw ty _ _ _ _ => [r64, .val ty]
  | .launch .. | .migrate .. => [r64]
  | .tprfHandle .. => [r32]
  | .watch .. => [r64, r64]
  | .unwatch _ => [r32]
  | .logm ty _ _ _ => [.val ty]
  | i => i.opnds.map fun _ => ownReq i.head.2.1

/-- Whether an immediate is a value of the type (R58). -/
def immFits (t : Ty) (x : Int) : Bool :=
  t.isFloat || t.bits = 64 || (if t = tyP then x = 0 || x = 1 else -(2 ^ (t.bits - 1) : Int) ≤ x && x < 2 ^ t.bits)

/-- The code of one operand's breach (R40, R58-R60). -/
def opndErr (ws : List W32) (valTy : Nat → Option Ty) (r : Req) (o : Opnd) : Option Nat :=
  match o, r with
  | .ref d, r =>
    match valTy d.toNat with
    | none => some evVerify
    | some u =>
      match r with
      | .val t => if u = t then none else some evType
      | .ref ok => if ok u then none else some evType
  | .imm v, .val t => if t ≠ tyDyn && immFits t v.toInt then none else some evVerify
  | .lit32 v, .val t => if t ≠ tyDyn && t.bits ≤ 32 && v.toNat < 2 ^ t.bits then none else some evVerify
  | .lit64 _, .val t => if t ≠ tyDyn && t.bits = 64 then none else some evVerify
  | .sym i, .val t =>
    if !((moduleSym ws i.toNat).any fun y => y.kind = 2 || y.kind = 4) then some evVerify
    else if t = tyB64 then none else some evType
  | _, _ => some evVerify

/-! ## Functions -/

def VBlock.succs (b : VBlock) : List Nat :=
  match b.instrs.getLast?.map VInstr.i with
  | some (.br _ t) => [t.block.toNat]
  | some (.brc _ _ _ t f) => [t.block.toNat, f.block.toNat]
  | some (.switch _ _ d cs) => d.block.toNat :: cs.map fun c => c.block.toNat
  | _ => []

/-- The blocks that can be reached without passing each block. -/
def avoidSets (succ : List (List Nat)) : List (List Nat) :=
  let fuel := succ.length + (succ.map List.length).foldl (· + ·) 1
  (List.range succ.length).map fun a => reachGo succ a fuel [0] []

/-- a dominates b. -/
def domIn (av : List (List Nat)) (a b : Nat) : Bool := a = b || !((av.getD a []).contains b)

/-- The immediate dominator of a reachable block other than the entry. -/
def idom (av : List (List Nat)) (n b : Nat) : Option Nat :=
  (List.range n).find? fun d => d ≠ b && domIn av d b && (List.range n).all fun e => e = b || !domIn av e b || domIn av e d

/-- Type of value `v` in a function. -/
def valueType (f : FuncScan) (v : Nat) : Option Ty :=
  if v < f.params.length then f.params[v]?
  else
    f.blocks.findSome? fun b =>
      if b.argNum ≤ v && v < b.argNum + b.args.length then b.args[v - b.argNum]?
      else (b.instrs.find? fun x => x.n = v && (instrDefTy x.i).isSome).bind fun x => instrDefTy x.i

/-- The block that defines value `v`; none for a parameter. -/
def valueBlock (f : FuncScan) (v : Nat) : Option Nat :=
  f.blocks.findIdx? fun b => (b.argNum ≤ v && v < b.argNum + b.args.length) || b.instrs.any fun x => x.n = v && (instrDefTy x.i).isSome

/-- The type of the value at distance `d`, where the reference is legal (R40). -/
def refType (f : FuncScan) (av : List (List Nat)) (blk n d : Nat) : Option Ty :=
  if d = 0 || n < d then none
  else
    let v := n - d
    if v < f.params.length then f.params[v]?
    else
      match valueBlock f v with
      | none => none
      | some b => if domIn av b blk then valueType f v else none

def targetsOf : Instr → List Target
  | .br _ t => [t]
  | .brc _ _ _ t f => [t, f]
  | .switch _ _ d cs => d :: cs
  | _ => []

/-- Symbols an instruction names, with the kinds it accepts (R59). -/
def symbolsOf : Instr → List (Nat × List Nat)
  | .call _ f _ => [(f.toNat, [1])]
  | .cbld _ _ y => [(y.toNat, [3])]
  | .tprf _ y => [(y.toNat, [0, 1])]
  | .gld _ _ _ _ _ _ _ _ _ (some y) | .gst _ _ _ _ _ _ _ _ _ (some y) | .cpy _ _ _ _ _ _ _ (some y)
  | .cpyShape _ _ _ _ _ _ _ _ (some y) | .cpyf _ _ _ _ _ _ _ (some y) | .cpyq _ _ _ _ _ _ _ _ _ _ _ (some y) => [(y.toNat, [5])]
  | _ => []

/-- The codes of an instruction's breaches beyond its own words. -/
def instrErrs (ws : List W32) (f : FuncScan) (av : List (List Nat)) (blk : Nat) (last : Bool) (x : VInstr) : List Nat :=
  let args (b : Nat) : List Ty := (f.blocks[b]?.map VBlock.args).getD []
  let callee (g : Nat) : List Ty := (scanFunc ws g).params
  let src (o : Opnd) : Option Ty := match o with | .ref d => refType f av blk x.n d.toNat | _ => none
  let ops := (x.i.opnds.zip (reqsOf args callee (if f.kern then none else some f.rty) src x.i)).filterMap fun p => opndErr ws (refType f av blk x.n) p.2 p.1
  let tgt := (targetsOf x.i).filterMap fun t =>
    if t.block.toNat = 0 || f.blocks.length ≤ t.block.toNat || t.args.length ≠ (args t.block.toNat).length then some evVerify else none
  let sy := (symbolsOf x.i).filterMap fun p =>
    if (moduleSym ws p.1).any fun y => p.2.contains y.kind && (y.kind ≠ 5 || y.owner = f.sym) then none else some evVerify
  let own : List Nat := match x.i with
    | .ret => if f.kern then [evVerify] else if f.rty = tyVoid then [] else [evType]
    | .retValue _ => if f.kern then [evVerify] else if f.rty = tyVoid then [evType] else []
    | .call ty g as =>
      if (moduleSym ws g.toNat).any fun y => y.kind = 1 then
        (if as.length = (callee g.toNat).length then [] else [evVerify]) ++ (if (scanFunc ws g.toNat).rty = ty then [] else [evType])
      else []
    | .cvti _ sgn _ _ (.ref d) | .i2f _ sgn _ _ _ (.ref d) =>
      if !sgn && (refType f av blk x.n d.toNat).any fun u => u.fmt = .i4 then [evVerify] else []
    | .ftag _ _ (.imm v) => codeIf (!(v.toNat < 64 && (Ty.ofCode (v.setWidth 6)).dynTag)) evType
    | .ftag _ _ (.lit32 v) => codeIf (!(v.toNat < 64 && (Ty.ofCode (v.setWidth 6)).dynTag)) evType
    | .br true _ | .brc _ true _ _ _ => codeIf (!((targetsOf x.i).any fun t => domIn av t.block.toNat blk)) evVerify
    | .cbld c6 _ y => if (moduleSym ws y.toNat).any fun z => z.kind = 3 && (z.cnt = 64) ≠ c6 then [evVerify] else []
    | _ => []
  ops ++ tgt ++ sy ++ own ++ (if instrTerminator x.i = last then [] else [evVerify])

/-- The codes of an instruction's breaches: those of its words and those beyond them. -/
def vinstrErrs (ws : List W32) (f : FuncScan) (av : List (List Nat)) (blk : Nat) (last : Bool) (x : VInstr) : List Nat :=
  if x.errs.any (· ≤ evType) then x.errs else x.errs ++ instrErrs ws f av blk last x

/-- RH and RE pair in layout (R49, R64): the regions, none where they do not. -/
def pairRegions : List VBlock → Nat → Option Nat → Option (List (Nat × Nat))
  | [], _, none => some []
  | [], _, some _ => none
  | b :: bs, i, open_ =>
    match b.rh, open_ with
    | true, some _ => none
    | true, none => if b.re then (pairRegions bs (i + 1) none).map ((i, i) :: ·) else pairRegions bs (i + 1) (some i)
    | false, some h => if b.re then (pairRegions bs (i + 1) none).map ((h, i) :: ·) else pairRegions bs (i + 1) (some h)
    | false, none => if b.re then none else pairRegions bs (i + 1) none

/-- Breaches of regions (R49): pairing, entry, domination. DESIGN CHOICE (log 30, unsafe): R54 gives such a breach no instruction;
pairing, and a region outside a kernel, count as index 0, entry and domination stand at the first instruction of the head block. -/
def regionErrs (f : FuncScan) (succ : List (List Nat)) (av : List (List Nat)) : List Breach :=
  if !(f.blocks.any fun b => b.rh || b.re) then []
  else
    match pairRegions f.blocks 0 none with
    | none => [(0, evVerify)]
    | some rs =>
      breachIf (!f.kern) 0 evVerify ++
      (rs.map fun r =>
        let inside (b : Nat) : Bool := r.1 ≤ b && b ≤ r.2
        let bad := r.1 = 0 || (List.range f.blocks.length).any fun b =>
          (inside b && !domIn av r.1 b) || (!inside b && (succ.getD b []).any fun t => inside t && t ≠ r.1)
        breachIf bad ((f.blocks[r.1]?.map VBlock.pix).getD 0) evVerify).flatten

/-- The breaches of one function, by portable index. DESIGN CHOICE (log 30, unsafe): a breach of a block as a whole (its arguments,
reachability, order) stands at the block's first instruction; R54 names the index of instructions and of declarations only. -/
def funcBreaches (ws : List W32) (fsym : Nat) : List Breach :=
  let f := scanFunc ws fsym
  let succ := f.blocks.map VBlock.succs
  let av := avoidSets succ
  let fuel := succ.length + (succ.map List.length).foldl (· + ·) 1
  let reach := reachGo succ succ.length fuel [0] []
  let nb := f.blocks.length
  let perBlock (b : VBlock) (k : Nat) : List Breach :=
    (b.errs.map fun e => (b.pix, e)) ++
    breachIf ((k = 0 && !b.args.isEmpty) || !reach.contains k || (k ≠ 0 && reach.contains k && !((idom av nb k).any (· < k)))) b.pix evVerify ++
    (b.instrs.zipIdx.map fun (x, j) =>
      (vinstrErrs ws f av k (j + 1 = b.instrs.length) x).map fun e => (b.pix + j, e)).flatten
  (f.decl.map fun e => (0, e)) ++ (f.blocks.zipIdx.map fun (b, k) => perBlock b k).flatten ++ regionErrs f succ av

/-! ## The call closure (R36, R51) -/

/-- The calls of a function: portable index and callee. -/
def callsOf (ws : List W32) (fsym : Nat) : List (Nat × Nat) :=
  ((scanFunc ws fsym).blocks.map fun b => b.instrs.zipIdx.filterMap fun (x, j) =>
    match x.errs, x.i with
    | [], .call _ g _ => if (moduleSym ws g.toNat).any fun y => y.kind = 1 then some (b.pix + j, g.toNat) else none
    | _, _ => none).flatten

def closureGo (ws : List W32) : Nat → List Nat → List Nat → List Nat
  | 0, _, seen => seen
  | _, [], seen => seen
  | k + 1, f :: work, seen =>
    if seen.contains f then closureGo ws k work seen else closureGo ws k ((callsOf ws f).map Prod.snd ++ work) (seen ++ [f])

/-- Functions reached from one, itself first. -/
def closureFrom (ws : List W32) (f : Nat) : List Nat := closureGo ws (ws.length + 2) [f] []

/-- Functions at the end of chains of `d` calls. -/
def atDepth (ws : List W32) (f : Nat) : Nat → List Nat
  | 0 => [f]
  | d + 1 => ((atDepth ws f d).map fun g => (callsOf ws g).map Prod.snd).flatten.eraseDups

/-- R36: the call breaches of one function of a kernel's closure. -/
def callBreaches (ws : List W32) (ksym fsym : Nat) : List Breach :=
  let clo := closureFrom ws ksym
  let cyclic (g h : Nat) : Bool := (closureFrom ws h).contains g
  let anyCycle := clo.any fun g => (callsOf ws g).any fun c => cyclic g c.2
  if anyCycle then ((callsOf ws fsym).filter fun c => cyclic fsym c.2).map fun c => (c.1, evVerify)
  else if (atDepth ws ksym 16).contains fsym then (callsOf ws fsym).map fun c => (c.1, evXlateLimit) else []

/-! ## The image (R61, R62) -/

/-- A name ends within the string section. -/
def nameOk (ws : List W32) (off : Nat) : Bool :=
  let base := ((wordAt ws 6).map BitVec.toNat).getD 0 * 4
  let len := ((wordAt ws 7).map BitVec.toNat).getD 0
  (List.range (len - off)).any fun i => imageByte ws (base + off + i) = some 0

def symbolBreaches (ws : List W32) (i : Nat) : List Breach :=
  let off := ((wordAt ws 3).map BitVec.toNat).getD 0 + 4 * i
  match moduleSym ws i with
  | none => [(off, evVerify)]
  | some y =>
    let t := Ty.ofCode y.sty
    let gen := imageGen ws
    let owned := y.kind = 4 || y.kind = 5
    breachIf (5 < y.kind || (!owned && y.owner ≠ 0) || (owned && !((moduleSym ws y.owner).any fun o => o.kind = 0 || (y.kind = 5 && o.kind = 1))) ||
        ((y.kind = 0 || owned) && t ≠ tyVoid) || (y.kind = 3 && (t ≠ { fmt := .cb4 } && (t ≠ { fmt := .cb6 } || gen < 2)))) off evVerify ++
    breachIf ((y.kind = 1 && !tyIn gen t) || (y.kind = 2 && (!t.dynTag || gen < tyGen t))) off evType ++
    breachIf (!nameOk ws y.name) (off + 1) evVerify ++
    breachIf ((y.kind = 2 && (y.val % 16 ≠ 0 || dataLen ws < y.val + y.cnt * t.bytes)) ||
        (y.kind = 3 && (y.val % 32 ≠ 0 || dataLen ws < y.val + 2 * y.cnt)) ||
        (y.kind = 5 && !fpIndexOk ws y.owner i y.val) || (y.kind = 4 && (2 ^ 24 ≤ y.val || field y.val 0 20 = 0 || 524288 < field y.val 0 20 || 12 < field y.val 20 4))) (off + 2) evVerify ++
    breachIf ((y.kind = 2 && y.cnt = 0) || (y.kind = 3 && y.cnt ≠ (if t.fmt = .cb6 then 64 else 16)) || (y.kind ≠ 2 && y.kind ≠ 3 && y.cnt ≠ 0))
      (off + 3) evVerify

/-- Symbols beyond the limits of R53. -/
def countBreaches (ws : List W32) : List Breach :=
  let fs := (List.range (nsyms ws)).filter fun i => (moduleSym ws i).any fun y => y.kind ≤ 1
  let ks := fs.filter fun i => (moduleSym ws i).any fun y => y.kind = 0
  let off (i : Nat) : Nat := ((wordAt ws 3).map BitVec.toNat).getD 0 + 4 * i
  ((fs.drop 4096).take 1 ++ (ks.drop 1024).take 1).map fun i => (off i, evXlateLimit)

def imageBreaches (ws : List W32) : List Breach :=
  let w (i : Nat) : Nat := ((wordAt ws i).map BitVec.toNat).getD 0
  breachIf (w 0 ≠ 0x4D46505A) 0 evVerify ++
  breachIf (field (w 1) 8 24 ≠ 1 || imageGen ws = 0 || 3 < imageGen ws) 1 evVerify ++
  breachIf (w 9 < w 3 + 4 * w 2) 3 evVerify ++
  breachIf (4 * w 9 < 4 * w 4 + w 5) 4 evVerify ++
  breachIf (65536 < w 5) 5 evXlateLimit ++
  breachIf (4 * w 9 < 4 * w 6 + w 7) 6 evVerify ++
  breachIf (!nameOk ws (w 8)) 8 evVerify ++
  breachIf (ws.length < w 9 || w 9 < 10) 9 evVerify ++
  (if w 9 < w 3 + 4 * w 2 || ws.length < w 9 then []
   else ((List.range (w 2)).map (symbolBreaches ws)).flatten ++ countBreaches ws)

/-- What the fault of a failed verification names (R54, R110). -/
structure VerifyFault where
  code : Nat
  fsym : Nat
  pix : Nat
  aux : Nat
  deriving DecidableEq, Repr

/-- VERIFICATION of a kernel: the breach that R54 chooses. -/
def verifyKernel (ws : List W32) (ksym : Nat) : Option VerifyFault :=
  match firstBreach (imageBreaches ws) with
  | some (off, code) => some { code := code, fsym := 0xFFFFFFFF, pix := 0xFFFFFF, aux := off }
  | none =>
    let clo := closureFrom ws ksym
    let order := ksym :: (List.range (nsyms ws)).filter fun g => g ≠ ksym && clo.contains g
    order.findSome? fun g =>
      (firstBreach (funcBreaches ws g ++ callBreaches ws ksym g)).map fun b => { code := b.2, fsym := g, pix := b.1, aux := 0 }

/-! ## What a closure names (R197, R209, R269, R345, R369) -/

/-- The named resources of a kernel's call closure. -/
structure Needs where
  tags : List Nat := []
  cvs : List Nat := []
  cbs : List Nat := []
  nbs : List Nat := []
  scaleQ : Bool := false
  deriving DecidableEq, Repr

def insertName (x : Nat) (l : List Nat) : List Nat := if l.contains x then l else l ++ [x]

def Needs.add (n : Needs) : Instr → Needs
  | .gld _ _ _ _ _ _ _ _ t _ | .gst _ _ _ _ _ _ _ _ t _ | .cpy _ _ _ _ _ _ t _ | .cpyShape _ _ _ _ _ _ _ t _
  | .cpyf _ _ _ _ _ _ t _ | .cpyq _ _ _ _ _ _ _ _ _ _ t _ | .cpyw _ t | .colr t _ => { n with tags := insertName t.val n.tags }
  | .mma _ _ _ (some c) | .mmsp _ _ _ (some c) | .sign c | .cvset c _ => { n with cvs := insertName c.val n.cvs }
  | .cbld _ c _ | .cbldAddr _ _ c _ | .cbdec _ _ _ _ c | .cbenc _ _ _ c => { n with cbs := insertName c.val n.cbs }
  | .orsv _ f _ _ _ _ c _ => if f = .cb4 || f = .cb6 then { n with cbs := insertName c.val n.cbs } else n
  | .barv b _ | .barw b _ | .bars b _ | .bmem _ b _ | .bcnt b => { n with nbs := insertName b.val n.nbs }
  | .sclq .. => { n with scaleQ := true }
  | _ => n

def closureNeeds (ws : List W32) (ksym : Nat) : Needs :=
  let is := ((closureFrom ws ksym).map fun f => ((scanFunc ws f).blocks.map fun b => b.instrs.map VInstr.i).flatten).flatten
  is.foldl Needs.add {}

/-- The kernel that a handle's ordinal names (R207). -/
def kernelSym (ws : List W32) (ordinal : Nat) : Option Nat :=
  ((List.range (nsyms ws)).filter fun i => (moduleSym ws i).any fun y => y.kind = 0)[ordinal]?

/-- The kernel that a handle names in a context: module index and symbol (R207). -/
def State.kernel? (s : State) (asid handle : Nat) : Option (Nat × Nat) :=
  if handle = 0 then none
  else
    match s.modules.findIdx? fun m => m.asid = asid && m.load = handle / 65536 with
    | none => none
    | some mi => (kernelSym (s.moduleWords mi) (handle % 65536)).map fun k => (mi, k)

end Sys2Proof.Machine
end

