-- ==== Sys2Proof/Machine/Records.lean ====
section
/-! DEFINITION. Sys2Proof/Machine/Records.lean: the launch record (R205-R208), the levels of a work identifier (R203, R204), the
traversal orders (R212, R213), footprint lists (R210), and the checks of R209. -/

namespace Sys2Proof.Machine

open Sys2Proof

abbrev LRec := List W64

def recW (r : LRec) (i : Nat) : Nat := (r.getD i 0).toNat
def recFmt (r : LRec) : Nat := field (recW r 0) 56 8
def recFlag (r : LRec) (b : Nat) : Bool := (recW r 0).testBit b
def recPrio (r : LRec) : Nat := field (recW r 0) 40 3
def recGang (r : LRec) : Bool := recFlag r 51
def recIdem (r : LRec) : Bool := recFlag r 48
def recChild (r : LRec) : Bool := recFlag r 52
def recWidth (r : LRec) (i : Nat) : Nat := field (recW r 1) (6 * i) 6
def recWidths (r : LRec) : List Nat := (List.range 6).map (recWidth r)
def recExt (r : LRec) (i : Nat) : Nat := field (recW r (2 + i / 2)) (32 * (i % 2)) 32
def recOff (r : LRec) (i : Nat) : Nat := ((recWidths r).take i).foldl (· + ·) 0
def recTotal (r : LRec) : Nat := recOff r 6
def recP (r : LRec) : Nat := field (recW r 1) 48 6
def recQ (r : LRec) : Nat := field (recW r 1) 36 6
def recD (r : LRec) : Nat := field (recW r 1) 42 6
def recChunk (r : LRec) : Nat := let c := field (recW r 5) 40 16; if c = 0 then 64 else c
def recGsize (r : LRec) : Nat := field (recW r 5) 32 8
def recG (r : LRec) : Nat := field (recW r 5) 24 8
def recCode (r : LRec) (i : Nat) : Nat := field (recW r 5) (4 * i) 4
def recNbar (r : LRec) : Nat := field (recW r 6) 32 8
def recScr (r : LRec) : Nat := field (recW r 6) 8 24
def recBud (r : LRec) : Nat := field (recW r 6) 0 8

/-- Fields of nonzero width in the level that spans bits [lo, hi) of the WID (R204). -/
def levelFields (r : LRec) (lo hi : Nat) : List Nat :=
  (List.range 6).filter fun i => recWidth r i ≠ 0 && lo ≤ recOff r i && recOff r i < hi

def levelCount (r : LRec) (lo hi : Nat) : Nat := (levelFields r lo hi).foldl (fun n i => n * recExt r i) 1

def recNwarps (r : LRec) : Nat := levelCount r (recP r) (recQ r)
def recMembers (r : LRec) : Nat := levelCount r (recQ r) (recD r)
def recUnits (r : LRec) : Nat := levelCount r (recD r) 65
/-- The walked fields (R212). -/
def recWalked (r : LRec) : List Nat := levelFields r (recD r) 65

/-! ## Orders (R212, R213) -/

/-- The point of rank `p` among ER x EC points in Morton order, by quadrants of side 2^k at (r, c). -/
def mortonGo (er ec : Nat) : Nat → Nat → Nat → Nat → Nat × Nat
  | 0, r, c, _ => (r, c)
  | k + 1, r, c, p =>
    let h := 2 ^ k
    let n (dr dc : Nat) : Nat := Nat.min (er - (r + dr)) h * Nat.min (ec - (c + dc)) h
    if p < n 0 0 then mortonGo er ec k r c p
    else if p < n 0 0 + n 0 h then mortonGo er ec k r (c + h) (p - n 0 0)
    else if p < n 0 0 + n 0 h + n h 0 then mortonGo er ec k (r + h) c (p - n 0 0 - n 0 h)
    else mortonGo er ec k (r + h) (c + h) (p - n 0 0 - n 0 h - n h 0)

/-- PairOrder of R212: row and column. -/
def pairOrder (code g p er ec : Nat) : Nat × Nat :=
  if code = 1 then (p % er, p / er)
  else if code = 4 then
    let band := p / (g * ec)
    let h := Nat.min g (er - band * g)
    let q := p - band * g * ec
    (band * g + q % h, q / h)
  else mortonGo er ec 32 0 0 p

def decodeRest (r : LRec) : List Nat → Nat → List (Nat × Nat)
  | [], _ => []
  | k :: ks, q =>
    let e := recExt r k
    let d := q % e
    (k, if recCode r k = 2 && (q / e) % 2 = 1 then e - 1 - d else d) :: decodeRest r ks (q / e)

/-- Decode(t) of R212: the values of the walked fields. -/
def decodeUnit (r : LRec) (t : Nat) : List (Nat × Nat) :=
  match recWalked r with
  | a :: b :: rest =>
    let c := recCode r b
    if c = 1 || c = 3 || c = 4 then
      let m := recExt r b * recExt r a
      let (x, y) := pairOrder c (recG r) (t % m) (recExt r b) (recExt r a)
      (b, x) :: (a, y) :: decodeRest r rest (t / m)
    else decodeRest r (a :: b :: rest) t
  | ws => decodeRest r ws t

/-- A mixed-radix index over some fields, the lowest fastest (R204). -/
def radixFields (r : LRec) : List Nat → Nat → List (Nat × Nat)
  | [], _ => []
  | k :: ks, q => (k, q % recExt r k) :: radixFields r ks (q / recExt r k)

/-- The WID of a logical thread; none for a lane that holds none (R203, R204). -/
def widOf (r : LRec) (t member warp lane : Nat) : Option W64 :=
  let laneF := (levelFields r 0 (recP r)).map fun i => (i, field lane (recOff r i) (recWidth r i))
  if laneF.any fun p => recExt r p.1 ≤ p.2 then none
  else
    let fs := laneF ++ radixFields r (levelFields r (recP r) (recQ r)) warp ++
      radixFields r (levelFields r (recQ r) (recD r)) member ++ decodeUnit r t
    some (BitVec.ofNat 64 (fs.foldl (fun n p => n + p.2 * 2 ^ recOff r p.1) 0))

/-- R213 is broken. -/
def orderBad (r : LRec) : Bool :=
  let wk := recWalked r
  let row := wk[1]?
  let pairCode (c : Nat) : Bool := c = 1 || c = 3 || c = 4
  (List.range 6).any (fun i => 4 < recCode r i || (!wk.contains i && recCode r i ≠ 0) || (pairCode (recCode r i) && some i ≠ row) ||
    (recCode r i = 4 && recG r = 0)) ||
  (match row, wk.head? with
   | some b, some a => pairCode (recCode r b) && recCode r a ≠ 0
   | _, _ => false)

/-! ## Footprint lists (R210) -/

/-- A region of a footprint list: base, length, write. -/
abbrev FpEntry := Nat × Nat × Bool

def State.readWordVa (s : State) (site asid va : Nat) : Option W64 :=
  (s.readVa site asid va 8).map fun bs => BitVec.ofNat 64 (leNat bs)

def State.fpEntries (s : State) (site asid va : Nat) : Nat → Option (List FpEntry)
  | 0 => some []
  | k + 1 =>
    match s.fpEntries site asid va k, s.readWordVa site asid (va + 8 + 16 * k), s.readWordVa site asid (va + 16 + 16 * k) with
    | some es, some b, some x =>
      let len := field x.toNat 0 40
      if 2 ^ 41 ≤ x.toNat || len = 0 then none else some (es ++ [(b.toNat, len, x.getLsbD 40)])
    | _, _, _ => none

/-- The footprint list; none where it is malformed or cannot be read. -/
def State.fpList (s : State) (site asid va : Nat) : Option (List FpEntry) :=
  match s.readWordVa site asid va with
  | none => none
  | some w => if w.toNat = 0 || 16 < w.toNat then none else s.fpEntries site asid va w.toNat

/-- 64 KiB pieces of a byte range. -/
def pagesOf (base len : Nat) : List Nat := (List.range ((base + len + 65535) / 65536 - base / 65536)).map fun i => (base / 65536 + i) * 65536

/-- The fault of a listed page that cannot be pinned. -/
def State.fpFault (s : State) (site asid : Nat) (es : List FpEntry) : Option Nat :=
  es.findSome? fun e => (pagesOf e.1 e.2.1).findSome? fun p =>
    if 2 ^ 57 ≤ p then some evAddrUnmapped
    else
      match (s.walk site asid false p).2 with
      | .leaf _ pte _ => if e.2.2 && (!pte.getLsbD 2 || pte.getLsbD 3) then some evAddrPerm else none
      | _ => some evAddrUnmapped

/-! ## Handlers (R380) -/

def State.handlerGo (s : State) (site asid kh base : Nat) : Nat → Nat → Option (Nat × W64)
  | 0, _ => none
  | k + 1, i =>
    match s.readWordVa site asid (base + 16 * i), s.readWordVa site asid (base + 16 * i + 8) with
    | some w, some e => if field w.toNat 0 32 = kh then some (field w.toNat 32 32, e) else s.handlerGo site asid kh base k (i + 1)
    | _, _ => s.handlerGo site asid kh base k (i + 1)

/-- The handler table's first entry for a kernel: HSYM and EVSET. -/
def State.handler? (s : State) (site asid kh : Nat) : Option (Nat × W64) :=
  match (s.die site).ctx? asid with
  | none => none
  | some (_, c) => s.handlerGo site asid kh (c.words.getD 7 0).toNat (field (c.words.getD 8 0).toNat 0 9) 0

/-- The verification of a kernel's handler (R380): kind, signature, closure. -/
def verifyHandler (ws : List W32) (h : Nat) : Option VerifyFault :=
  let bad (code : Nat) : Option VerifyFault := some { code := code, fsym := h, pix := 0, aux := 0 }
  if !((moduleSym ws h).any fun y => y.kind = 1) then bad evVerify
  else
    let f := scanFunc ws h
    if f.params ≠ [tyB32, tyB32, tyB64] || f.rty ≠ tyB32 then bad evType else verifyKernel ws h

/-! ## The checks (R209) -/

/-- A `.walk` that the record disagrees with (R50). -/
def walkDisagrees (r : LRec) (w : WalkDecl) : Bool :=
  w.widths ≠ recWidths r || w.warpB ≠ recP r || w.wgB ≠ recQ r ||
  (match w.gangB with
   | some g => recD r ≠ g
   | none => recGang r)

/-- No core of the package holds one workgroup, or no cluster one gang, at a budget of 8 (R24, R209). -/
def noFit (r : LRec) (n : Needs) : Bool :=
  let core (w2e : Bool) : Bool :=
    recNwarps r ≤ 16 && 8 * recNwarps r ≤ Config.mainRegs w2e && recScr r ≤ Config.scratchUnits w2e && n.tags.length ≤ 64 &&
    n.cvs.length ≤ 16 && n.cbs.length ≤ 8 && recNbar r ≤ 64 && (!recGang r || recGsize r ≤ Config.coresPerCluster)
  !core false && !core true

/-- THE CHECKS of R209, in order: 0 where the record passes. `child` says that the record comes from `launch`, `list` that the
footprint list is read. -/
def State.launchReason (s : State) (site asid : Nat) (r : LRec) (child list : Bool) : Nat :=
  if recFmt r ≠ 2 && recFmt r ≠ 3 then 0x01
  else if recFlag r 55 || field (recW r 0) 43 5 ≠ 0 || field (recW r 0) 32 8 ≠ 0 || field (recW r 1) 54 10 ≠ 0 || field (recW r 5) 56 8 ≠ 0 ||
      field (recW r 6) 40 24 ≠ 0 || ((r.drop 11).any (· ≠ 0)) ||
      (recFmt r = 2 && (recFlag r 54 || recFlag r 49 || field (recW r 5) 40 16 ≠ 0 || recG r ≠ 0 ||
        recW r 9 ≠ 0 || (List.range 6).any fun i => 2 < recCode r i)) then 0x02
  else
    match s.kernel? asid (field (recW r 0) 0 32) with
    | none => 0x03
    | some (mi, ksym) =>
      let ws := s.moduleWords mi
      let f := scanFunc ws ksym
      let needs := closureNeeds ws ksym
      if 64 < recTotal r || ((List.range 6).any fun i => recExt r i = 0 || 2 ^ recWidth r i < recExt r i) || 2 ^ 63 < recUnits r then 0x04
      else if !isBoundary (recWidths r) (recP r) || !isBoundary (recWidths r) (recQ r) || !isBoundary (recWidths r) (recD r) || 7 < recP r ||
          recQ r < recP r || recD r < recQ r || recTotal r < recD r || (!recGang r && recD r ≠ recQ r) then 0x05
      else if 16 < recNwarps r then 0x06
      else if orderBad r then 0x07
      else if (if recGang r then recGsize r = 0 || 128 < recGsize r || recGsize r ≠ recMembers r else recGsize r ≠ 0) then 0x08
      else if recBud r = 0 || 16 < recBud r then 0x09
      else if 2048 < recScr r || 256 * recScr r < (sharedLayout ws ksym).2 then 0x0A
      else if 64 < recNbar r || recNbar r < needs.nbs.length then 0x0B
      else if ((moduleFunc ws ksym).bind FuncInfo.walk).any (walkDisagrees r) then 0x0C
      else if noFit r needs then 0x0D
      else if recW r 7 % 8 ≠ 0 || recW r 8 % 8 ≠ 0 || recW r 9 % 8 ≠ 0 || (recW r 7 = 0 && !f.params.isEmpty) ||
          (list && recW r 9 ≠ 0 && (s.fpList site asid (recW r 9)).isNone) then 0x0E
      else if (!child && (recChild r || recW r 10 ≠ 0)) || (child && recFlag r 53) then 0x0F
      else 0

end Sys2Proof.Machine
end

