-- ==== Sys2Proof/Machine/Place.lean ====
section
/-! DEFINITION. Sys2Proof/Machine/Place.lean: what a workgroup needs of a core and its grant (R24, R116, R124, R242, R254, R269),
the choice of cores (R238, R239), a unit's start (R191, R216, R223), and the restoring of saved matrix state (R369). -/

namespace Sys2Proof.Machine

open Sys2Proof

/-! ## Demands -/

/-- What a workgroup needs of a core. Budgets in registers. -/
structure Demand where
  nwarps : Nat
  budget : Nat
  grant : Nat
  ckBytes : Nat
  tags : List Nat
  cvs : List Nat
  cbs : List Nat
  nbs : List Nat
  nbar : Nat
  scaleQ : Bool
  resv : List Resv := []
  acc : List Bool := []
  deriving DecidableEq, Repr

/-- A launch's budget on a die (R107, R117). -/
def Launch.budgetOn (l : Launch) (site : Nat) : Nat :=
  l.budgets.get (if w2eSite site then Nat.min (8 * recBud l.record) 96 else 8 * recBud l.record) site

/-- Largest NCK of a kernel's closure (R124). -/
def closureNck (x : XIn) (ksym : Nat) (w2e : Bool) (budget : Nat) : Nat :=
  ((closureFrom x.ws ksym).map fun f => (x.plan { fsym := f, w2e := w2e, budget := budget }).nck).foldl Nat.max 0

def frameBytes (nck : Nat) : Nat := 64 + 2 * nck * 512

/-- The native limits of a unit (R114, R131). -/
def State.unitLimit (s : State) (site : Nat) (k : UnitKey) : Bool :=
  let p := s.keyPlan k
  let slots := match (s.die site).ctx? k.asid with
    | some (_, c) => field (c.words.getD 4 0).toNat 0 17
    | none => 65536
  65536 < p.nregion || slots < p.nspill

/-- Names in ascending order. -/
def ascending (l : List Nat) : List Nat := (List.range 64).filter l.contains

def State.demandAt (s : State) (l : Launch) (site budget : Nat) : Demand :=
  let ws := s.moduleWords l.modIdx
  let n := closureNeeds ws l.ksym
  { nwarps := recNwarps l.record, budget := budget, grant := recScr l.record
    ckBytes := frameBytes (closureNck (s.xin l.modIdx) l.ksym (w2eSite site) budget)
    tags := ascending n.tags, cvs := ascending n.cvs, cbs := ascending n.cbs, nbs := ascending n.nbs, nbar := recNbar l.record
    scaleQ := n.scaleQ }

def State.demand (s : State) (l : Launch) (site : Nat) : Demand := s.demandAt l site (l.budgetOn site)

/-! ## Room -/

def State.freeSlots (s : State) (core : Nat) : List Nat :=
  (List.range 16).filter fun i => (s.warps.get? (wkey core i)).isNone && !(s.core core).scrubSlots.contains i

def State.coreWarps (s : State) (core : Nat) : List Warp := (s.warps.filter fun p => p.1 / 16 = core).map Prod.snd
def State.coreWgs (s : State) (core : Nat) : List (Nat × Workgroup) := s.wgs.filter fun p => p.1 / 16 = core

def State.regsUsed (s : State) (core : Nat) : Nat := ((s.coreWarps core).map Warp.budget).foldl (· + ·) 0
def State.ckUsed (s : State) (core : Nat) : Nat := ((s.coreWarps core).map fun w => (s.wg w.wg).ckBytes).foldl (· + ·) 0
def State.grantUsed (s : State) (core : Nat) : Nat :=
  ((s.coreWgs core).map fun g => g.2.grant).foldl (· + ·) 0 + ((s.core core).scrubScratch.map Prod.snd).foldl (· + ·) 0

def freeOf (n : Nat) (used : List Nat) : List Nat := (List.range n).filter fun i => !used.contains i

def Core.freeTags (k : Core) : List Nat := freeOf 64 ((k.tags.filter fun t => t.2.owner ≠ 0xFF).map Prod.fst)
def Core.freeCvs (k : Core) : List Nat := freeOf 16 ((k.cvs.filter fun t => t.2.wgslot ≠ 0xFF).map Prod.fst)
def Core.freeCbs (k : Core) : List Nat := freeOf 8 ((k.cbslots.filter fun t => t.2.owner.isSome).map Prod.fst)
def Cluster.freeNbs (c : Cluster) : List Nat := freeOf 64 ((c.nbs.filter fun t => t.2.owner.isSome).map Prod.fst)

/-- Grant a saved reservation its place (R351, R369): the new record. -/
def Core.regrant (k : Core) (w2e : Bool) (wgk : Nat) (r : Resv) : Option (Nat × Core) :=
  let total := if r.side then Config.bstageUnits w2e else Config.operandUnits
  match (List.range 32).find? fun i => (k.resv.get {} i).held.isNone, k.freeRun r.side total r.units with
  | some i, some b => some (i, { k with resv := k.resv.set i { r with held := some wgk, gen := (k.resv.get {} i).gen, base := b } })
  | _, _ => none

/-- Grant a saved accumulator its units, with its elements. -/
def Core.regrantAcc (k : Core) (w2e : Bool) (wgk : Nat) (a b : AccUnit) (half : Bool) : Option (Nat × Core) :=
  (k.pickAcc w2e half).map fun (u, v) =>
    let t1 := k.acc.set u { a with held := some wgk, gen := (k.acc.get {} u).gen, second := v }
    (u, { k with acc := match v with
      | some j => t1.set j { b with held := some wgk, gen := (k.acc.get {} j).gen }
      | none => t1 })

def fitsResv (w2e : Bool) : Core → List Resv → Option Core
  | k, [] => some k
  | k, r :: rs => (k.regrant w2e 0 r).bind fun p => fitsResv w2e p.2 rs

def fitsAcc (w2e : Bool) : Core → List Bool → Bool
  | _, [] => true
  | k, h :: hs => (k.regrantAcc w2e 0 {} {} h).any fun p => fitsAcc w2e p.2 hs

/-- Whether a core holds everything that a demand names but registers. -/
def State.holdsBut (s : State) (core : Nat) (d : Demand) : Bool :=
  let k := s.core core
  let w2e := w2eCore core
  k.inService && (s.die (siteOf core)).enabled && d.nwarps ≤ (s.freeSlots core).length &&
  s.ckUsed core + d.nwarps * d.ckBytes ≤ Config.ckptBytes w2e && s.grantUsed core + d.grant ≤ Config.scratchUnits w2e &&
  (s.coreWgs core).length < 16 && d.tags.length ≤ k.freeTags.length && d.cvs.length ≤ k.freeCvs.length && d.cbs.length ≤ k.freeCbs.length &&
  (!d.scaleQ || k.scaleqOwner.isNone) && ((fitsResv w2e k d.resv).any fun k1 => fitsAcc w2e k1 d.acc)

def State.holds (s : State) (core : Nat) (d : Demand) : Bool :=
  s.holdsBut core d && s.regsUsed core + d.nwarps * d.budget ≤ Config.mainRegs (w2eCore core)

def coresOf (cl : Nat) : List Nat := (List.range Config.coresPerCluster).map (cl * 192 + ·)

/-- The core with the most free warp slots among some, ties to the lowest (R239). -/
def State.roomiest (s : State) : List Nat → Option Nat
  | [] => none
  | c :: cs =>
    match s.roomiest cs with
    | none => some c
    | some b => if (s.freeSlots c).length < (s.freeSlots b).length then some b else some c

/-- The core of a cluster that takes one workgroup (R239); `prefer` first where it holds it. -/
def State.pickCore (s : State) (cl : Nat) (d : Demand) (prefer : Option Nat) : Option Nat :=
  if (s.cluster cl).freeNbs.length < d.nbar then none
  else if prefer.any fun c => s.holds c d then prefer
  else s.roomiest ((coresOf cl).filter fun c => s.holds c d)

/-- The cores that take a gang's members, by member (R239); a group entry and the barriers must be free (R262, R345). -/
def State.pickCores (s : State) (cl n : Nat) (ds : Nat → Demand) : Option (List Nat) :=
  let d0 := ds 0
  if (s.cluster cl).freeNbs.length < d0.nbar || (s.cluster cl).freeGroup.isNone then none
  else
    let go := (coresOf cl).foldl (fun (acc : List Nat) c => if acc.length < n && s.holds c (ds acc.length) then acc ++ [c] else acc) []
    if go.length = n then some go else none

/-- The cores for the next unit of a launch in a cluster. -/
def State.placeUnit (s : State) (l : Launch) (cl : Nat) (prefer : Option Nat) : Option (List Nat) :=
  let d := s.demand l (cl / 4)
  if recGang l.record then s.pickCores cl (recGsize l.record) fun _ => d
  else (s.pickCore cl d prefer).map fun c => [c]

/-- The order of steals of R238 from a cluster; lockstep mode stops at the die (R241). -/
def State.stealOrder (s : State) (cl : Nat) : List Nat :=
  let site := cl / 4
  let own := [0, 1, 2, 3].map fun i => site * 4 + (cl % 4 + i) % 4
  if (s.die site).schedcfg.getLsbD 32 then own
  else own ++ ([1, 2, 3].map fun i => [0, 1, 2, 3].map fun c => (site + i) % 4 * 4 + c).flatten

/-! ## Grants -/

/-- Grant a workgroup its slot, tags, convergence registers and codebook slots on a core: lowest free numbers, ascending names
(R197, R269, R350). -/
def State.grantWg (s : State) (core : Nat) (d : Demand) (g : Workgroup) : Nat × State :=
  let slot := ((List.range 16).find? fun i => (s.wgs.get? (core * 16 + i)).isNone).getD 0
  let key := core * 16 + slot
  let k := s.core core
  let tags := d.tags.zip k.freeTags
  let cvs := d.cvs.zip k.freeCvs
  let cbs := d.cbs.zip k.freeCbs
  let k1 : Core :=
    { k with
      tags := tags.foldl (fun t p => t.set p.2 { owner := slot, name := p.1 }) k.tags
      cvs := cvs.foldl (fun t p => t.set p.2 { name := p.1, wgslot := slot }) k.cvs
      cbslots := cbs.foldl (fun t p => t.set p.2 { owner := some key }) k.cbslots
      scaleqOwner := if d.scaleQ then some key else k.scaleqOwner }
  (key, (s.setCore core k1).setWg key { g with tags := tags, cvs := cvs, cbs := cbs, scaleQ := d.scaleQ, grant := d.grant, ckBytes := d.ckBytes })

/-- An owner's named barriers (R345): `nbar` physical ones, the names mapped in ascending order; every member of a gang reaches
them. -/
def State.grantNbs (s : State) (cl : Nat) (d : Demand) (wgs : List Nat) : State :=
  let phys := (s.cluster cl).freeNbs.take d.nbar
  let owner := wgs.headD 0
  let map := d.nbs.zip phys
  let s1 := s.modCluster cl fun c =>
    { c with nbs := phys.foldl (fun t p => t.set p { owner := some owner, name := ((map.find? fun m => m.2 = p).map Prod.fst).getD 0 }) c.nbs }
  wgs.foldl (fun s k => s.modWg k fun g => { g with nbs := map }) s1

/-- The slot for the next warp of a workgroup (R242): of the schedulers with a free slot, the one with the fewest occupied slots. -/
def State.pickSlot (s : State) (core : Nat) : Nat :=
  let free := s.freeSlots core
  let busy (i : Nat) : Nat := ((List.range 16).filter fun j => j % 4 = i % 4 && !free.contains j).length
  (free.foldl (fun (best : Option Nat) i =>
    match best with
    | none => some i
    | some b => if busy i < busy b then some i else some b) none).getD 0

/-! ## Starting a unit -/

/-- The threads of a warp at the kernel's entry (R191, R204). -/
def startThreads (r : LRec) (ksym t member warp : Nat) : List Thread :=
  (List.range (2 ^ recP r)).filterMap fun lane =>
    (widOf r t member warp lane).map fun wid =>
      { lane := lane, wid := wid, pc := { fsym := ksym, pix := 0 }, ck := { pc := { fsym := ksym, pix := 0 } } }

/-- A warp of a workgroup at the kernel's entry. -/
def State.newWarp (s : State) (l : Launch) (core gk t member widx budget : Nat) : Warp :=
  let ts := startThreads l.record l.ksym t member widx
  { wg := gk, asid := l.asid, lseq := l.lseq, tidx := t, modIdx := l.modIdx, budget := budget, widx := widx, gmember := member
    masks := lanesOf (ts.map Thread.lane) :: List.replicate 11 0, threads := ts, turnStart := s.cycle, hangBase := s.cycle
    lastIssue := s.cycle, slipw := (s.xin l.modIdx).slipw { fsym := l.ksym, w2e := w2eCore core, budget := budget } }

def State.startWarp (s : State) (l : Launch) (core gk t member widx budget : Nat) : State :=
  let slot := s.pickSlot core
  (s.setWarp (wkey core slot) (s.newWarp l core gk t member widx budget)).modWg gk fun g => { g with warps := g.warps ++ [wkey core slot] }

/-- A member starts on a core: its grant of zeros, then its warps in ascending `%warp` (R242, R256). -/
def State.startMember (s : State) (l : Launch) (core t member : Nat) (walker : Nat × Nat) : Nat × State :=
  let site := siteOf core
  let d := s.demand l site
  let (key, s1) := s.grantWg core d
    { asid := l.asid, lseq := l.lseq, tidx := t, modIdx := l.modIdx, gmember := if recGang l.record then member else 0, nwarps := d.nwarps
      budget := d.budget, start := s.cycle, placed := s.cycle, prio := l.prio, isGang := recGang l.record, walker := walker }
  (key, (List.range d.nwarps).foldl (fun s w => s.startWarp l core key t (if recGang l.record then member else 0) w d.budget) s1)

def State.startMembers (s : State) (l : Launch) (t : Nat) (walker : Nat × Nat) : List Nat → Nat → List Nat → List Nat × State
  | [], _, keys => (keys, s)
  | c :: cs, m, keys =>
    let (k, s1) := s.startMember l c t m walker
    s1.startMembers l t walker cs (m + 1) (keys ++ [k])

/-- The members of a gang form a group of key 0 (R262). -/
def State.formGang (s : State) (cl asid lseq t : Nat) (keys : List Nat) : State :=
  match (s.cluster cl).freeGroup with
  | none => s
  | some e =>
    let s1 := s.setGroup cl e { asid := asid, key := 0, gang := some (lseq, t), members := keys.zipIdx.map fun p => (p.2, p.1) }
    keys.zipIdx.foldl (fun s p => s.modWg p.1 fun g => { g with group := some (e, p.2) }) s1

/-- A UNIT STARTS on its cores (R216, R223), with an acquire there (R328). -/
def State.startUnit (s : State) (l : Launch) (cl t : Nat) (walker : Nat × Nat) (cores : List Nat) : State :=
  let (keys, s1) := s.startMembers l t walker cores 0 []
  let s2 := s1.grantNbs cl (s.demand l (cl / 4)) keys
  let s3 := if recGang l.record then s2.formGang cl l.asid l.lseq t keys else s2
  cores.foldl (fun s c => (s.modCore c fun k => { k with lastDispatch := some s.cycle }).acquire c .package) s3

/-! ## Parameters (R34, R35) -/

def State.kernelParams (s : State) (modIdx ksym : Nat) : List Ty := ((moduleFunc (s.moduleWords modIdx) ksym).map FuncInfo.params).getD []

def State.wgKsym (s : State) (g : Workgroup) : Nat := ((s.launch? g.asid g.lseq).map Launch.ksym).getD 0

/-- Bytes of the parameter block of a workgroup's kernel. -/
def State.paramBytes (s : State) (g : Workgroup) : Nat := (paramLayout (s.kernelParams g.modIdx (s.wgKsym g))).2

/-- The block has still to be read since the workgroup took its core (R35). -/
def State.blockDue (s : State) (gk : Nat) : Bool := s.paramBytes (s.wg gk) ≠ 0 && !(s.wg gk).blockRead

/-- The values of a kernel's parameters in its block, the unused bits of their containers zero (R31). -/
def paramVals (tys : List Ty) (bs : List Byte) : Tbl Val :=
  let offs := (paramLayout tys).1
  setVals 0 ((tys.zip offs).map fun p => mkVal p.1 (normBits p.1 (leVal ((bs.drop p.2).take p.1.bytes)))) []

/-- The bytes of a parameter block, or the first byte that cannot be read and its fault. -/
def State.readParams (s : State) (core asid base : Nat) : Nat → Nat → List Byte → Except (Nat × XFault) (List Byte)
  | 0, _, acc => .ok acc
  | n + 1, i, acc =>
    match s.xlat core asid false (base + i) false with
    | .error f => .error (base + i, f)
    | .ok x => s.readParams core asid base n (i + 1) (acc ++ [s.byte x.pa])

/-- The reads of a parameter block at the homes of its lines (R299, R325). -/
def State.paramReads (s : State) (core asid base : Nat) : Nat → State
  | 0 => s
  | n + 1 =>
    let s1 := s.paramReads core asid base n
    let a := base + n
    if n = 0 || a % 128 = 0 then
      match s1.xlat core asid false a false with
      | .ok x => s1.homeRead (lineOf x.pa) x.dom x.nc
      | .error _ => s1
    else s1

/-! ## Restored matrix state (R369) -/

/-- A handle among a thread's values, by what it was and is. -/
def rewriteVal (m : List (Nat × Nat)) (v : Val) : Val :=
  if v.tag = tyB32.code then
    match m.find? fun p => p.1 = v.bits.toNat with
    | some p => { v with bits := BitVec.ofNat 64 p.2 }
    | none => v
  else v

def rewriteVals (m : List (Nat × Nat)) (t : Tbl Val) : Tbl Val := t.mapVals fun _ v => rewriteVal m v
def rewriteStack (m : List (Nat × Nat)) (st : List CallFrame) : List CallFrame := st.map fun f => { f with vals := rewriteVals m f.vals }

/-- Every handle that a thread holds is rewritten (R369; log 21). -/
def Thread.rewrite (m : List (Nat × Nat)) (t : Thread) : Thread :=
  { t with vals := rewriteVals m t.vals, stack := rewriteStack m t.stack
           ck := { t.ck with vals := rewriteVals m t.ck.vals, stack := rewriteStack m t.ck.stack }
           handler := t.handler.map fun h => { h with vals := rewriteVals m h.vals, stack := rewriteStack m h.stack } }

/-- Reservations restored one by one: old and new handles, old and new records. -/
def Core.restoreResv (k : Core) (w2e : Bool) (wgk : Nat) : List (Nat × Resv) → List (Nat × Nat) → List (Nat × Nat × Nat × Nat) →
    Core × List (Nat × Nat) × List (Nat × Nat × Nat × Nat)
  | [], hs, rs => (k, hs, rs)
  | (i, r) :: rest, hs, rs =>
    match k.regrant w2e wgk r with
    | none => k.restoreResv w2e wgk rest hs rs
    | some (j, k1) =>
      let r1 := k1.resv.get {} j
      k1.restoreResv w2e wgk rest (hs ++ [(resvHandle i r, resvHandle j r1)]) (rs ++ [(i, r.gen, j, r1.gen)])

def Core.restoreAcc (k : Core) (w2e : Bool) (wgk : Nat) (saved : Tbl AccUnit) : List (Nat × AccUnit) → List (Nat × Nat) → Core × List (Nat × Nat)
  | [], hs => (k, hs)
  | (u, a) :: rest, hs =>
    match k.regrantAcc w2e wgk a ((a.second.bind fun v => saved.get? v).getD {}) a.second.isNone with
    | none => k.restoreAcc w2e wgk saved rest hs
    | some (v, k1) => k1.restoreAcc w2e wgk saved rest (hs ++ [(accHandle u a, accHandle v (k1.acc.get {} v))])

/-- A member's matrix state returns to a core: the core, and the pairs of old and new handles. -/
def Core.restoreMatrix (k : Core) (w2e : Bool) (wgk : Nat) (m : SavedMember) : Core × List (Nat × Nat) :=
  let (k1, h1, rs) := k.restoreResv w2e wgk m.resv [] []
  let (k2, h2) := k1.restoreAcc w2e wgk m.acc (m.acc.filter fun p => p.2.first) []
  let scales := m.scales.map fun e =>
    match rs.find? fun r => r.1 = e.resv && r.2.1 = e.gen with
    | some r => { e with wg := wgk, resv := r.2.2.1, gen := r.2.2.2 }
    | none => { e with wg := wgk }
  ({ k2 with scaleq := k2.scaleq ++ scales }, h1 ++ h2)

end Sys2Proof.Machine
end

