-- ==== Sys2Proof/Machine/Snapshots.lean ====
section
/-! DEFINITION. Sys2Proof/Machine/Snapshots.lean: the shards of a snapshot as firmware builds and checks them (R320, R436, R437). -/

namespace Sys2Proof.Machine

open Sys2Proof

/-- MAGIC of a shard (R320). -/
def snapMagic : W64 := 0x445241485350414E

/-- The 64 KiB frames of the leaves below a table that `q` picks (R311, R436). -/
def snapLeaves (s : State) (q : W64 → Bool) : List (Nat × Nat × Nat) → Nat → List Nat
  | [], _ => []
  | (l, lo, w) :: ls, table =>
    ((List.range (2 ^ w)).map fun i =>
      let p := s.word64 (table + 8 * i)
      if !p.getLsbD 0 || pteBad false l lo p then []
      else if p.getLsbD 1 then
        (if q p then (List.range (2 ^ (lo - 16))).map fun k => pteAddr p + 65536 * k else [])
      else snapLeaves s q ls (pteAddr p)).flatten

/-- A leaf that lets its context write. -/
def pteWritable (p : W64) : Bool := p.getLsbD 2 && !p.getLsbD 3

def snapPool (c : CtxDesc) : Nat × Nat := ((c.words.getD 19 0).toNat, (c.words.getD 20 0).toNat)

/-- The frame table of one die: each frame of the context homed there, in ascending order, with its destination after the table; none
where the pool is too small. -/
def State.snapTable (s : State) (site : Nat) (c : CtxDesc) : Option (List (Nat × Nat)) :=
  let fs := (((snapLeaves s pteWritable walkLevels (ctxRoot c false)).filter fun f => siteOfPa f = site).foldl (fun (t : Tbl Unit) f => t.set f ()) []).map Prod.fst
  let (base, len) := snapPool c
  let dst := (base + 128 + 80 * fs.length + 65535) / 65536 * 65536
  if base + len < dst + 65536 * fs.length then none else some (fs.zipIdx.map fun f => (f.1, dst + 65536 * f.2))

def entryBytes (es : List (Nat × Nat)) : List Byte := (es.map fun e => leBytes 8 e.1 ++ leBytes 8 e.2).flatten

/-- The manifest digest over the entry arrays of the dies, in site order. -/
def manifest (tables : List (List (Nat × Nat))) : List Byte := leBytes 64 (Config.sha512 (tables.map entryBytes).flatten).toNat

/-- The header's words 0 to 2, the digest, and the entries. -/
def State.writeShard (s : State) (site base : Nat) (step : W64) (digest : List Byte) (es : List (Nat × Nat)) : State :=
  let s1 := s.putWords base [snapMagic, step, BitVec.ofNat 64 (es.length * 2 ^ 32 + site)]
  let s2 := s1.writePa (base + 24) 0 true false digest
  let s3 := s2.putWords (base + 96) [0, 0, 0, 0]
  s3.writePa (base + 128) 0 true false (entryBytes es)

/-- Dies on which a context is loaded and enabled, with its descriptors. -/
def State.snapDies (s : State) (asid : Nat) : List (Nat × CtxDesc) :=
  [0, 1, 2, 3].filterMap fun i => if (s.die i).enabled then ((s.die i).ctx? asid).map fun c => (i, c.2) else none

/-- A SNAPSHOT IS STARTED for a context (R436): once none of its launches runs, every die's table is written and every die armed; with a
pool too small it is skipped. `site` raised the failure warning. -/
def State.snapStart (s : State) (site asid : Nat) : State :=
  if s.launches.any fun l => l.asid = asid then s.setInfo asid { s.info asid with snapPending := some site }
  else
    let s0 := s.setInfo asid { s.info asid with snapPending := none }
    let ds := s0.snapDies asid
    let tables := ds.map fun d => s0.snapTable d.1 d.2
    if tables.any Option.isNone then s0.post site asid { rkind := 8, code := 0, qual := 1, aux := site }
    else
      let es := tables.map fun t => t.getD []
      let step := BitVec.ofNat 64 (s0.info asid).nextLseq
      (ds.zip es).foldl (fun s d =>
        let base := (snapPool d.1.2).1
        let s1 := (s.writeShard d.1.1 base step (manifest es) d.2).modDie d.1.1 fun x => { x with snapSft := BitVec.ofNat 64 base, snapStep := step }
        { s1 with agenda := s1.agenda ++ [.happen (.snapshotArm d.1.1 (BitVec.ofNat 64 (d.2.length * 2 ^ 32 + 1)))] }) s0

/-! ## Restoring (R437) -/

structure Shard where
  magic : W64
  step : W64
  commit : W64
  digest : List Byte
  entries : List (Nat × Nat)
  deriving DecidableEq, Repr

def State.readShard (s : State) (base : Nat) : Shard :=
  let n := Nat.min 3145728 (field (s.word64 (base + 16)).toNat 32 32)
  { magic := s.word64 base, step := s.word64 (base + 8), commit := s.word64 (base + 88), digest := s.bytesAt (base + 24) 64
    entries := (List.range n).map fun i => ((s.word64 (base + 128 + 16 * i)).toNat, (s.word64 (base + 136 + 16 * i)).toNat) }

/-- QUAL of RESTORE_MIXED: bits by site. -/
def mixedQual (shards : List (Nat × Shard)) : Nat :=
  match shards.head? with
  | none => 0
  | some (_, r) =>
    let fresh := manifest (shards.map fun x => x.2.entries)
    (shards.map fun x =>
      (if x.2.step ≠ r.step then 2 ^ x.1 else 0) +
      (if x.2.commit ≠ x.2.step || x.2.magic ≠ snapMagic || x.2.digest ≠ r.digest || x.2.digest ≠ fresh then 2 ^ (4 + x.1) else 0)).foldl (· + ·) 0

/-- SHARD_RESTORE (R437): its STATUS and the state. -/
def State.restoreShards (s : State) (site slot : Nat) : Nat × State :=
  match (s.die site).ctxs.get? slot with
  | none => (3, s)
  | some c =>
    let asid := field (c.words.getD 0 0).toNat 32 16
    if s.launches.any fun l => l.asid = asid then (1, s)
    else
      let ds := s.snapDies asid
      let shards := ds.map fun d => (d.1, s.readShard (snapPool d.2).1)
      let q := mixedQual shards
      if q ≠ 0 then (2, s.postAny asid (fun _ => true) { rkind := 9, code := evRestoreMixed, qual := q })
      else
        let copy (s : State) (e : Nat × Nat) : State := s.writePa e.1 (ctxDomain c) false false (s.bytesAt e.2 65536)
        let s1 := shards.foldl (fun s x => x.2.entries.foldl copy s) s
        (0, { s1 with cores := s1.cores.mapVals fun _ k => { k with l1 := k.l1.filter fun l => l.2.asid ≠ asid } })

end Sys2Proof.Machine
end

