-- ==== Sys2Proof/Machine/Walkers.lean ====
section
/-! DEFINITION. Sys2Proof/Machine/Walkers.lean: acceptance and the deal (R209, R210, R215, R237, R241), walker operations: dispatch,
split, hand-off, drain (R216-R221, R226), lowered budgets (R117), completion (R211). -/

namespace Sys2Proof.Machine

open Sys2Proof

/-! ## Walkers -/

def State.walker (s : State) (cl wk : Nat) : Walker := (s.cluster cl).walkers.get {} wk

/-- A FREE walker is not listed. -/
def State.setWalker (s : State) (cl wk : Nat) (w : Walker) : State :=
  s.modCluster cl fun c => { c with walkers := if w.state = .free then c.walkers.del wk else c.walkers.set wk w }

/-- The lowest free walker of a cluster; one allotted to a split request under way is not free (R217). -/
def State.freeWalker (s : State) (cl : Nat) : Option Nat :=
  (List.range Config.walkersPerCluster).find? fun i =>
    (s.walker cl i).state = .free && !(s.clusters.any fun c => c.2.splitReqs.any fun r => clusterOf r.core = cl && r.nw = i)

def Walker.left (w : Walker) : Nat := w.tend - w.tcur

/-! ## The deal (R237) -/

def Launch.pattern (l : Launch) : List Nat := [0, 2, 1, 0, 2, 3].filter fun s => l.clusters.any fun c => c / 4 = s

/-- The `i`-th chunk of a cluster's share, counted from 0 over the launch's chunks; none where its die takes no part. -/
def Launch.chunkOf (l : Launch) (cl i : Nat) : Option Nat :=
  let pat := l.pattern
  let ps := (List.range pat.length).filter fun p => pat[p]? = some (cl / 4)
  let mates := l.clusters.filter fun c => c / 4 = cl / 4
  let j := (mates.findIdx fun c => c = cl) + i * mates.length
  if ps.isEmpty || !l.clusters.contains cl then none else some (j / ps.length * pat.length + ps.getD (j % ps.length) 0)

/-- The next interval of a cluster's share. -/
def Launch.nextChunk (l : Launch) (cl : Nat) : Option (Nat × Nat) :=
  if l.status ≠ 0 || l.draining then none
  else
    (l.chunkOf cl (l.share.get 0 cl)).bind fun k =>
      let c := recChunk l.record
      if k * c < l.n then some (k * c, Nat.min ((k + 1) * c) l.n) else none

/-- REFILL (R215): an ACTIVE walker whose interval is empty takes the next chunk, or becomes FREE. -/
def State.refill (s : State) (cl wk : Nat) : State :=
  let w := s.walker cl wk
  if w.state ≠ .active || w.tcur < w.tend then s
  else
    match s.launch? w.asid w.lseq with
    | none => s.setWalker cl wk {}
    | some l =>
      match l.nextChunk cl with
      | some (a, b) =>
        (s.setWalker cl wk { w with tcur := a, tend := b, triedAt := none }).modLaunch w.asid w.lseq
          fun l => { l with share := l.share.set cl (l.share.get 0 cl + 1) }
      | none => s.setWalker cl wk {}

/-! ## PROGWM (R220, R221) -/

/-- The watermark moves past started units. -/
def wmGo : Nat → Nat → List Nat → Nat × List Nat
  | 0, wm, st => (wm, st)
  | k + 1, wm, st => if st.contains wm then wmGo k (wm + 1) (st.filter (· ≠ wm)) else (wm, st)

def Launch.startIdx (l : Launch) (t : Nat) : Launch :=
  let r := wmGo (l.started.length + 1) l.wm (t :: l.started)
  { l with wm := r.1, started := r.2 }

/-- A promised unit (R220). -/
def Launch.promised (l : Launch) (t : Nat) : Bool := t ≤ l.wm

/-! ## Lowered budgets (R117) -/

/-- Whether some unit of a kernel's closure exceeds the native limits at a budget (R117). -/
def State.closureLimit (s : State) (l : Launch) (site budget : Nat) : Bool :=
  (closureFrom (s.moduleWords l.modIdx) l.ksym).any fun f =>
    s.unitLimit site { asid := l.asid, modIdx := l.modIdx, fsym := f, w2e := w2eSite site, budget := budget }

/-- The budget that admits a unit, or a gang's members, on cores of the cluster that have all else it needs, where no core of the cluster has the
registers at the present one. -/
def State.lowerTo (s : State) (l : Launch) (cl : Nat) : Option Nat :=
  let site := cl / 4
  let b := l.budgetOn site
  let d := s.demandAt l site b
  let least := Nat.max 8 ((b + 1) / 2)
  let budgets := ((List.range 16).map fun i => 8 * (16 - i)).filter fun x => x < b && least ≤ x
  let short := (coresOf cl).all fun c => Config.mainRegs (w2eCore c) < s.regsUsed c + d.nwarps * b
  let lowered (x : Nat) : Launch := { l with budgets := l.budgets.set site x }
  if !short || !((coresOf cl).any fun c => s.holdsBut c d) then none
  else budgets.find? fun x => !s.closureLimit l site x && (s.placeUnit (lowered x) cl none).isSome

def State.lowerBudget (s : State) (l : Launch) (cl new : Nat) : State :=
  let site := cl / 4
  (s.modLaunch l.asid l.lseq fun l => { l with budgets := l.budgets.set site new }).post site l.asid
    { rkind := 2, code := evRetranslate, lseq := l.lseq, modid := (s.modules[l.modIdx]?.map Module.modid).getD 0
      aux := l.budgetOn site + new * 256 + site * 65536 }

/-! ## Acceptance (R209, R210, R215, R241) -/

/-- The dies that a context enables on which it is loaded, out of reset. -/
def State.ctxDies (s : State) (site asid : Nat) : List Nat :=
  match (s.die site).ctx? asid with
  | none => []
  | some (_, c) => [0, 1, 2, 3].filter fun i =>
      ctxFlag c (16 + i) && (s.die i).enabled && ((s.die i).ctx? asid).any fun x => !x.2.saved

/-- A context saved, or being saved, runs nothing on the die (R424). -/
def State.ctxStopped (s : State) (site asid : Nat) : Bool := ((s.die site).ctx? asid).any fun c => c.2.saved

/-- In replay, the clusters and walkers that a die's next ACCEPT record names (R410). -/
def acceptWalkers (site : Nat) (r : List W64) : List (Nat × Nat) :=
  let w := (r.getD 3 0).toNat
  ((List.range 4).filter fun c => w.testBit c).map fun c => (site * 4 + c, field w (4 + 5 * c) 5)

/-- The clusters and walkers that would take part; none where the launch waits. -/
def State.takers (s : State) (site : Nat) (dies : List Nat) (replay : List (Nat × List W64)) : Option (List (Nat × Nat)) :=
  let free := (dies.map fun i => [0, 1, 2, 3].map fun c => i * 4 + c).flatten.filterMap fun c => (s.freeWalker c).map fun w => (c, w)
  if !replay.isEmpty then
    let ws := (replay.map fun p => acceptWalkers p.1 p.2).flatten
    if ws.all fun p => (s.walker p.1 p.2).state = .free then some ws else none
  else if (s.die site).schedcfg.getLsbD 32 then (if free.length = 4 * dies.length && !dies.isEmpty then some free else none)
  else if free.isEmpty then none else some free

/-- MAP and walkers of an ACCEPT record (R404). -/
def acceptMap (site : Nat) (ws : List (Nat × Nat)) : Nat :=
  ((ws.filter fun p => p.1 / 4 = site).map fun p => 2 ^ (p.1 % 4) + p.2 * 2 ^ (4 + 5 * (p.1 % 4))).foldl (· + ·) 0

/-- The pins of a footprint list on one die (R318). -/
def fpPins (asid lseq : Nat) (es : List FpEntry) : List PinRec :=
  es.map fun e => { asid := asid, lo := e.1, len := e.2.1, job := none, lseq := lseq }

/-- ACCEPTANCE of a record that passes its checks: none where it must wait. Where the checkpoint frames are too big for any core (R124), the
record of XLATE_LIMIT names the kernel with PIX 0: R54 gives a native limit no function and no index (DESIGN CHOICE, log 34). -/
def State.acceptLaunch (s : State) (site asid : Nat) (r : LRec) (prio : Nat) (queue : Option (Nat × Nat)) (pool : Option (Nat × Nat))
    (parent : Option (Nat × Nat × Nat)) : Option State :=
  match s.kernel? asid (field (recW r 0) 0 32) with
  | none => none
  | some (mi, ksym) =>
    let dies := s.ctxDies site asid
    let mode (i : Nat) : Nat := if recFlag r 54 then s.smpFor i asid else 0
    let replays := dies.filter fun i => mode i = 2
    let recs := replays.filterMap fun i => (s.findRec i fun x => recRt x = 1).map fun p => (i, p)
    let es := if recW r 9 = 0 then [] else (s.fpList site asid (recW r 9)).getD []
    match s.takers site dies (if recs.length = replays.length then recs.map fun p => (p.1, p.2.2) else []) with
    | none => none
    | some ws =>
      let sites := dies.filter fun i => ws.any fun p => p.1 / 4 = i
      let lseq := match recs.head? with | some p => recLseq p.2.2 | none => (s.info asid).nextLseq
      let logged := sites.filter fun i => mode i = 1
      let short := logged.filter fun i => (s.die i).smpFree = 0
      if sites.any fun i => 1024 < (s.die i).pins.length + es.length then none
      else if !short.isEmpty then some (short.foldl (fun s i => s.stallLog i lseq 0) s)
      else
        let l : Launch :=
          { asid := asid, lseq := lseq, record := r, modIdx := mi, ksym := ksym, prio := prio, n := recUnits r, clusters := ws.map Prod.fst
            acceptedAt := s.cycle, logged := recFlag r 54, queue := queue, pool := pool, parent := parent }
        let s1 := { (s.setInfo asid { s.info asid with nextLseq := (s.info asid).nextLseq + 1 }) with launches := s.launches ++ [l] }
        let s2 := logged.foldl (fun s i =>
          match s.reserve i 1 with
          | some (pa, s2) => s2.logRec i (some pa) 1 lseq 0 l.n (acceptMap i ws)
          | none => s) s1
        let s3 := recs.foldl (fun s p => s.consume p.1 p.2.1) s2
        let s4 := if recs.length = replays.length then s3 else (replays.filter fun i => !(recs.any fun p => p.1 = i)).foldl (fun s i => s.diverge i lseq 0) s3
        let s5 := sites.foldl (fun s i => s.modDie i fun d => { d with pins := d.pins ++ fpPins asid lseq es }) s4
        let s6 := ws.foldl (fun s p => (s.setWalker p.1 p.2 { state := .active, asid := asid, lseq := lseq, nextAt := s.cycle }).refill p.1 p.2) s5
        let words := s.moduleWords mi
        let tooBig (w2e : Bool) : Bool :=
          Config.ckptBytes w2e < recNwarps r * frameBytes (closureNck (s.xin mi) ksym w2e (if w2e then Nat.min (8 * recBud r) 96 else 8 * recBud r))
        let bad := (verifyKernel words ksym).or
          ((s.handler? site asid (field (recW r 0) 0 32)).bind fun h => verifyHandler words h.1)
        some (match bad with
          | some v => s6.translationFault asid lseq v.code v.fsym v.pix v.aux
          | none =>
            if tooBig false && tooBig true then s6.translationFault asid lseq evXlateLimit ksym 0 0
            else
              match s.fpFault site asid es with
              | some code => s6.stopLaunch asid lseq 3 code
              | none => s6)

/-! ## Completion (R211) -/

/-- The completion word. -/
def completionWord (lseq : Nat) (early : Bool) (code status : Nat) : W64 :=
  BitVec.ofNat 64 (lseq % 2 ^ 32 * 2 ^ 32 + (if early then 65536 else 0) + code % 256 * 256 + status % 256)

/-- The device writes the completion word, or reports that it cannot. -/
def State.signalBy (s : State) (asid lseq : Nat) (among : Nat → Bool) (csig : Nat) (w : W64) : State :=
  if csig = 0 then s
  else
    let fail (code : Nat) : State := s.postAny asid among { rkind := 3, code := code, lseq := lseq, aux := csig }
    if csig % 8 ≠ 0 then fail evAddrAlign
    else
      match s.postSite? asid among with
      | none => s
      | some i =>
        match s.writeVa i asid csig (leBytes 8 w.toNat) with
        | some s1 => s1
        | none => fail (match (s.walk i asid false csig).2 with | .leaf _ _ _ => evAddrPerm | _ => evAddrUnmapped)

def State.signal (s : State) (asid lseq csig : Nat) (w : W64) : State := s.signalBy asid lseq (fun _ => true) csig w

/-- A rejected record takes a number and completes (R209, R211). -/
def State.rejectLaunch (s : State) (asid : Nat) (r : LRec) (reason : Nat) : State :=
  let lseq := (s.info asid).nextLseq
  (s.setInfo asid { s.info asid with nextLseq := lseq + 1 }).signal asid lseq (recW r 8) (completionWord lseq false reason 1)

def insertRed (x : RedEntry) : List RedEntry → List RedEntry
  | [] => [x]
  | y :: ys => if x.wid < y.wid || (x.wid = y.wid && x.n ≤ y.n) then x :: y :: ys else y :: insertRed x ys

/-- The buffered reductions of a launch, applied in ascending key (R342). -/
def State.applyReds (s : State) : List RedEntry → State
  | [] => s
  | x :: xs =>
    let n := Nat.max 1 x.ty.bytes
    let v := atomNew .fadd false x.ty (leVal (s.bytesAt x.pa n)) x.v
    (s.writePa x.pa x.dom x.nc false (leBytes n v.toNat)).applyReds xs

def State.settleReds (s : State) (asid lseq status : Nat) : State :=
  let mine (x : RedEntry) : Bool := x.asid = asid && x.lseq = lseq
  let all := ((s.dies.map fun d => d.2.reds.filter mine).flatten).foldl (fun acc x => insertRed x acc) []
  let s1 := { s with dies := s.dies.mapVals fun _ d => { d with reds := d.reds.filter fun x => !mine x } }
  if status = 4 then s1 else s1.applyReds all

/-- Change a workgroup wherever it is: resident, saved or parked. -/
def State.modMember (s : State) (asid lseq tidx gm : Nat) (f : Workgroup → Workgroup) : State :=
  let g (x : Workgroup) : Workgroup := if x.asid = asid && x.lseq = lseq && x.tidx = tidx && x.gmember = gm then f x else x
  let u (x : SavedUnit) : SavedUnit := { x with members := x.members.map fun m => { m with wg := g m.wg } }
  { s with
    wgs := s.wgs.mapVals fun _ x => g x
    dies := s.dies.mapVals fun _ d =>
      { d with
        resume := d.resume.map u, parked := d.parked.map u
        landings := d.landings.mapVals fun _ x => { x with wg := g x.wg }, reland := d.reland.map fun x => { x with wg := g x.wg }
        ctxs := d.ctxs.mapVals fun _ c =>
          { c with saveUnits := c.saveUnits.map u, savedLandings := c.savedLandings.map fun x => (x.1, { x.2 with wg := g x.2.wg }) } } }

/-- Whether anything of a launch still runs, waits or is to be dispatched (R211). -/
def State.launchBusy (s : State) (l : Launch) : Bool :=
  let mine (a q : Nat) : Bool := a = l.asid && q = l.lseq
  let landed (x : Landing) : Bool := mine x.warp.asid x.warp.lseq
  (s.warps.any fun w => mine w.2.asid w.2.lseq) ||
  (s.dies.any fun d =>
    (d.2.resume ++ d.2.parked).any (fun u => mine u.asid u.lseq) || d.2.landings.any (fun x => landed x.2) || d.2.reland.any landed ||
    d.2.det.any (fun h => mine h.owner.asid h.owner.lseq) ||
    d.2.ctxs.any fun c => c.2.saveUnits.any (fun u => mine u.asid u.lseq) || c.2.savedLandings.any (fun x => landed x.2) ||
      c.2.savedWalkers.any fun w => mine w.2.2.asid w.2.2.lseq && w.2.2.state = .active && 0 < w.2.2.left) ||
  (s.clusters.any fun c => c.2.walkers.any fun w => mine w.2.asid w.2.lseq && 0 < w.2.left) ||
  (s.cores.any fun k => (k.2.jobs.any fun j => mine j.owner.asid j.owner.lseq) || k.2.hold.any fun e => mine e.owner.asid e.owner.lseq) ||
  l.clusters.any fun c => (l.nextChunk c).isSome

/-- LAUNCH_COMPLETION: buffered reductions, the completion word, and what the launch held (R211, R224, R227, R318). -/
def State.completeLaunch (s : State) (l : Launch) : State :=
  let s1 := (s.settleReds l.asid l.lseq l.status).freeWalkers l.asid l.lseq
  let s2 := s1.signalBy l.asid l.lseq l.takesPart (recW l.record 8) (completionWord l.lseq l.early l.code l.status)
  let s3 : State :=
    { s2 with
      launches := s2.launches.filter fun x => !(x.asid = l.asid && x.lseq = l.lseq)
      dies := s2.dies.mapVals fun i d =>
        { d with
          pins := d.pins.filter fun p => !(p.asid = l.asid && p.lseq = l.lseq && p.job.isNone)
          hq := d.hq.mapVals fun q h => if l.queue = some (i, q) then { h with live := h.live.filter (· ≠ l.lseq) } else h
          pool := d.pool.filter fun e => !(l.pool = some (i, e.order))
          ctxs := d.ctxs.mapVals fun _ c =>
            { c with savedPool := c.savedPool.filter fun e => !(e.asid = l.asid && l.pool = some (i, e.order)) } } }
  let s4 := match (s3.info l.asid).snapPending with
    | some site => s3.snapStart site l.asid
    | none => s3
  match l.parent with
  | none => s4
  | some (pl, pt, pg) =>
    s4.modMember l.asid pl pt pg fun g =>
      { g with joined := g.joined - 1, failed := if l.status = 0 then g.failed else Nat.min 65535 (g.failed + 1) }

/-- R211 LAUNCH_COMPLETION. -/
def execLaunchCompletion (asid lseq : Nat) (s : State) : Out :=
  match s.launch? asid lseq with
  | none => .next s
  | some l => .next (if s.launchBusy l then s else s.completeLaunch l)

/-! ## Dispatch (R216) -/

/-- In replay, the DISPATCH record of a walker's next unit, with the core that it names, a gang's first (R410). -/
def State.replayCore (s : State) (l : Launch) (cl wk t : Nat) : Option (Nat × Nat) :=
  (s.findRec (cl / 4) fun r => recRt r = 2 && recLseq r = l.lseq % 2 ^ 32 && (r.getD 2 0).toNat = t && field (r.getD 3 0).toNat 0 7 = cl % 4 + wk * 4).map
    fun p => (p.1, cl * 192 + field (p.2.getD 3 0).toNat 7 8)

/-- In replay, a split, hand-off or drain of a walker that its log has still to bring (R219, R226). -/
def State.walkerDue (s : State) (l : Launch) (cl wk : Nat) : Bool :=
  (s.findRec (cl / 4) fun r => recLseq r = l.lseq % 2 ^ 32 &&
    (((recRt r = 3 || recRt r = 4) && field (r.getD 3 0).toNat 0 9 = cl + wk * 16) ||
     (recRt r = 5 && field (r.getD 3 0).toNat 0 7 = cl % 4 + wk * 4))).isSome

/-- A dispatch refused: since when, for R220 and R246; a budget may be lowered (R117). -/
def State.refuseDispatch (s : State) (l : Launch) (cl wk : Nat) : State :=
  let w := s.walker cl wk
  let s1 := s.setWalker cl wk { w with triedAt := w.triedAt.or (some s.cycle) }
  match s.lowerTo l cl with
  | some b => s1.lowerBudget l cl b
  | none => s1

def State.dispatchOn (s : State) (l : Launch) (cl wk : Nat) (cores : List Nat) (log : Option Nat) : State :=
  let w := s.walker cl wk
  let t := w.tcur
  let s1 := s.setWalker cl wk { w with tcur := t + 1, nextAt := s.cycle + 8, prefer := none, triedAt := none, owed := false }
  let s2 := (s1.modLaunch l.asid l.lseq fun l => l.startIdx t).startUnit l cl t (cl, wk) cores
  let s3 := s2.logRec (cl / 4) log 2 l.lseq t t (cl % 4 + wk * 4 + cores.headD 0 % 192 * 128)
  s3.refill cl wk

/-- R216 WALKER_DISPATCH. Units of the resume list of equal or higher priority, and landed warps of the launch, come first
(R245, R252), as the machine's own order gives them. -/
def execWalkerDispatch (cl wk : Nat) (s : State) : Out :=
  let w := s.walker cl wk
  match s.launch? w.asid w.lseq with
  | none => .next s
  | some l =>
    .next (if w.state ≠ .active || w.tend ≤ w.tcur || s.cycle < w.nextAt || l.status ≠ 0 || s.ctxStopped (cl / 4) w.asid then s
      else
        if s.logMode (cl / 4) l.asid l.lseq = 2 then
          match s.replayCore l cl wk w.tcur with
          | none => if s.walkerDue l cl wk then s else s.diverge (cl / 4) l.lseq w.tcur
          | some (pa, core) =>
            let fits := if recGang l.record then (s.placeUnit l cl none).filter fun cs => cs.head? = some core
              else if s.holds core (s.demand l (cl / 4)) && recNbar l.record ≤ (s.cluster cl).freeNbs.length then some [core] else none
            match fits with
            | some cs => (s.dispatchOn l cl wk cs none).consume (cl / 4) pa
            | none => s
        else
          match s.placeUnit l cl w.prefer with
          | none => s.refuseDispatch l cl wk
          | some cs =>
            if s.logMode (cl / 4) l.asid l.lseq = 1 then
              match s.reserve (cl / 4) 1 with
              | some (pa, s1) => s1.dispatchOn l cl wk cs (some pa)
              | none => s.stallLog (cl / 4) l.lseq w.tcur
            else s.dispatchOn l cl wk cs none)

/-! ## Splits (R217, R218, R229) -/

/-- The victim of a split request of a cluster: the first cluster in the order of steals with a walker of the launch that holds two
indices, there the one with most, ties to the lowest. -/
def State.splitVictim (s : State) (cl asid lseq : Nat) : Option (Nat × Nat) :=
  (s.stealOrder cl).findSome? fun c =>
    let ws := (s.cluster c).walkers.filter fun w => w.2.state = .active && w.2.asid = asid && w.2.lseq = lseq && 2 ≤ w.2.left
    (ws.foldl (fun (best : Option (Nat × Nat)) w =>
      match best with
      | none => some (w.1, w.2.left)
      | some (b, n) => if n < w.2.left then some (w.1, w.2.left) else some (b, n)) none).map fun b => (c, b.1)

/-- R217 SPLIT_REQUEST. -/
def execSplitRequest (core asid lseq : Nat) (s : State) : Out :=
  match s.launch? asid lseq with
  | none => .next s
  | some l =>
    let cl := clusterOf core
    let since := Nat.max l.acceptedAt ((s.core core).lastDispatch.getD 0)
    .next (if l.status ≠ 0 || s.logMode (cl / 4) asid lseq = 2 || s.cycle < since + 16 || !(s.ctxDies (cl / 4) asid).contains (cl / 4) ||
        !(s.holds core (s.demand l (cl / 4))) then s
      else
        match s.freeWalker cl, s.splitVictim cl asid lseq with
        | some nw, some (c, v) =>
          s.modCluster c fun x =>
            { x with splitReqs := x.splitReqs ++
              [{ core := core, nw := nw, asid := asid, lseq := lseq, victim := v, arrive := if c / 4 = cl / 4 then s.cycle else s.cycle + 108 }] }
        | _, _ => s)

/-- Split(w, nw) of R217: the requester's walker takes the upper part. -/
def State.splitWalker (s : State) (cl wk ncl nw : Nat) (core : Option Nat) (log : Option Nat) : State :=
  let w := s.walker cl wk
  let mid := w.tcur + (w.left + 1) / 2
  let s1 := s.setWalker cl wk { w with tend := mid, nsplit := w.nsplit + 1 }
  let s2 := s1.setWalker ncl nw
    { state := .active, asid := w.asid, lseq := w.lseq, tcur := mid, tend := w.tend, nsplit := 1, nextAt := s.cycle + 1, prefer := core }
  s2.logRec (cl / 4) log 3 w.lseq 0 mid (cl + wk * 16 + ncl * 512 + nw * 8192 + core.getD 0 % 192 * 2 ^ 18)

/-- A split with its record; none where the log has no room (R409). -/
def State.loggedSplit (s : State) (cl wk ncl nw : Nat) (core : Option Nat) : Option State :=
  let w := s.walker cl wk
  if s.logMode (cl / 4) w.asid w.lseq = 1 then
    (s.reserve (cl / 4) 1).map fun p => p.2.splitWalker cl wk ncl nw core (some p.1)
  else some (s.splitWalker cl wk ncl nw core none)

/-- The request that acts first at a walker: arrival, then requester cluster, then core (R218). -/
def firstReq (wk now : Nat) : List SplitReq → Option SplitReq
  | [] => none
  | r :: rs =>
    if r.victim = wk && r.arrive ≤ now then
      match firstReq wk now rs with
      | none => some r
      | some q => if q.arrive < r.arrive || (q.arrive = r.arrive && q.core < r.core) then some q else some r
    else firstReq wk now rs

/-- R217 SPLIT at a victim walker; in replay, the logged split when the walker reaches it (R410). -/
def execSplit (cl wk : Nat) (s : State) : Out :=
  let w := s.walker cl wk
  .next (if s.logMode (cl / 4) w.asid w.lseq = 2 then
      match s.findRec (cl / 4) fun r => recRt r = 3 && recLseq r = w.lseq % 2 ^ 32 && field (r.getD 3 0).toNat 0 9 = cl + wk * 16 with
      | none => s
      | some (pa, r) =>
        let x := (r.getD 3 0).toNat
        let ncl := field x 9 4
        if w.state = .active && 2 ≤ w.left && (r.getD 2 0).toNat = w.tcur + (w.left + 1) / 2 && (s.walker ncl (field x 13 5)).state = .free then
          (s.splitWalker cl wk ncl (field x 13 5) (some (ncl * 192 + field x 18 8)) none).consume (cl / 4) pa
        else s
    else
      match firstReq wk s.cycle (s.cluster cl).splitReqs with
      | none => s
      | some r =>
        let drop := s.modCluster cl fun c => { c with splitReqs := c.splitReqs.filter (· ≠ r) }
        if w.state = .active && w.asid = r.asid && w.lseq = r.lseq && 2 ≤ w.left && !s.ctxStopped (cl / 4) w.asid then
          match drop.loggedSplit cl wk (clusterOf r.core) r.nw (some r.core) with
          | some s1 => s1
          | none => s.stallLog (cl / 4) w.lseq 0
        else drop)

/-! ## Drain (R226) -/

/-- R226 DRAIN_NOTICE at a walker. -/
def execDrainNotice (cl wk : Nat) (s : State) : Out :=
  let w := s.walker cl wk
  match s.launch? w.asid w.lseq with
  | none => .next s
  | some l =>
    let done (s : State) (log : Option Nat) : State :=
      (s.setWalker cl wk { w with state := .draining, tend := w.tcur }).logRec (cl / 4) log 5 l.lseq 0 w.tcur (cl % 4 + wk * 4)
    .next (if !l.draining || w.state ≠ .active then s
      else
        match s.logMode (cl / 4) l.asid l.lseq with
        | 1 => match s.reserve (cl / 4) 1 with
          | some (pa, s1) => done s1 (some pa)
          | none => s.stallLog (cl / 4) l.lseq 0
        | 2 =>
          match s.findRec (cl / 4) fun r => recRt r = 5 && recLseq r = l.lseq % 2 ^ 32 && field (r.getD 3 0).toNat 0 7 = cl % 4 + wk * 4 with
          | none => (done s none).diverge (cl / 4) l.lseq 0
          | some (pa, r) => if (r.getD 2 0).toNat = w.tcur then (done s none).consume (cl / 4) pa else s
        | _ => done s none)

/-! ## Without some units -/

/-- A state in which some workgroups are gone from their cores: what R220, R246 and R247 ask about. -/
def State.withoutWgs (s : State) (keys : List Nat) : State :=
  { s with
    warps := s.warps.filter fun w => !keys.contains w.2.wg
    wgs := s.wgs.filter fun g => !keys.contains g.1
    cores := s.cores.mapVals fun c k =>
      let slots := (keys.filter fun g => g / 16 = c).map (· % 16)
      let k1 := (keys.filter fun g => g / 16 = c).foldl Core.freeMatrix k
      { k1 with tags := k1.tags.filter fun t => !slots.contains t.2.owner, cvs := k1.cvs.filter fun t => !slots.contains t.2.wgslot }
    clusters := s.clusters.mapVals fun _ c =>
      { c with
        nbs := c.nbs.filter fun b => !(b.2.owner.any keys.contains)
        groups := (c.groups.mapVals fun _ x => { x with members := x.members.filter fun m => !keys.contains m.2 }).filter fun x => !x.2.members.isEmpty } }

/-- The unit of highest index among some workgroups. -/
def highest : List (Nat × Workgroup) → Option (Nat × Workgroup)
  | [] => none
  | g :: gs =>
    match highest gs with
    | none => some g
    | some h => if g.2.tidx < h.2.tidx then some h else some g

end Sys2Proof.Machine
end

