-- ==== Sys2Proof/Machine/SaveArea.lean ====
section
/-! DEFINITION. Sys2Proof/Machine/SaveArea.lean: frames as words (R376), checkpoint frames (R124, R125), the bodies that dumps and the context
save area share (R399), unit records, and the context save area as it stands in device memory (R425). -/

namespace Sys2Proof.Machine

open Sys2Proof

/-! ## Frames -/

abbrev FFrame := List W64

def frW (f : FFrame) (i : Nat) : Nat := (f.getD i 0).toNat
def frCode (f : FFrame) : Nat := field (frW f 0) 0 8
def frQual (f : FFrame) : Nat := field (frW f 0) 8 16
def frPrecise (f : FFrame) : Bool := (frW f 0).testBit 46
def frFaddr (f : FFrame) : W64 := f.getD 11 0
def frLanes (f : FFrame) : List Nat := (List.range 128).filter fun i => if i < 64 then (frW f 14).testBit i else (frW f 15).testBit (i - 64)

/-- A thread waits where its counter has passed the instruction: at a barrier (R346, R371). -/
def Wait.past : Wait → Bool
  | .barrier .. | .gang _ => true
  | _ => false

/-- Where a thread stands: the stop point (R378). -/
def Thread.stopPc (t : Thread) : PC := if t.wait.past then { t.pc with pix := t.pc.pix - 1 } else t.pc

/-! ## Checkpoint frames (R124, R125) -/

/-- Key of a lane of a checkpoint slot: bank 0 or 1. -/
def slotKey (bank : Bool) (slot lane : Nat) : Nat := ((if bank then 16 else 0) + slot) * 128 + lane

/-- The committed checkpoint slots as a thread's values at its committed head fill them (R123, R126). -/
def Plan.lower (p : Plan) (r : Nat) (t : Thread) (slots : Tbl Val) : Tbl Val :=
  (p.ckSlots r).foldl (fun m vj =>
    let v := t.ck.vals.get {} vj.1
    let m1 := m.set (slotKey (t.bank.getLsbD vj.2) vj.2 t.lane) (v.half false)
    if p.width vj.1 = 2 then m1.set (slotKey (t.bank.getLsbD (vj.2 + 1)) (vj.2 + 1) t.lane) (v.half true) else m1) slots

/-- Words 0 and 1 of the control block for a thread (R125, R183). -/
def State.ctlWords (s : State) (core : Nat) (w : Warp) (t : Thread) : W64 × W64 :=
  let creg := (s.planOf core w t.ck.pc.fsym).region t.ck.pc.pix
  (BitVec.ofNat 64 (t.bank.toNat * 2 ^ 48 + w.native.pend.toNat * 2 ^ 32 + creg % 2 ^ 32),
   BitVec.ofNat 64 (w.native.preg % 2 ^ 32 * 2 ^ 32 + (if w.native.pv then 2 ^ 31 else 0) + (if w.native.ckWv then 2 ^ 25 else 0) +
     w.native.rbp % 64 * 2 ^ 19 + t.rbc % 64 * 2 ^ 13 + w.native.ckWb % 128 * 64 + w.native.ckWn % 64))

/-! ## Bodies shared by dumps and unit records (R399) -/

def le (n v : Nat) : List Byte := leBytes n v
def zeros (n : Nat) : List Byte := List.replicate n 0

/-- Path groups of a warp, in ascending lowest lane. -/
def Warp.groupThreads (w : Warp) : List (List Thread) := w.groups.map fun g => w.threads.filter fun t => t.live && t.grp = g

def lanesBytes (m : LaneSet) : List Byte := le 16 m.toNat

/-- The body of a WARP section: the masks, and each path group with where it stands, its state and its event. -/
def State.warpBody (s : State) (core : Nat) (w : Warp) (view : Thread → PC × Nat × Nat) : List Byte :=
  let gs := w.groupThreads
  let one (ts : List Thread) : List Byte :=
    let (pc, st, ev) := view (ts.headD { lane := 0 })
    lanesBytes (lanesOf (ts.map Thread.lane)) ++ le 4 pc.pix ++ le 4 ((s.planOf core w pc.fsym).region pc.pix) ++ le 1 st ++ le 1 ev ++ zeros 6
  (w.masks.map lanesBytes).flatten ++ le 4 gs.length ++ zeros 4 ++ (gs.map one).flatten

/-- CVSTAT (R200). -/
def cvstat (v : CvReg) : Nat :=
  let st := match v.state with | .idle => 0 | .open_ => 1 | .ready => 2 | .broken => 3
  st * 2 ^ 62 + v.sig * 2 ^ 44 + v.cnt * 2 ^ 32 + v.gen % 65536 * 65536 + v.name % 16 * 4096 + v.wgslot % 256

/-- The body of a BARRIER section. -/
def barrierBody (bars : List NBar) (cvs : List CvReg) : List Byte :=
  let one (b : NBar) : List Byte :=
    le 1 b.name ++ zeros 1 ++ le 2 b.gen ++ le 4 (b.cnt.getD 0) ++ le 4 b.arr ++ le 1 (if b.all then 1 else 0) ++ le 1 (if b.abv then 1 else 0) ++ le 2 b.abg
  le 4 bars.length ++ le 4 cvs.length ++ (bars.map one).flatten ++ (cvs.map fun v => le 8 (cvstat v)).flatten

/-! ## Unit records (R425) -/

/-- A section of a unit record with its header; the length counts the header, as a dump's does (R399; log 32). -/
def unitSection (stype member widx : Nat) (body : List Byte) : List Byte :=
  le 2 stype ++ le 1 member ++ le 1 widx ++ le 4 (16 + body.length) ++ zeros 8 ++ body

/-- `n` bytes whose layout the manual does not give, of an object with these fields (log 32). -/
def openBytes (n : Nat) (fields : List Nat) : List Byte := (List.range n).map (Config.recordByte fields)

/-- Where a group of a saved warp stands: a halted one at its stop point, any other at its committed head (R249, R389). -/
def Thread.savedView (t : Thread) : PC × Nat × Nat :=
  if t.halted then (t.stopPc, 2, frCode t.frame) else (t.ck.pc, if t.ck.wait = .none then 0 else 1, 0)

/-- The 64 bytes of one lane of a WARP section. -/
def State.laneBytes (s : State) (core : Nat) (w : Warp) (lane : Nat) : List Byte :=
  match w.thread? lane with
  | none => zeros 64
  | some t =>
    let stack := t.ck.stack.take 16
    le 4 ((s.planOf core w t.ck.pc.fsym).region t.ck.pc.pix) ++ le 2 t.bank.toNat ++ le 1 t.rbc ++ le 1 stack.length ++
      (stack.map fun f => openBytes 3 [f.ret.fsym, f.ret.pix]).flatten ++ zeros (48 - 3 * stack.length) ++ le 1 (w.hangBase / 2 ^ 32) ++ le 3 t.ck.sb ++ zeros 4

/-- The body of a unit record's WARP section. -/
def State.warpRecord (s : State) (core : Nat) (w : Warp) : List Byte :=
  s.warpBody core w Thread.savedView ++ ((List.range 128).map (s.laneBytes core w)).flatten ++ le 4 w.hangBase ++ le 1 (if w.sample then 1 else 0) ++ zeros 3

/-- Slots of a frame (R124). -/
def nckOf (ckBytes : Nat) : Nat := (ckBytes - 64) / 1024

/-- A warp's checkpoint frame, as its threads at their committed heads fill it, and its tag store (R124, R126). -/
def State.frameRecord (s : State) (core : Nat) (w : Warp) (ckBytes : Nat) : List Byte :=
  let live := w.threads.filter Thread.live
  let slots := live.foldl (fun m t => (s.planOf core w t.ck.pc.fsym).lower ((s.planOf core w t.ck.pc.fsym).region t.ck.pc.pix) t m) w.native.slots
  let (a, b) := match live.head? with | some t => s.ctlWords core w t | none => (0, 0)
  let at_ (bank : Bool) (i l : Nat) : Val := slots.get {} (slotKey bank i l)
  let each (f : Bool → Nat → List Byte) : List Byte := ([false, true].map fun k => ((List.range (nckOf ckBytes)).map (f k)).flatten).flatten
  le 8 a.toNat ++ le 8 b.toNat ++ zeros 48 ++ each (fun k i => ((List.range 128).map fun l => le 4 (at_ k i l).bits.toNat).flatten) ++
    each (fun k i => (List.range 128).map fun l => (at_ k i l).tag.setWidth 8)

/-- One spill slot of a unit record: its number, its bytes, its tags (R131). -/
def spillRecord (w : Warp) (slot : Nat) (bs : List Byte) : List Byte :=
  le 4 slot ++ zeros 4 ++ bs ++ (List.range 128).map fun l => (((w.thread? l).map fun (t : Thread) => (t.spilled.get {} slot).tag).getD 0).setWidth 8

/-- The frames that a saved warp keeps: of its halted groups, and a pending one. -/
def Warp.savedFrames (w : Warp) : List FFrame :=
  let hs := (w.groupThreads.filterMap List.head?).filter fun t => t.halted && !t.frame.isEmpty
  hs.map Thread.frame ++ if (w.frame.getD 0 0).getLsbD 45 then [w.frame] else []

/-- Packed codes (R88). -/
def packBytes (bits n len : Nat) (code : Nat → Nat) : List Byte :=
  leBytes len (((List.range n).map fun i => code i % 2 ^ bits * 2 ^ (bits * i)).foldl (· + ·) 0)

/-- The contents of a reservation: rows of A, packed as in the operand buffer, an index map after each sparse row; column slices of B (R356). -/
def Resv.contents (r : Resv) : List Byte :=
  let b := mfBits r.fmt
  if r.side then ((List.range 64).map fun n => packBytes b r.k (64 * r.need) fun k => r.data.get 0 (k * 64 + n)).flatten
  else ((List.range r.rows).map fun m =>
    packBytes b r.vals (up16 (packedLen r.fmt r.vals)) (fun i => r.data.get 0 (m * 8192 + i)) ++
      if r.sp = .dense then [] else packBytes 4 r.vals (up16 (ceilDiv r.vals 2)) fun i => r.index.get 0 (m * 8192 + i)).flatten

def Resv.contentLen (r : Resv) : Nat :=
  if r.side then 64 * (64 * r.need) else r.rows * (up16 (packedLen r.fmt r.vals) + if r.sp = .dense then 0 else up16 (ceilDiv r.vals 2))

/-- A reservation record, whose layout in 32 bytes the manual does not give. -/
def Resv.record (i : Nat) (r : Resv) : List Byte :=
  openBytes 32 [i, r.gen, if r.side then 1 else 0, r.k, r.soff, r.cbs, mfBits r.fmt, if r.blk = .none then 0 else blkLen r.blk, if r.rows32 then 1 else 0, (spNM r.sp).1,
    (spNM r.sp).2]

def cbRecord (c : CbSlot) : List Byte :=
  let es := (c.entries.map fun e => le 2 e.toNat).flatten
  le 1 (match c.state with | .empty => 0 | .cb4 => 1 | .cb6 => 2) ++ es ++ zeros (128 - es.length)

/-- A scale-queue entry, whose layout the manual does not give. -/
def scaleRecord (e : ScaleEntry) : List Byte := openBytes 16 [e.resv, e.gen, e.bi] ++ (e.scales.map fun x => le 2 x.toNat).flatten ++ zeros (128 - 2 * e.scales.length)

/-- The body of a MATRIX section. -/
def SavedMember.matrixRecord (m : SavedMember) : List Byte :=
  ((List.range 32).map fun i => ((m.resv.get? i).map (Resv.record i)).getD (zeros 32)).flatten ++ (m.resv.map fun p => p.2.contents).flatten ++
    (m.acc.map fun p => ((List.range 2048).map fun e => le 6 (p.2.elems.get 0 e).toNat).flatten).flatten ++
    ((List.range 8).map fun i => cbRecord (m.cbs.get {} i)).flatten ++ (m.scales.map scaleRecord).flatten ++ le 8 m.wg.mstat.toNat

def windowRecord (x : Window) : List Byte := le 1 x.target ++ le 1 (if x.open_ then 1 else 0) ++ le 2 x.gen ++ zeros 4

def tagRecord (p : Nat × CopyTag) : List Byte := le 1 p.1 ++ le 1 p.2.cls ++ le 1 (if p.2.pend then 1 else 0) ++ le 1 p.2.err ++ zeros 4

/-- Gen(t) of R346 for the threads of a member. -/
def SavedMember.arrivals (m : SavedMember) : List Byte :=
  (m.warps.map fun w => ((w.threads.filter Thread.live).map fun t => le 2 (match t.ck.wait with | .barrier _ g _ => g | .gang g => g | _ => 0)).flatten).flatten

/-- The sections of one member: each warp's, then the workgroup's. -/
def State.memberSections (s : State) (core : Nat) (group : Option GroupEntry) (mi : Nat) (m : SavedMember) : List (List Byte) :=
  let warp (w : Warp) : List (List Byte) :=
    [unitSection 1 mi w.widx (s.warpRecord core w)] ++ (w.savedFrames.map fun f => unitSection 2 mi w.widx (f.map fun x => le 8 x.toNat).flatten) ++
    [unitSection 3 mi w.widx (s.frameRecord core w m.wg.ckBytes),
     unitSection 4 mi w.widx ((w.pendingRestart.getD []).map fun p => spillRecord w (p.1 / 512) p.2).flatten]
  (m.warps.map warp).flatten ++
    (if m.lost then [] else [unitSection 5 mi 255 ((List.range (256 * m.wg.grant)).map (cellGet m.wg.scratch))]) ++
    [unitSection 6 mi 255 (barrierBody (m.nbs.map Prod.snd) (m.cvs.map Prod.snd) ++ m.arrivals), unitSection 7 mi 255 (m.tags.map tagRecord).flatten] ++
    (match m.wg.group, group with
     | some (_, idx), some e => [unitSection 8 mi 255 (le 4 e.key ++ le 1 idx ++ zeros 3 ++ (m.wg.windows.map windowRecord).flatten)]
     | _, _ => []) ++
    if m.lost then [] else [unitSection 9 mi 255 m.matrixRecord]

def up64 (n : Nat) : Nat := (n + 63) / 64 * 64

/-- A unit record: its header and its sections. -/
def unitBytes (lseq tidx start prio members : Nat) (secs : List (List Byte)) : List Byte :=
  let body := secs.flatten
  le 8 lseq ++ le 8 tidx ++ le 8 start ++ le 1 prio ++ le 1 members ++ zeros 2 ++ le 4 secs.length ++ le 4 (64 + body.length) ++ zeros 28 ++ body

def State.unitRecord (s : State) (u : SavedUnit) : List Byte :=
  unitBytes u.lseq u.tidx u.start u.prio u.members.length ((u.members.zipIdx.map fun m => s.memberSections (u.cluster * 192) u.group m.2 m.1).flatten)

/-- The record of a landed warp that is not yet placed: its LANDING section, whose layout the manual does not give (R251). -/
def landingBytes : Nat := 64 + 16 + 16 * 640 + 192 + 128 * 8
def Landing.record (x : Landing) : List Byte :=
  unitBytes x.warp.lseq x.warp.tidx x.wg.start x.wg.prio 1
    [unitSection 10 0 x.warp.widx (openBytes (landingBytes - 80) [x.warp.asid, x.warp.lseq, x.warp.tidx, x.warp.widx, x.warp.threads.length])]

/-- Bytes of a unit record, without writing it out. -/
def SavedMember.bytes (m : SavedMember) : Nat :=
  let warp (w : Warp) : Nat :=
    (16 + 200 + 32 * w.groups.length + 128 * 64 + 8) + 144 * w.savedFrames.length + (16 + 64 + nckOf m.wg.ckBytes * 2 * 640) +
    (16 + 648 * (w.pendingRestart.getD []).length)
  (m.warps.map warp).foldl (· + ·) 0 + (if m.lost then 0 else 16 + 256 * m.wg.grant) + (16 + 8 + 16 * m.nbs.length + 8 * m.cvs.length + m.arrivals.length) +
  (16 + 8 * m.tags.length) + (if m.wg.group.isSome then 16 + 136 else 0) +
  if m.lost then 0 else
    16 + 32 * 32 + (m.resv.map fun r => r.2.contentLen).foldl (· + ·) 0 + m.acc.length * 2048 * 6 + 8 * 129 + m.scales.length * 144 + 8

def SavedUnit.bytes (u : SavedUnit) : Nat := up64 (64 + (u.members.map SavedMember.bytes).foldl (· + ·) 0)

/-- The saved units of a context on a die: those that resume or are parked. -/
def Die.unitsOf (d : Die) (asid : Nat) : List SavedUnit := (d.resume ++ d.parked).filter fun u => u.asid = asid

/-- Room in the save area of a context on a die (R422). -/
def State.saveFits (s : State) (site asid : Nat) (u : SavedUnit) : Bool :=
  match (s.die site).ctx? asid with
  | none => false
  | some (_, c) =>
    let held := ((s.die site).unitsOf asid ++ c.saveUnits).map SavedUnit.bytes
    256 + up64 (16 * (held.length + 1)) + held.foldl (· + ·) 0 + u.bytes ≤ (c.words.getD 18 0).toNat

/-! ## The save area (R425) -/

/-- A launch has a share, unit, walker, parked unit, pool entry or landed warp on a die. -/
def State.onDie (s : State) (site : Nat) (share : Bool) (l : Launch) : Bool :=
  let mine (a q : Nat) : Bool := a = l.asid && q = l.lseq
  let d := s.die site
  (share && l.clusters.any fun c => c / 4 = site) || (s.wgs.any fun g => siteOf (g.1 / 16) = site && mine g.2.asid g.2.lseq) ||
  (s.clusters.any fun c => c.1 / 4 = site && c.2.walkers.any fun w => mine w.2.asid w.2.lseq) ||
  ((d.resume ++ d.parked).any fun u => mine u.asid u.lseq) || (d.landings.any fun x => mine x.2.warp.asid x.2.warp.lseq) ||
  (d.reland.any fun x => mine x.warp.asid x.warp.lseq) ||
  (d.pool.any fun e => e.asid = l.asid && (e.accepted = some l.lseq || e.parent.any fun p => p.1 = l.lseq)) ||
  d.ctxs.any fun c => (c.2.saveUnits.any fun u => mine u.asid u.lseq) || (c.2.savedWalkers.any fun w => mine w.2.2.asid w.2.2.lseq) ||
    c.2.savedLandings.any fun x => mine x.2.warp.asid x.2.warp.lseq

def allOnes64 : Nat := 2 ^ 64 - 1

/-- A launch entry of the save area. -/
def launchEntry (site : Nat) (l : Launch) : List Byte :=
  let next (c : Nat) : Nat := if l.clusters.contains (site * 4 + c) then ((l.chunkOf (site * 4 + c) (l.share.get 0 (site * 4 + c))).getD allOnes64) else allOnes64
  ((l.record.map fun w => le 8 w.toNat).flatten ++ le 8 l.lseq ++ le 8 l.wm ++ ([0, 1, 2, 3].map fun c => le 8 (next c)).flatten ++
    le 8 ((if l.draining then 1 else 0) + if l.early then 2 else 0) ++ zeros 72)

/-- A walker record (R231). -/
def walkerRecord (cl wk : Nat) (w : Walker) : List Byte :=
  le 8 w.tcur ++ le 8 w.tend ++ le 8 (w.lseq % 2 ^ 32 * 2 ^ 32 + cl * 65536 + wk * 256 + (match w.state with | .active => 1 | .draining => 2 | .free => 0)) ++ le 8 w.nsplit

def poolRecord (e : PoolEntry) : List Byte := (e.record.map fun w => le 8 w.toNat).flatten ++ le 8 e.order ++ zeros 56

def queueEntry (q : Nat) (h : HostQueue) : List Byte := le 8 (q + h.savedState * 256 + h.ridx.toNat * 2 ^ 32) ++ le 8 h.live.length

def unitEntry (off : Nat) (kind len : Nat) : List Byte := le 8 off ++ le 8 (len + kind * 2 ^ 32)

/-- The sections after the header, each at a multiple of 64, with their offsets. -/
def layOut : Nat → List (List Byte) → List (Nat × List Byte)
  | _, [] => []
  | off, x :: xs => (off, x) :: layOut (off + up64 x.length) xs

/-- What the area holds after its header: launch entries, walker records, pool entries, queue entries, the unit table, and the unit records, in
offset order; the counts of the first five, and the end. -/
structure SaveImage where
  parts : List (Nat × List Byte)
  counts : List Nat
  total : Nat
  deriving DecidableEq, Repr

/-- The heap as the model lays it out, from offset 256 (log 32): kinds and bytes of the unit records, after the other sections. -/
def imageOf (sections : List (List Byte)) (counts : List Nat) (units : List (Nat × List Byte)) : SaveImage :=
  let utoff := 256 + (sections.map fun x => up64 x.length).foldl (· + ·) 0
  let recs := layOut (utoff + up64 (16 * units.length)) (units.map Prod.snd)
  let table := ((recs.zip units).map fun x => unitEntry x.1.1 x.2.1 x.1.2.length).flatten
  { parts := layOut 256 sections ++ [(utoff, table)] ++ recs, counts := counts ++ [units.length]
    total := utoff + up64 (16 * units.length) + (units.map fun u => up64 u.2.length).foldl (· + ·) 0 }

/-- The area while a CTX_CMD save is in effect (R424). -/
def State.saveImage (s : State) (site asid : Nat) (c : CtxDesc) : SaveImage :=
  let d := s.die site
  let ls := s.launches.filter fun l => l.asid = asid && s.onDie site true l
  let qs := d.hq.filter fun q => q.2.asid = asid && q.2.en
  imageOf [(ls.map (launchEntry site)).flatten, (c.savedWalkers.map fun w => walkerRecord w.1 w.2.1 w.2.2).flatten, (c.savedPool.map poolRecord).flatten,
      (qs.map fun q => queueEntry q.1 q.2).flatten]
    [ls.length, c.savedWalkers.length, c.savedPool.length, qs.length]
    ((c.saveUnits.map fun u => (if u.parked then 1 else 0, s.unitRecord u)) ++ c.savedLandings.map fun x => (2, x.2.record))

/-- The area at any other time: unit records alone. -/
def State.unitImage (s : State) (site asid : Nat) : SaveImage :=
  imageOf [[], [], [], []] [0, 0, 0, 0] (((s.die site).unitsOf asid).map fun u => (if u.parked then 1 else 0, s.unitRecord u))

/-- The header with its digest (R425). -/
def saveHeader (site asid scyc : Nat) (im : SaveImage) (saved : Nat) : List Byte :=
  let off (i : Nat) : Nat := ((im.parts[i]?).map Prod.fst).getD 0
  let cnt (i : Nat) : Nat := im.counts.getD i 0
  let front := le 8 0x313045564153_4B4B ++ le 1 1 ++ le 1 site ++ le 2 asid ++ le 1 saved ++ zeros 3 ++ le 8 scyc ++ le 4 (cnt 0) ++ le 4 (cnt 1) ++ le 4 (cnt 2) ++
    le 4 (cnt 3) ++ le 4 (cnt 4) ++ zeros 4 ++ le 8 (off 0) ++ le 8 (off 1) ++ le 8 (off 2) ++ le 8 (off 3) ++ le 8 (off 4) ++ zeros 8 ++ zeros 32
  front ++ leBytes 64 (Config.sha512 (front ++ zeros 128 ++ (im.parts.map Prod.snd).flatten)).toNat ++ zeros 64

/-- The area is written: what follows the header, then the header. -/
def State.writeArea (s : State) (base site asid scyc saved : Nat) (im : SaveImage) : State :=
  (im.parts.foldl (fun s p => s.writePa (base + p.1) 0 true false p.2) s).writePa base 0 true false (saveHeader site asid scyc im saved)

/-- The area follows the units saved and parked, which it holds at all times. -/
def State.syncArea (s : State) (site asid : Nat) : State :=
  match (s.die site).ctx? asid with
  | none => s
  | some (_, c) =>
    if c.words.getD 18 0 = 0 || !c.saveUnits.isEmpty then s
    else s.writeArea (c.words.getD 17 0).toNat site asid c.scyc 0 (s.unitImage site asid)

/-- Records at some offsets by ascending offset. -/
def insertSpan (x : Nat × Nat) : List (Nat × Nat) → List (Nat × Nat)
  | [] => [x]
  | y :: ys => if x.1 ≤ y.1 then x :: y :: ys else y :: insertSpan x ys

/-- The checks of a restore (R425), on the area as device memory holds it. -/
def State.restoreOk (s : State) (site asid : Nat) (c : CtxDesc) : Bool :=
  let base := (c.words.getD 17 0).toNat
  let len := (c.words.getD 18 0).toNat
  let at_ (off n : Nat) : Nat := leNat (s.bytesAt (base + off) n)
  let sections := (List.range 5).map fun i => (at_ (0x30 + 8 * i) 8, at_ (0x18 + 4 * i) 4 * [256, 32, 192, 16, 16].getD i 0)
  let within (x : Nat × Nat) : Bool := 256 ≤ x.1 && x.1 + x.2 ≤ len
  let ut := at_ 0x50 8
  256 ≤ len && at_ 0 8 = 0x313045564153_4B4B && at_ 8 1 = 1 && at_ 9 1 = site && at_ 0xA 2 = asid && sections.all within &&
    (let units := (List.range (at_ 0x28 4)).map fun i => (at_ (ut + 16 * i) 8, field (at_ (ut + 16 * i + 8) 8) 0 32)
     let spans := (sections ++ units).foldr insertSpan []
     units.all within &&
       at_ 0x80 64 = (Config.sha512 (s.bytesAt base 128 ++ zeros 64 ++ s.bytesAt (base + 192) 64 ++ (spans.map fun x => s.bytesAt (base + x.1) x.2).flatten)).toNat)

end Sys2Proof.Machine
end

