-- ==== Sys2Proof/Machine/Preempt.lean ====
section
/-! DEFINITION. Sys2Proof/Machine/Preempt.lean: pre-emption by region restart and what is saved (R245, R257, R267, R389, R390, R422,
R425), placement of saved, parked and landed units (R245, R252), warp restart (R128, R131), release (R288), and the causes of R246
and R247. -/

namespace Sys2Proof.Machine

open Sys2Proof

/-! ## Units -/

/-- The workgroups of a unit: its gang or sharing group, in member order, else itself (R267). -/
def State.unitWgs (s : State) (wgk : Nat) : List Nat :=
  match (s.wg wgk).group with
  | some (e, _) =>
    match s.groupEntry (clusterOf (wgk / 16)) e with
    | some x => x.members.map Prod.snd
    | none => [wgk]
  | none => [wgk]

/-- A frame awaits disposition (R376). -/
def Warp.framed (w : Warp) : Bool := (w.frame.getD 0 0).getLsbD 45

def maxPrio (gs : List Workgroup) : Nat := (gs.map Workgroup.prio).foldl Nat.max 0
def State.unitPrio (s : State) (wgk : Nat) : Nat := maxPrio ((s.unitWgs wgk).map s.wg)

/-- Jobs and tile operations of some workgroups have completed (R287, R369). -/
def State.drained (s : State) (keys : List Nat) : Bool :=
  keys.all fun g =>
    let k := s.core (g / 16)
    !(k.jobs.any fun j => j.wg = g) && !(k.tileOps.any fun o => o.wg = g) && !(k.scaleq.any fun e => e.wg = g && !e.arrived)

/-! ## Idempotence (R208, R257) -/

/-- The thread stands, at its committed head, inside the region whose head it last committed. -/
def threadIdem (ws : List W32) (t : Thread) : Option Nat :=
  match t.idem, moduleFunc ws t.ck.pc.fsym with
  | some (r, _), some f =>
    if t.ck.stack.isEmpty && (blockAt f.blocks t.ck.pc.pix).any fun b => idemOf f.blocks b.1 = some r then some r else none
  | _, _ => none

/-- Whether a workgroup's scratchpad is lost at pre-emption. -/
def State.losesPad (s : State) (wgk : Nat) : Bool :=
  let g := s.wg wgk
  let ws := s.moduleWords g.modIdx
  let ts := ((s.wgWarps wgk).map fun p => p.2.threads.filter Thread.live).flatten
  let joins := ts.any fun t => match t.wait with | .ljoin _ => true | _ => false
  if g.childLaunched || joins then false
  else
    ((s.launch? g.asid g.lseq).any fun l => recIdem l.record) ||
    (match ts.head?.bind (threadIdem ws) with
     | some r => ts.all fun t => threadIdem ws t = some r
     | none => false)

/-- A thread goes back to the head of its idempotent region. -/
def Thread.reenter (t : Thread) : Thread := ({ t with ck := (t.idem.map Prod.snd).getD t.ck, handler := none } : Thread).restart

/-! ## Saving (R390) -/

/-- Address of a warp slot's spill window (R131). -/
def State.spillBase (s : State) (core slot asid : Nat) : Nat :=
  match (s.die (siteOf core)).ctx? asid with
  | some (_, c) => (c.words.getD 3 0).toNat + (core * 16 + slot) * (field (c.words.getD 4 0).toNat 0 17 * 512)
  | none => 0

/-- The spill slots of a thread's window that a save keeps (R131): those of kind-5 entries at its committed head, and every slot below its spill
base; of a halted thread, what it has stored. -/
def State.savedSlots (s : State) (core : Nat) (w : Warp) (t : Thread) : List Nat :=
  if t.halted then t.spilled.map Prod.fst
  else
    let p := s.planOf core w t.ck.pc.fsym
    let at_ := p.spilledAt (p.region t.ck.pc.pix)
    List.range t.ck.sb ++
      ((p.spill.filter fun vj => at_.contains vj.1).map fun vj => (List.range (p.width vj.1)).map fun i => t.ck.sb + vj.2 + i).flatten

/-- Bytes of a warp's spill window, within one page. -/
def State.readSpill (s : State) (core asid va n : Nat) : Option (List Byte) :=
  if 2 ^ 57 ≤ va then none
  else
    match (s.walk (siteOf core) asid false va).2 with
    | .leaf _ p log2 =>
      let pa := pteAddr p + va % 2 ^ log2
      some (s.bytesAt pa n)
    | _ => none

/-- The spill slots of a warp that are saved, as first byte in the window and bytes. -/
def State.spillSave (s : State) (key : Nat) (w : Warp) : Tbl (List Byte) :=
  let slots := ((w.threads.filter Thread.live).map (s.savedSlots (key / 16) w)).flatten.eraseDups
  let base := s.spillBase (key / 16) (key % 16) w.asid
  slots.foldl (fun t j => match s.readSpill (key / 16) w.asid (base + 512 * j) 512 with
    | some bs => t.set (512 * j) bs
    | none => t) []

/-- A warp at the kernel's entry again: its threads, with their parameters, those that had exited among them (R208; log 28). -/
def Warp.anew (ts : List Thread) (vals : Tbl Val) (w : Warp) : Warp :=
  let start (t : Thread) : Thread := { t with vals := vals, ck := { t.ck with vals := vals } }
  { w with threads := ts.map fun t => ((w.threads.find? fun u => u.lane = t.lane && u.live && u.halted).getD (start t))
           masks := lanesOf (ts.map Thread.lane) :: w.masks.drop 1 }

/-- A warp as saved: its threads at their committed heads, but for halted groups (R249), or, its scratchpad lost, at the head of the idempotent
region or the kernel's entry (R208, R257); the hang counter kept as a count. -/
def State.saveWarp (s : State) (lost : Bool) (key : Nat) (w : Warp) : Warp :=
  let vals := paramVals (s.kernelParams w.modIdx (s.wgKsym (s.wg w.wg))) (s.wg w.wg).params
  let back (t : Thread) : Thread :=
    if !t.live then t
    else
      let t1 := { t with spilled := t.spilled.filter fun p => (s.savedSlots (key / 16) w t).contains p.1 }
      if t.halted then t1 else if lost then { t1.reenter with spilled := [] } else t1.restart
  let w1 : Warp := { w with threads := w.threads.map back, hangBase := w.hangCount s.cycle, fairPin := none
                            pendingRestart := some (if lost then [] else s.spillSave key w) }
  match s.launch? w.asid w.lseq with
  | some l => if lost && recIdem l.record then w1.anew (startThreads l.record l.ksym w.tidx w.gmember w.widx) vals else w1
  | none => w1

/-- A workgroup's warps as saved, in ascending `%warp` (R242); one that had exited starts again where the kernel does (R208). -/
def State.savedWarps (s : State) (lost : Bool) (wgk : Nat) : List Warp :=
  let g := s.wg wgk
  (List.range 16).filterMap fun i =>
    match (s.wgWarps wgk).find? fun p => p.2.widx = i with
    | some p => some (s.saveWarp lost p.1 p.2)
    | none =>
      match s.launch? g.asid g.lseq with
      | some l =>
        if lost && recIdem l.record && i < g.nwarps then
          let w := s.newWarp l (wgk / 16) wgk g.tidx g.gmember i g.budget
          some { w.anew w.threads (paramVals (s.kernelParams g.modIdx l.ksym) g.params) with hangBase := 0, pendingRestart := some [] }
        else none
      | none => none

/-- A member as saved; `lost` says that its scratchpad and matrix state are discarded. -/
def State.saveMemberAs (s : State) (lost : Bool) (wgk : Nat) : SavedMember :=
  let g := s.wg wgk
  let k := s.core (wgk / 16)
  { wg := { g with scratch := if lost then [] else g.scratch, stop := none, mstat := if lost then 0 else g.mstat }
    warps := s.savedWarps lost wgk
    tags := g.tags.map fun p => (p.1, k.tags.get {} p.2)
    cvs := g.cvs.map fun p => (p.1, k.cvs.get {} p.2)
    cbs := if lost then [] else g.cbs.map fun p => (p.1, k.cbslots.get {} p.2)
    nbs := g.nbs.map fun p => (p.1, s.nbar (clusterOf (wgk / 16)) p.2)
    resv := if lost then [] else k.resv.filter fun r => r.2.held = some wgk
    acc := if lost then [] else k.acc.filter fun a => a.2.held = some wgk
    scales := if lost then [] else k.scaleq.filter fun e => e.wg = wgk
    lost := lost }

def State.saveMember (s : State) (wgk : Nat) : SavedMember := s.saveMemberAs (s.losesPad wgk) wgk

def State.saveUnit (s : State) (keys : List Nat) (parked : Bool) : SavedUnit :=
  let g := s.wg (keys.headD 0)
  { asid := g.asid, lseq := g.lseq, tidx := g.tidx, prio := maxPrio (keys.map s.wg), start := g.start, cluster := clusterOf (keys.headD 0 / 16)
    members := keys.map s.saveMember
    group := g.group.bind fun e => s.groupEntry (clusterOf (keys.headD 0 / 16)) e.1, parked := parked }

/-! ## Leaving a core (R389 step 8, R426) -/

/-- Workgroups leave their cores: allotments are free once scrubbed. A gang's barriers stay with its remaining members. -/
def State.vacate (s : State) (keys : List Nat) : State :=
  let heirs (b : NBar) : NBar :=
    match b.owner with
    | some o =>
      if keys.contains o then
        match ((s.unitWgs o).filter fun k => !keys.contains k && (s.wg o).isGang).head? with
        | some h => { b with owner := some h }
        | none => b
      else b
    | none => b
  let s0 := { s with clusters := s.clusters.mapVals fun _ c => { c with nbs := c.nbs.mapVals fun _ b => heirs b } }
  let slots := (s.warps.filter fun w => keys.contains w.2.wg).map Prod.fst
  let s1 := s0.withoutWgs keys
  let s2 := slots.foldl (fun s k => s.modCore (k / 16) fun c => { c with scrubSlots := c.scrubSlots ++ [k % 16] }) s1
  let s3 := keys.foldl (fun t g => t.modCore (g / 16) fun c =>
    if (s.wg g).grant = 0 then c else { c with scrubScratch := c.scrubScratch.set (g % 16) ((s.wg g).grant) }) s2
  { s3 with
    issue := if s3.issue.any fun i => slots.contains (wkey i.core i.slot) then none else s3.issue }

/-! ## Pre-emption (R389) -/

def causeCode : Cause → Nat
  | .priority => 1 | .progress => 2 | .timeSlice => 3 | .coreError => 4 | .ctxSave => 5

/-- Lines that some warps hold unpublished. -/
def State.heldLines (s : State) (ws : List (Nat × Warp)) : Nat :=
  (ws.map fun p => ((s.core (p.1 / 16)).hold.filter fun e => e.owner = p.2.name && e.phase.isNone).length).foldl (· + ·) 0

/-- Step 4 and the PREEMPT records: each warp's boundary with its publications' records, then its own record; none at a parking. -/
def State.preemptWarps (s : State) (cause pa : Option Nat) : List (Nat × Warp) → State
  | [] => s
  | (key, w) :: r =>
    let core := key / 16
    let n := ((s.core core).hold.filter fun e => e.owner = w.name && e.phase.isNone).length
    let s1 := if n = 0 then s else s.boundaryOf core key w.name pa
    match cause with
    | none => s1.preemptWarps cause (pa.map (· + 32 * n)) r
    | some k =>
      let s2 := s1.logRec (siteOf core) (pa.map (· + 32 * n)) 8 w.lseq w.tidx w.ccnt
        (w.widx + k * 16 + core % 192 * 256 + clusterOf core % 4 * 65536)
      s2.preemptWarps cause (pa.map (· + 32 * (n + 1))) r

/-- In replay, the PREEMPT record of a warp (R404, R410). -/
def State.preemptRec (s : State) (site : Nat) (w : Warp) : Option (Nat × List W64) :=
  s.findRec site fun r => recRt r = 8 && recLseq r = w.lseq % 2 ^ 32 && recTidx r = w.tidx % 2 ^ 32 && field (r.getD 3 0).toNat 0 4 = w.widx % 16

/-- The log pre-empts the warp at its present commit count. -/
def State.replayHeld (s : State) (site : Nat) (w : Warp) : Bool :=
  s.logMode site w.asid w.lseq = 2 && (s.preemptRec site w).any fun r => (r.2.getD 2 0).toNat ≤ w.ccnt

/-- The replayed records of a unit are consumed. -/
def State.consumePreempt (s : State) (site : Nat) (ws : List (Nat × Warp)) : State :=
  ws.foldl (fun s p => match (if s.replayHeld site p.2 then s.preemptRec site p.2 else none) with
    | some r => s.consume site r.1
    | none => s) s

/-- A PRE-EMPTION TAKES PLACE: the unit's jobs have completed and no warp of it has a frame or an event. -/
def State.preemptNow (s : State) (keys : List Nat) (cause : Cause) : State :=
  let core := keys.headD 0 / 16
  let site := siteOf core
  let g := s.wg (keys.headD 0)
  let ws := s.warpsOf keys
  let u := s.saveUnit keys false
  let clear := keys.foldl (fun s k => s.modWg k fun g => { g with stop := none }) s
  if !s.saveFits site g.asid u then clear
  else
    let need := s.heldLines ws + ws.length
    let go (s : State) (pa : Option Nat) : State :=
      let s1 := s.preemptWarps (some (causeCode cause)) pa ws
      let s2 := if (s1.die site).ctx? g.asid |>.any fun c => ctxFlag c.2 4 then
          s1.post site g.asid { rkind := 2, code := evPreempt, lseq := g.lseq, tidx := g.tidx }
        else s1
      ((s2.vacate keys).modDie site fun d => { d with resume := d.resume ++ [u] }).syncArea site g.asid
    if s.logMode site g.asid g.lseq = 1 then
      match s.reserve site need with
      | some (pa, s1) => go s1 (some pa)
      | none => (keys.foldl (fun s k => s.modWg k fun g => { g with stop := some cause }) s).stallLog site g.lseq g.tidx
    else go (s.consumePreempt site ws) none

/-- R389 PREEMPTION of the unit that a workgroup belongs to: a frame or an event ends it (R377, R389.2); else issue stops, but for a group in its
commit span (R127) or with an access at its home, until these and the unit's jobs have completed. -/
def execPreemption (core wgslot : Nat) (cause : Cause) (s : State) : Out :=
  let gk := core * 16 + wgslot
  let g := s.wg gk
  let keys := s.unitWgs gk
  let ws := s.warpsOf keys
  .next (if (s.wgs.get? gk).isNone || g.ended || ws.isEmpty then s
    else if s.logMode (siteOf core) g.asid g.lseq = 2 && cause ≠ .ctxSave && cause ≠ .coreError && !(ws.all fun p => s.replayHeld (siteOf core) p.2) then s
    else if ws.any fun p => p.2.event.isSome || (p.2.framed && !(p.2.threads.any fun t => t.halted)) then
      keys.foldl (fun s k => s.modWg k fun g => { g with stop := none }) s
    else if (ws.any fun p => p.2.inSpan || p.2.midEffect) || !s.drained keys then
      keys.foldl (fun s k => s.modWg k fun g => { g with stop := some cause }) s
    else s.preemptNow keys cause)

/-! ## Placing again (R245) -/

def remapPhys (old new : Tbl Nat) (p : Nat) : Nat :=
  match old.find? fun m => m.2 = p with
  | some m => new.get p m.1
  | none => p

def remapWait (o n : Workgroup) : Wait → Wait
  | .barrier p g a => .barrier (remapPhys o.nbs n.nbs p) g a
  | .sign p => .sign (remapPhys o.cvs n.cvs p)
  | w => w

def Thread.remap (o n : Workgroup) (t : Thread) : Thread :=
  { t with wait := remapWait o n t.wait, ck := { t.ck with wait := remapWait o n t.ck.wait }
           cwait := t.cwait.map fun c => (remapPhys o.tags n.tags c.1, c.2) }

def State.savedDemand (s : State) (u : SavedUnit) (m : SavedMember) : Demand :=
  let owner := !m.wg.isGang || m.wg.gmember = 0
  { nwarps := m.warps.length, budget := m.wg.budget, grant := m.wg.grant, ckBytes := m.wg.ckBytes, tags := m.wg.tags.map Prod.fst
    cvs := m.wg.cvs.map Prod.fst, cbs := m.wg.cbs.map Prod.fst, nbs := m.wg.nbs.map Prod.fst
    nbar := if owner then ((s.launch? u.asid u.lseq).map fun l => recNbar l.record).getD 0 else 0
    scaleQ := m.wg.scaleQ, resv := m.resv.map Prod.snd, acc := (m.acc.filter fun a => a.2.first).map fun a => a.2.second.isNone }

/-- A saved warp takes a slot; its restart is pending (R128). -/
def State.placeWarp (s : State) (core key : Nat) (old : Workgroup) (handles : List (Nat × Nat)) (w : Warp) : State :=
  let slot := s.pickSlot core
  let g := s.wg key
  let w1 : Warp := { w with wg := key, threads := w.threads.map fun t => (t.remap old g).rewrite handles, hangBase := s.cycle - w.hangBase
                            turnStart := s.cycle, lastIssue := s.cycle }
  (s.setWarp (wkey core slot) w1).modWg key fun g => { g with warps := g.warps ++ [wkey core slot] }

/-- One member returns to a core. -/
def State.placeMember (s : State) (u : SavedUnit) (core : Nat) (m : SavedMember) : Nat × State :=
  let d := s.savedDemand u m
  let (key, s1) := s.grantWg core d
    { m.wg with warps := [], group := none, nbs := m.wg.nbs, placed := s.cycle, blockRead := false, parking := false, stop := none }
  let g := s1.wg key
  let k := s1.core core
  let (k1, handles) := k.restoreMatrix (w2eCore core) key m
  let k2 : Core :=
    { k1 with
      tags := g.tags.foldl (fun t p => t.set p.2 { (m.tags.get {} p.1) with owner := key % 16, name := p.1 }) k1.tags
      cvs := g.cvs.foldl (fun t p => t.set p.2 { (m.cvs.get {} p.1) with wgslot := key % 16, name := p.1 }) k1.cvs
      cbslots := g.cbs.foldl (fun t p => t.set p.2 { (m.cbs.get {} p.1) with owner := some key }) k1.cbslots }
  (key, m.warps.foldl (fun s w => s.placeWarp core key m.wg handles w) (s1.setCore core k2))

/-- A member's barriers, with their state; a gang's members share the first member's. -/
def State.placeNbs (s : State) (cl : Nat) (u : SavedUnit) (m : SavedMember) (keys : List Nat) : State :=
  let d := s.savedDemand u m
  let s1 := s.grantNbs cl d keys
  let g := s1.wg (keys.headD 0)
  let s2 := g.nbs.foldl (fun s p => s.setNbar cl p.2 { (m.nbs.get {} p.1) with owner := some (keys.headD 0), name := p.1 }) s1
  -- waits were saved under the old physical numbers
  keys.foldl (fun s k => (s.wgWarps k).foldl (fun s p => s.modWarp p.1 fun w =>
    { w with threads := w.threads.map (Thread.remap { m.wg with cvs := [], tags := [] } { g with cvs := [], tags := [] }) }) s) s2

/-- Place the members one after another; none where one finds no core. -/
def State.placeMembers (s : State) (u : SavedUnit) (cl : Nat) (prefer : Option Nat) : List SavedMember → List Nat → List Nat →
    Option (List Nat × List Nat × State)
  | [], keys, cores => some (keys, cores, s)
  | m :: ms, keys, cores =>
    let d := s.savedDemand u m
    let pick := if m.wg.isGang then (coresOf cl).find? fun c => cores.all (· < c) && s.holds c d else s.pickCore cl { d with nbar := 0 } prefer
    match pick with
    | none => none
    | some c =>
      let (k, s1) := s.placeMember u c m
      s1.placeMembers u cl prefer ms (keys ++ [k]) (cores ++ [c])

/-- The unit is placed in a cluster; none where it does not fit. -/
def State.placeSaved (s : State) (u : SavedUnit) (cl : Nat) (prefer : Option Nat) : Option (Nat × State) :=
  let bars := (u.members.map fun m => (s.savedDemand u m).nbar).foldl (· + ·) 0
  if (s.cluster cl).freeNbs.length < bars || (u.group.isSome && (s.cluster cl).freeGroup.isNone) then none
  else
    match s.placeMembers u cl prefer u.members [] [] with
    | none => none
    | some (keys, cores, s1) =>
      let gang := u.members.any fun m => m.wg.isGang
      let s2 := if gang then (match u.members.head? with | some m => s1.placeNbs cl u m keys | none => s1)
        else (u.members.zip keys).foldl (fun s p => s.placeNbs cl u p.1 [p.2]) s1
      let s3 := match u.group, (s2.cluster cl).freeGroup with
        | some e, some i =>
          let idx := u.members.map fun m => (m.wg.group.map Prod.snd).getD 0
          let ms := (idx.zip keys).foldl (fun (t : Tbl Nat) p => t.set p.1 p.2) []
          (idx.zip keys).foldl (fun s p => s.modWg p.2 fun g => { g with group := some (i, p.1) }) (s2.setGroup cl i { e with members := ms })
        | _, _ => s2
      some (cores.headD 0, s3)

/-- The clusters for a saved unit, in order (R245). -/
def homeOrder (cl : Nat) : List Nat := [0, 1, 2, 3].map fun i => cl / 4 * 4 + (cl % 4 + i) % 4

def firstPlace (s : State) (u : SavedUnit) (prefer : Option Nat) : List Nat → Option (Nat × State)
  | [] => none
  | cl :: cls => match s.placeSaved u cl prefer with | some r => some r | none => firstPlace s u prefer cls

/-- Room has been made in a cluster, or is being made, for a new unit of this priority or higher, which takes it first (R220, R246, R247; log 29). -/
def State.owedIn (s : State) (cl prio : Nat) : Bool :=
  let room (c : Nat) (w : Walker) : Bool :=
    w.owed && w.state = .active && 0 < w.left &&
    (match s.launch? w.asid w.lseq with
     | some l => prio ≤ l.prio && (c = cl || (w.tcur = l.wm && (s.stealOrder c).contains cl)) &&
         ((s.placeUnit l cl w.prefer).isSome || s.wgs.any fun g => clusterOf (g.1 / 16) = cl && g.2.stop.isSome)
     | none => false)
  s.clusters.any fun c => c.2.walkers.any fun w => room c.1 w.2

/-- The clusters to which a saved unit may return now. -/
def State.homesFor (s : State) (u : SavedUnit) : List Nat := (homeOrder u.cluster).filter fun cl => !s.owedIn cl u.prio

/-- The order of the resume list (R245). -/
def before (u v : SavedUnit) : Bool := v.prio < u.prio || (u.prio = v.prio && u.tidx < v.tidx)
def insertUnit (u : SavedUnit) : List SavedUnit → List SavedUnit
  | [] => [u]
  | v :: vs => if before v u then v :: insertUnit u vs else u :: v :: vs
def sortUnits (us : List SavedUnit) : List SavedUnit := us.foldl (fun acc u => insertUnit u acc) []

def eraseUnit (u : SavedUnit) : List SavedUnit → List SavedUnit
  | [] => []
  | v :: vs => if v = u then vs else v :: eraseUnit u vs

/-- A RESUME record: `site`, the unit, where (R404). -/
def State.resumeRec (s : State) (site : Nat) (log : Option Nat) (u : SavedUnit) (core : Nat) : State :=
  s.logRec site log 9 u.lseq u.tidx 0 (core % 192 * 256 + clusterOf core % 4 * 65536)

/-- A unit of a list is placed on its die: the first in order that some core can hold. In replay, on the logged core. -/
def State.resumeOne (s : State) (site : Nat) (drop : SavedUnit → State → State) : List SavedUnit → State
  | [] => s
  | u :: us =>
    match s.logMode site u.asid u.lseq with
    | 2 =>
      match s.findRec site fun r => recRt r = 9 && recLseq r = u.lseq % 2 ^ 32 && recTidx r = u.tidx % 2 ^ 32 with
      | none => s.diverge site u.lseq u.tidx
      | some (pa, r) =>
        let cl := site * 4 + field (r.getD 3 0).toNat 16 2
        match s.placeSaved u cl (some (cl * 192 + field (r.getD 3 0).toNat 8 8)) with
        | some (_, s1) => (drop u s1).consume site pa
        | none => s.resumeOne site drop us
    | m =>
      let homes := s.homesFor u
      match firstPlace s u none homes with
      | none => s.resumeOne site drop us
      | some (_, s2) =>
        if m = 1 then
          match s.reserve site 1 with
          | none => s.stallLog site u.lseq u.tidx
          | some (pa, s1) =>
            match firstPlace s1 u none homes with
            | none => s
            | some (c, s3) => drop u (s3.resumeRec site (some pa) u c)
        else drop u s2

/-- A restored landing takes a landing slot that has fallen free (R252). -/
def State.reLand (s : State) (site : Nat) : State :=
  s.modDie site fun d =>
    match d.reland, (List.range Config.landingSlots).find? fun i => (d.landings.get? i).isNone with
    | x :: r, some i => { d with landings := d.landings.set i x, reland := r }
    | _, _ => d

/-- Each walker returns to its place, else to the lowest free one of the cluster: a logged hand-off (R231). One that finds none waits. -/
def State.returnWalker (s : State) (site slot : Nat) (x : Nat × Nat × Walker) : State :=
  let (cl, wk, w) := x
  if (s.walker cl wk).state = .free then s.setWalker cl wk w
  else
    match s.freeWalker cl with
    | none => s.modDie site fun d => d.modCtx slot fun c => { c with savedWalkers := c.savedWalkers ++ [x] }
    | some j =>
      let s1 := s.setWalker cl j { w with nsplit := w.nsplit + 1 }
      if s1.logMode (cl / 4) w.asid w.lseq = 1 then
        match s1.reserve (cl / 4) 1 with
        | some (pa, s2) => s2.logRec (cl / 4) (some pa) 4 w.lseq 0 w.tcur (cl + wk * 16 + cl * 512 + j * 8192)
        | none => s1
      else s1

def State.returnWalkers (s : State) (site slot : Nat) (ws : List (Nat × Nat × Walker)) : State :=
  ws.foldl (fun s x => s.returnWalker site slot x) (s.modDie site fun d => d.modCtx slot fun c => { c with savedWalkers := [] })

/-- What a restored context waits for: a landing slot (R252), walkers (R231). -/
def State.settleRestored (s : State) (site : Nat) : State :=
  (s.die site).ctxs.foldl (fun s c => if c.2.saved || c.2.savedWalkers.isEmpty then s else s.returnWalkers site c.1 c.2.savedWalkers) (s.reLand site)

/-- R245 RESUME_PLACEMENT. -/
def execResumePlacement (site : Nat) (s : State) : Out :=
  .next ((s.settleRestored site).resumeOne site (fun u s => (s.modDie site fun d => { d with resume := eraseUnit u d.resume }).syncArea site u.asid) (sortUnits (s.die site).resume))

/-- R227 PARK_RESUME: a parked workgroup whose joined children have all completed is placed again. -/
def execParkResume (site : Nat) (s : State) : Out :=
  .next (s.resumeOne site (fun u s => (s.modDie site fun d => { d with parked := eraseUnit u d.parked }).syncArea site u.asid)
    (sortUnits ((s.die site).parked.filter fun u => u.members.all fun m => !m.wg.parking || m.wg.joined = 0)))

/-- A landed thread's callers, innermost first, under their units on this die: the spill base above them, the frames, and what their spill slots
hold (R118, R441; log 26). -/
def relocStack (plan : Nat → Plan) : List CallFrame → Nat × List CallFrame × Tbl Val
  | [] => (0, [], [])
  | f :: fs =>
    let (b, gs, m) := relocStack plan fs
    let p := plan f.ret.fsym
    let put (m : Tbl Val) (vj : Nat × Nat) : Tbl Val :=
      match f.vals.get? vj.1 with
      | some x => (List.range (p.width vj.1)).foldl (fun m i => m.set (b + vj.2 + i) (x.half (i = 1))) m
      | none => m
    (b + p.nspill, { f with sbInc := p.nspill } :: gs, p.spill.foldl put m)

def Thread.relocate (plan : Nat → Plan) (t : Thread) : Thread :=
  let (b, st, m) := relocStack plan t.stack
  { t with stack := st, sb := b, spilled := m, ck := { t.ck with stack := st, sb := b } }

/-- A landed warp, its spill slots to be written again. -/
def Warp.relocate (plan : Nat → Plan) (w : Warp) : Warp :=
  let ts := w.threads.map fun t => if t.live then t.relocate plan else t
  let slots := ((ts.filter Thread.live).map fun t => t.spilled.map Prod.fst).flatten.eraseDups
  let bytes (j : Nat) : List Byte := ((List.range 128).map fun l =>
    leBytes 4 (((((ts.find? fun t => t.live && t.lane = l).bind fun t => t.spilled.get? j).map Val.bits).getD 0).toNat)).flatten
  { w with threads := ts, pendingRestart := some (slots.foldl (fun t j => t.set (512 * j) (bytes j)) []) }

/-- R252 LANDED_WARP_PLACEMENT: a landed warp is placed as a workgroup of one warp, translated for the die. -/
def execLandedWarpPlacement (site landing : Nat) (s : State) : Out :=
  match (s.die site).landings.get? landing with
  | none => .next s
  | some x =>
    match s.launch? x.warp.asid x.warp.lseq with
    | none => .next s
    | some l =>
      let d := s.demand l site
      .next (if (s.die site).resume.any fun u => l.prio ≤ u.prio && (firstPlace s u none (homeOrder u.cluster)).isSome then s
        else
          match ((List.range 4).map (site * 4 + ·)).findSome? fun cl => (s.pickCore cl d none).map fun c => (cl, c) with
          | none => s
          | some (cl, core) =>
            let (key, s1) := s.grantWg core d { x.wg with budget := d.budget, warps := [], nbs := [], placed := s.cycle, blockRead := false }
            let s2 := s1.grantNbs cl d [key]
            let w0 : Warp := { x.warp with budget := d.budget }
            let w := w0.relocate (s.planOf core w0)
            (s2.placeWarp core key x.wg [] w).modDie site fun d => { d with landings := d.landings.del landing })

/-! ## Restart (R128, R131) -/

/-- The write-back of one spill slot, byte by byte: the state, or the first byte that cannot be written. -/
def State.writeBack (s : State) (core asid : Nat) : List (Nat × List Byte) → Except (Nat × XFault) State
  | [] => .ok s
  | (va, bs) :: r =>
    let s0 := s.walkIfMissed core asid false va true
    match s0.xlat core asid false va true with
    | .error f => .error (va, f)
    | .ok x => (s0.writePa x.pa x.dom x.nc false bs).writeBack core asid r

/-- The window SLIPW of the unit in which the turn-holding group stands is loaded (R133). -/
def State.loadSlip (s : State) (key : Nat) : State :=
  s.modWarp key fun w =>
    match w.active.head? with
    | some t => (s.cxFor { core := key / 16, slot := key % 16 } w).enterUnit t.pc.fsym w
    | none => w

/-- R128 WARP_RESTART: the saved spill slots are written back, and the warp restarts at its committed heads, with an
acquire for its core (R328). -/
def execWarpRestart (core slot : Nat) (s : State) : Out :=
  match s.warps.get? (wkey core slot) with
  | none => .next s
  | some w =>
    match w.pendingRestart with
    | none => .next s
    | some spills =>
      let key := wkey core slot
      let base := s.spillBase core slot w.asid
      let all := (w.threads.filter Thread.live).map Thread.lane
      .next (if w.event.isSome || w.framed || w.pageWaits || w.midEffect then s
        else
          match s.writeBack core w.asid (spills.map fun p => (base + p.1, p.2)) with
          | .ok s1 =>
            ((s1.setWarp key { w.restart s.cycle with pendingRestart := none }).loadSlip key).acquire core .package
          | .error (va, f) =>
            if f.queue && s.dpage (siteOf core) w.asid then
              s.modWarp key (Warp.waitPage s.cycle (va / 65536) f.kind (BitVec.ofNat 64 va) .global (fun _ => true) fun _ => true)
            else s.raiseIn key { code := f.code, qual := f.kind, faddr := BitVec.ofNat 64 va } all all false)

/-! ## Release (R288) -/

/-- R288 WORKGROUP_RELEASE. -/
def execWorkgroupRelease (core wgslot : Nat) (s : State) : Out :=
  let gk := core * 16 + wgslot
  match s.wgs.get? gk with
  | none => .next s
  | some g =>
    .next (if !g.ended || !(s.wgWarps gk).isEmpty || !s.drained [gk] then s
      else
        let bars := s.unitWgs gk
        match s.leaveGroup (clusterOf core) gk with
        | none => s
        | some s1 =>
          let heir := (bars.filter (· ≠ gk)).head?
          let s2 := s1.modCluster (clusterOf core) fun c =>
            { c with nbs := c.nbs.mapVals fun _ b => if g.isGang && b.owner = some gk && heir.isSome then { b with owner := heir } else b }
          s2.vacate [gk])

/-! ## Causes (R246, R247) -/

/-- A workgroup of the unit is to leave its core. -/
def Workgroup.leaving (g : Workgroup) : Bool := g.stop.isSome || g.parking

/-- The cores as they will be when the pre-emptions under way have taken place (R248). -/
def State.afterStops (s : State) : State := s.withoutWgs ((s.wgs.filter fun g => g.2.leaving && !g.2.ended).map Prod.fst)

/-- A unit that a pre-emption may choose: without a frame, an event or a running handler (R377; R391's row for a running handler is read of a
request that reaches the unit all the same, log 39), and with room in the save area. -/
def State.mayTake (s : State) (g : Nat × Workgroup) : Bool :=
  !g.2.ended && !g.2.leaving && s.logMode (siteOf (g.1 / 16)) g.2.asid g.2.lseq ≠ 2 && !((s.warpsOf (s.unitWgs g.1)).any fun w => w.2.framed || w.2.event.isSome || w.2.threads.any fun t => t.live && t.handler.isSome) &&
  s.saveFits (siteOf (g.1 / 16)) g.2.asid (s.saveUnit (s.unitWgs g.1) false)

/-- Resident workgroups of a core whose unit may be pre-empted. -/
def State.victims (s : State) (core : Nat) (p : Nat → Bool) : List (Nat × Workgroup) :=
  (s.coreWgs core).filter fun g => p (s.unitPrio g.1) && s.mayTake g

/-- Lowest priority first, then latest start. -/
def nextVictim (s : State) : List (Nat × Workgroup) → Option (Nat × Workgroup)
  | [] => none
  | g :: gs =>
    match nextVictim s gs with
    | none => some g
    | some h =>
      if s.unitPrio h.1 < s.unitPrio g.1 || (s.unitPrio h.1 = s.unitPrio g.1 && g.2.start < h.2.start) then some h else some g

/-- The next unit of a launch fits: a gang in the cluster, any other unit on the core. -/
def State.fitsOn (s : State) (l : Launch) (core : Nat) : Bool :=
  let cl := clusterOf core
  let d := s.demand l (cl / 4)
  if recGang l.record then (s.placeUnit l cl none).isSome else d.nbar ≤ (s.cluster cl).freeNbs.length && s.holds core d

/-- The pre-emptions on one core, one at a time, until the unit fits. -/
def State.clearFor (s : State) (core : Nat) (l : Launch) (p : Nat → Bool) : Nat → List Nat → Option (List Nat)
  | 0, acc => if s.fitsOn l core then some acc else none
  | k + 1, acc =>
    if s.fitsOn l core then some acc
    else
      match nextVictim s (s.victims core p) with
      | none => none
      | some g => (s.withoutWgs (s.unitWgs g.1)).clearFor core l p k (acc ++ [g.1])

/-- Some pre-emptions are to take place at once, and the walker whose unit they make room for takes it (R245; log 29). -/
def State.pushPreempt (s : State) (cause : Cause) (keys : List Nat) : State :=
  { s with agenda := s.agenda ++ keys.map fun g => .happen (.preemption (g / 16) (g % 16) cause) }

def State.makeWay (s : State) (cl wk : Nat) (cause : Cause) (keys : List Nat) : State :=
  (s.setWalker cl wk { s.walker cl wk with owed := true }).pushPreempt cause keys

/-- A walker has a unit to dispatch, which no core takes though the pre-emptions under way take place; it has waited for so many cycles. -/
def State.waitsFor (s : State) (cl : Nat) (w : Walker) (l : Launch) (cycles : Nat) : Bool :=
  w.state = .active && w.tcur < w.tend && (w.triedAt.any fun a => a + cycles ≤ s.cycle) && !s.ctxStopped (cl / 4) l.asid && l.status = 0 &&
  s.logMode (cl / 4) l.asid l.lseq ≠ 2 && (s.afterStops.placeUnit l cl w.prefer).isNone

/-- R246 PRIORITY_PREEMPTION for a walker whose unit has waited PWAIT cycles. -/
def execPriorityPreemption (cl wk : Nat) (s : State) : Out :=
  let w := s.walker cl wk
  match s.launch? w.asid w.lseq with
  | none => .next s
  | some l =>
    let s0 := s.afterStops
    .next (if !s.waitsFor cl w l (field (s.die (cl / 4)).schedcfg.toNat 0 16) then s
      else
        let best := (coresOf cl).foldl (fun (b : Option (List Nat)) c =>
          match (if (s0.coreWgs c).any fun g => s0.unitPrio g.1 < l.prio then s0.clearFor c l (· < l.prio) 16 [] else none), b with
          | some ks, none => some ks
          | some ks, some bs => if ks.length < bs.length then some ks else some bs
          | none, b => b) none
        match best with
        | some ks => s.makeWay cl wk .priority ks
        | none => s)

/-- The unit of highest index of a context on a cluster, one at a time until the waiting unit fits; none where it never does. -/
def State.sliceFor (s : State) (l : Launch) (cl asid : Nat) : Nat → List Nat → Option (List Nat)
  | 0, _ => none
  | k + 1, acc =>
    if (s.placeUnit l cl none).isSome then some acc
    else
      let cands := ((coresOf cl).map s.coreWgs).flatten.filter fun g => g.2.asid = asid && s.unitPrio g.1 = l.prio && s.mayTake g
      match highest cands with
      | none => none
      | some g => (s.withoutWgs (s.unitWgs g.1)).sliceFor l cl asid k (acc ++ [g.1])

/-- R247 TIME_SLICE: a context whose units have held a cluster for TSLICE gives way to a waiting unit of another context. -/
def execTimeSlice (cl wk asid : Nat) (s : State) : Out :=
  let w := s.walker cl wk
  match s.launch? w.asid w.lseq with
  | none => .next s
  | some l =>
    let d := s.die (cl / 4)
    let ts := field d.schedcfg.toNat 16 16 * 600
    let s0 := s.afterStops
    let units := ((coresOf cl).map s0.coreWgs).flatten.filter fun g => g.2.asid = asid && !g.2.ended && s0.unitPrio g.1 = l.prio
    let held := !units.isEmpty && units.all fun g => Nat.max g.2.placed (d.lastSlice.get 0 cl) + ts ≤ s.cycle
    let lower := (coresOf cl).any fun c =>
      (s0.coreWgs c).any (fun g => s0.unitPrio g.1 < l.prio) && (s0.clearFor c l (· < l.prio) 16 []).isSome
    .next (if ts = 0 || l.asid = asid || !s.waitsFor cl w l ts || !held || lower then s
      else
        match s0.sliceFor l cl asid 256 [] with
        | some ks => (s.makeWay cl wk .timeSlice ks).modDie (cl / 4) fun d => { d with lastSlice := d.lastSlice.set cl s.cycle }
        | none => s)

/-! ## Blocked units (R220) -/

/-- A hand-off: the single index goes to a walker of another cluster (R220). -/
def State.handOff (s : State) (l : Launch) (cl wk ncl nw : Nat) (core : Option Nat) (log : Option Nat) : State :=
  let w := s.walker cl wk
  let s1 := s.setWalker cl wk { w with tcur := w.tcur + 1, triedAt := none, owed := false, nsplit := w.nsplit + 1 }
  let s2 := s1.setWalker ncl nw
    { state := .active, asid := w.asid, lseq := w.lseq, tcur := w.tcur, tend := w.tcur + 1, nsplit := 1, nextAt := s.cycle + 1, prefer := core, owed := true }
  (s2.logRec (cl / 4) log 4 l.lseq 0 w.tcur (cl + wk * 16 + ncl * 512 + nw * 8192)).refill cl wk

/-- A started unit above the watermark that a progress pre-emption may take: no member of it, or of its sharing group, halted (R249) or promised
(R267), on a core that could hold the blocked unit without the unpromised units of the launch. -/
def State.givesWay (s : State) (l : Launch) (cands : List (Nat × Workgroup)) (g : Nat × Workgroup) : Bool :=
  let c := g.1 / 16
  let unit := s.unitWgs g.1
  let near := cands.filter fun h => if recGang l.record then clusterOf (h.1 / 16) = clusterOf c else h.1 / 16 = c
  s.mayTake g && !(unit.any fun k => let h := s.wg k; h.asid = l.asid && h.lseq = l.lseq && h.tidx ≤ l.wm) &&
  !((s.warpsOf unit).any fun p => p.2.threads.any fun t => t.live && t.halted) &&
  (s.withoutWgs (near.map fun h => s.unitWgs h.1).flatten).fitsOn l c

/-- R220 UNIT_BLOCKED: the unit at PROGWM that its cluster has not taken for 4,096 cycles is handed to another cluster, or a unit above it is
pre-empted where none can hold it. In replay, the logged hand-off. -/
def execUnitBlocked (cl wk : Nat) (s : State) : Out :=
  let w := s.walker cl wk
  match s.launch? w.asid w.lseq with
  | none => .next s
  | some l =>
    .next (if w.state ≠ .active || w.tend ≤ w.tcur || w.tcur ≠ l.wm || s.ctxStopped (cl / 4) w.asid then s
      else if s.logMode (cl / 4) l.asid l.lseq = 2 then
        match s.findRec (cl / 4) fun r => recRt r = 4 && recLseq r = l.lseq % 2 ^ 32 && field (r.getD 3 0).toNat 0 9 = cl + wk * 16 with
        | none => s
        | some (pa, r) =>
          let x := (r.getD 3 0).toNat
          if (r.getD 2 0).toNat = w.tcur && (s.walker (field x 9 4) (field x 13 5)).state = .free then
            (s.handOff l cl wk (field x 9 4) (field x 13 5) none none).consume (cl / 4) pa
          else s
      else if !s.waitsFor cl w l 4096 then s
      else
        let dies := s.ctxDies (cl / 4) l.asid
        let order := (s.stealOrder cl).filter fun c => c ≠ cl && dies.contains (c / 4)
        let fits := order.filterMap fun c => (s.placeUnit l c none).map fun cs => (c, cs)
        match fits.findSome? fun x => (s.freeWalker x.1).map fun nw => (x.1, nw, x.2) with
        | some (c, nw, cs) =>
          if s.logMode (cl / 4) l.asid l.lseq = 1 then
            match s.reserve (cl / 4) 1 with
            | some (pa, s1) => s1.handOff l cl wk c nw cs.head? (some pa)
            | none => s.stallLog (cl / 4) l.lseq w.tcur
          else s.handOff l cl wk c nw cs.head? none
        | none =>
          -- a cluster that can hold it has no free walker, or room is on its way
          if !fits.isEmpty || order.any fun c => (s.afterStops.placeUnit l c none).isSome then s
          else
            let where_ := if (s.die (cl / 4)).schedcfg.getLsbD 32 then [cl / 4] else dies
            let cands := s.wgs.filter fun g =>
              g.2.asid = l.asid && g.2.lseq = l.lseq && l.wm < g.2.tidx && !g.2.ended && where_.contains (siteOf (g.1 / 16))
            match highest (cands.filter (s.givesWay l cands)) with
            | some g => s.makeWay cl wk .progress [g.1]
            | none => s)

end Sys2Proof.Machine
end

