-- ==== Sys2Proof/Machine/LaunchOps.lean ====
section
/-! DEFINITION. Sys2Proof/Machine/LaunchOps.lean: the launch instructions `launch`, `ljoin`, `lquery`, `wsplit`, `migrate`, `wdone`
(R224-R230, R251) and the watermark reads `prgq` (R222). -/

namespace Sys2Proof.Machine

open Sys2Proof

/-! ## Watermark and facts -/

def Cx.launch? (s : State) (c : Cx) : Option Launch := s.launch? c.w.asid c.w.lseq

/-- R222 prgq.b64. -/
def execPrgqB64 (s : State) : Out :=
  laneOp s none tyB64 noFirst fun c _ => .ok (mkVal tyB64 (BitVec.ofNat 64 ((c.launch? s).map Launch.wm |>.getD 0)))

/-- R222 prgq.p. -/
def execPrgqP (s : State) : Out :=
  laneOp s none tyP noFirst fun c _ => .ok (mkVal tyP (boolBits ((c.launch? s).any fun l => l.promised c.w.tidx)))

/-- What `lquery` reads (R228). -/
def lqueryVal (s : State) (c : Cx) : Nat → Nat
  | 0 => c.w.lseq
  | 1 => c.w.tidx
  | 2 => ((c.launch? s).map Launch.n).getD 0
  | 3 => (s.wg c.w.wg).joined
  | _ => Config.poolEntries - (s.die c.site).pool.length

/-- R228 lquery. -/
def execLquery (sel : Fin 5) (s : State) : Out :=
  laneOp s none tyB64 noFirst fun c _ => .ok (mkVal tyB64 (BitVec.ofNat 64 (lqueryVal s c sel.val)))

/-! ## launch (R225) -/

/-- A strong read of a record: its lines are read at their homes. -/
def State.readRecord (s : State) (c : Cx) (addr : Nat) : Nat → State × List W64
  | 0 => (s, [])
  | k + 1 =>
    let (s1, ws) := s.readRecord c addr k
    match s1.place c.iss.core c.w.asid c.w.wg .global (addr + 8 * k) 8 false with
    | .ok (.mem x) => (s1.homeRead (lineOf x.pa) x.dom x.nc, ws ++ [s1.word64 x.pa])
    | _ => (s1, ws ++ [0])

/-- PLINK (R224). -/
def plink (lseq tidx : Nat) (child : Bool) : W64 := BitVec.ofNat 64 (lseq % 2 ^ 32 * 2 ^ 32 + tidx % 2 ^ 31 * 2 + if child then 1 else 0)

/-- One thread's child: its status, and the pool after it. -/
def State.launchOne (s : State) (c : Cx) (r : LRec) : W64 × State :=
  let d := s.die c.site
  let child := recChild r
  let s := s.modWg c.w.wg fun g => { g with childLaunched := g.childLaunched || child }
  if Config.poolEntries ≤ d.pool.length then (1, s)
  else
    match s.launchReason c.site c.w.asid r true false with
    | 0 =>
      let prio := Nat.min (recPrio r) (s.wg c.w.wg).prio
      let e : PoolEntry :=
        { order := d.poolOrder, record := r.set 10 (plink c.w.lseq c.w.tidx child), asid := c.w.asid, prio := prio
          parent := if child then some (c.w.lseq, c.w.tidx, c.w.gmember) else none }
      let s1 := s.setDie c.site { d with pool := d.pool ++ [e], poolOrder := d.poolOrder + 1 }
      (0, s1.modWg c.w.wg fun g => { g with joined := if child then g.joined + 1 else g.joined })
    | reason => (BitVec.ofNat 64 (2 + reason * 256), s)

/-- R225 launch. -/
def execLaunch (trapfull : Bool) (rec : Opnd) (s : State) : Out :=
  withCx s fun c0 => s.withRelease c0 .package fun s0 =>
    let c := s0.again c0
    let a (t : Thread) : Nat := c.rd64 t rec
    let s1 := s0.walks c.iss.core c.w.asid ((c.active.map fun t => [(Space.global, a t, false), (.global, a t + 127, false)]).flatten)
    s1.memCheck c c.active .global
      (fun t => if a t % 8 ≠ 0 then [addrEvent evAddrAlign 0 (a t)]
        else ((List.range 16).map fun i =>
          c.events s1 t false { space := .global, addr := a t + 8 * i, n := 8, align := 8, read := true, write := false }).flatten)
      (if trapfull && Config.poolEntries < (s1.die c.site).pool.length + c.active.length then
          s1.takeEvent c { code := evPoolFull } c.w.activeLanes
        else
          let (s2, rs) := c.active.foldl (fun (acc : State × List (Nat × LRec)) t =>
            let (s', r) := acc.1.readRecord c (a t) 16
            (s', acc.2 ++ [(t.lane, r)])) (s1, [])
          let (s3, vs) := s2.eachThread (fun s t => s.launchOne c (((rs.find? fun p => p.1 = t.lane).map Prod.snd).getD [])) c.active []
          let c3 := s3.again c
          s3.advance c3 (c3.w.putAll c.iss (fun t => mkVal tyB32 (laneVal vs t.lane)) c.active) true)

/-! ## ljoin (R227) -/

def Thread.atLjoin (t : Thread) : Bool := match t.wait with | .ljoin _ => true | _ => false

/-- The threads of a warp take the result of `ljoin`. -/
def Warp.joinDone (flip : Flip) (cycle : Nat) (v : W64) (w : Warp) : Warp :=
  let ts := w.threads.filter Thread.live
  let w1 := ts.foldl (fun w t => match t.wait with | .ljoin iss => w.put iss t.lane (mkVal tyB32 v) | _ => w) w
  let w2 : Warp :=
    { w1 with
      threads := w1.threads.map fun t =>
        if t.live then ({ t with wait := .none, pc := { t.pc with pix := t.pc.pix + 1 } } : Thread).commit flip else t
      ccnt := w1.ccnt + (groupsOf w1.threads).length, hangBase := cycle }
  w2.fixTurn cycle

/-- Every live thread of a workgroup waits at an `ljoin`. -/
def State.allAtJoin (s : State) (wgk : Nat) : Bool :=
  let ts := ((s.wgWarps wgk).map fun p => p.2.threads.filter Thread.live).flatten
  !ts.isEmpty && ts.all Thread.atLjoin

/-- A parking begins or ends: the issue of these workgroups stops (R227). -/
def State.setParking (s : State) (keys : List Nat) (on : Bool) : State := keys.foldl (fun s k => s.modWg k fun g => { g with parking := on }) s

/-- THE UNIT IS PARKED, whole where the workgroup belongs to a sharing group or gang (R227, R267): its held lines are published, it is saved as
at pre-emption, and it leaves its cores. It stays where the save area, or the log, has no room. -/
def State.parkUnit (s : State) (keys : List Nat) : State :=
  let site := siteOf (keys.headD 0 / 16)
  let g := s.wg (keys.headD 0)
  let ws := s.warpsOf keys
  let atJoin := keys.filter s.allAtJoin
  let go (s : State) (pa : Option Nat) : State :=
    let s1 := s.preemptWarps none pa ws
    let s2 := atJoin.foldl (fun s k => s.setParking [k] true) (s1.setParking keys false)
    let u := s2.saveUnit keys true
    if s2.saveFits site g.asid u then ((s2.vacate keys).modDie site fun d => { d with parked := d.parked ++ [u] }).syncArea site g.asid else s.setParking keys false
  let n := s.heldLines ws
  if s.logMode site g.asid g.lseq = 1 && n ≠ 0 then
    match s.reserve site n with
    | some (pa, s1) => go s1 (some pa)
    | none => s.stallLog site g.lseq g.tidx
  else go s none

/-- The wait of a workgroup at `ljoin` (R227): it completes, or the unit is brought to rest and parked. -/
def State.joinCheck (s : State) (wgk : Nat) : State :=
  let g := s.wg wgk
  let keys := s.unitWgs wgk
  let ws := s.warpsOf keys
  if !s.allAtJoin wgk || (s.wgWarps wgk).any fun p => p.2.event.isSome || p.2.framed then s
  else if g.joined = 0 then
    let v := BitVec.ofNat 64 (Nat.min g.failed 65535)
    (s.wgWarps wgk).foldl (fun s p => s.modWarp p.1 (Warp.joinDone (s.flip (p.1 / 16) p.2) s.cycle v))
      ((s.modWg wgk fun g => { g with failed := 0 }).setParking (keys.filter fun k => (s.wg k).parking) false)
  else if g.stop.isSome then s
  else if ws.any fun p => p.2.event.isSome || p.2.framed then s.setParking (keys.filter fun k => (s.wg k).parking) false
  else if !s.drained keys || ws.any fun p => p.2.inSpan || p.2.midEffect then s.setParking keys true
  else s.parkUnit keys

/-- R227 ljoin. -/
def execLjoin (s : State) : Out :=
  withCx s fun c => s.withRelease c .package fun s1 =>
    let c1 := s1.again c
    (s1.waitHere c1 fun t => { t with wait := .ljoin c.iss }).joinCheck c.w.wg

/-! ## wsplit, wdone -/

/-- R229 wsplit. -/
def execWsplit (s : State) : Out :=
  withCx s fun c =>
    let (cl, wk) := (s.wg c.w.wg).walker
    let w := s.walker cl wk
    let done (s : State) : State := s.advance c c.w false
    match c.launch? s with
    | none => done s
    | some l =>
      let dies := s.ctxDies c.site c.w.asid
      let target := (s.stealOrder (clusterOf c.iss.core)).findSome? fun k =>
        if dies.contains (k / 4) then
          match s.freeWalker k, (coresOf k).find? fun x => s.holds x (s.demand l (k / 4)) with
          | some nw, some x => some (k, nw, x)
          | _, _ => none
        else none
      if s.logMode c.site c.w.asid c.w.lseq = 2 || w.state ≠ .active || w.asid ≠ c.w.asid || w.lseq ≠ c.w.lseq || w.left < 2 then done s
      else
        match target with
        | none => done s
        | some (k, nw, x) =>
          match s.loggedSplit cl wk k nw (some x) with
          | some s1 => done s1
          | none => done (s.stallLog (cl / 4) c.w.lseq 0)

/-- R226 wdone. -/
def execWdone (s : State) : Out :=
  withCx s fun c => s.withBoundary c fun s1 =>
    let c1 := s1.again c
    (s1.modLaunch c.w.asid c.w.lseq fun l => if l.draining then l else { l with draining := true, early := true, wm := l.n }).advance c1 c1.w true

/-! ## migrate (R230, R251) -/

/-- What keeps a warp from migrating. -/
def State.migrateDenied (s : State) (c : Cx) : Bool :=
  let g := s.wg c.w.wg
  let k := s.core c.iss.core
  g.nwarps ≠ 1 || g.grant ≠ 0 || g.isGang || (g.cvs.any fun p => (k.cvs.get {} p.2).state ≠ .idle) || (g.tags.any fun p => let t := k.tags.get {} p.2; t.pend || 0 < t.count) ||
  (k.resv.any fun r => r.2.held = some c.w.wg) || (k.acc.any fun a => a.2.held = some c.w.wg)

/-- The landing slot on a die: the lowest free one; in replay the logged one. -/
def State.landingSlot (s : State) (site : Nat) : Option Nat := (List.range Config.landingSlots).find? fun i => ((s.die site).landings.get? i).isNone

def Warp.migrated (flip : Flip) (iss : Issue) (w : Warp) : Warp :=
  let ts := w.threads.filter Thread.live
  let w1 := w.putAll iss (fun _ => mkVal tyB32 0) ts
  { w1 with
    threads := w1.threads.map fun t => if t.live then ({ t with wait := .none, pc := { t.pc with pix := t.pc.pix + 1 } } : Thread).commit flip else t
    ccnt := w1.ccnt + 1, hangBase := 0, native := {} }

/-- The warp leaves for a landing slot. -/
def State.ship (s : State) (c : Cx) (site slot : Nat) : State :=
  match s.warps.get? c.key with
  | none => s
  | some w =>
    let g := s.wg c.w.wg
    let x : Landing :=
      { wg := { g with warps := [], tags := [], cvs := [], cbs := [], nbs := [], group := none, windows := List.replicate 16 {} }
        warp := w.migrated c.flip c.iss }
    let s1 := (s.leaveGroup (clusterOf c.iss.core) c.w.wg).getD s
    (s1.vacate [c.w.wg]).modDie site fun d => { d with landings := d.landings.set slot x }

/-- The threads go on with a status. -/
def State.migrateStatus (s : State) (c : Cx) (v : W64) : State :=
  s.modWarp c.key fun w =>
    let ts := w.threads.filter Thread.live
    let w1 := w.putAll c.iss (fun _ => mkVal tyB32 v) ts
    let w2 : Warp :=
      { w1 with
        threads := w1.threads.map fun t => if t.live then ({ t with wait := .none, pc := { t.pc with pix := t.pc.pix + 1 }, grp := w1.turn } : Thread).commit c.flip else t
        ccnt := w1.ccnt + 1, hangBase := s.cycle }
    w2

/-- The warp acts as one. -/
def State.migrateAct (s : State) (c : Cx) (trap : Bool) (addr : Opnd) : State :=
  let lanes := (c.w.threads.filter Thread.live).map Thread.lane
  let free (s : State) : State := s.modWarp c.key fun w => { w with threads := w.threads.map fun t => if t.live then { t with wait := .none, grp := w.turn } else t }
  let fault (s : State) (e : EvInfo) : State := (free s).raiseIn c.key e lanes lanes
  let a := match c.w.threads.find? Thread.live with | some t => c.rd64 t addr | none => 0
  let s0 := s.walks c.iss.core c.w.asid [(.global, a, false)]
  match s0.place c.iss.core c.w.asid c.w.wg .global a 1 false with
  | .error (e, _) => fault s0 e
  | .ok pl =>
    let site := match pl with | .mem x => siteOfPa x.pa | _ => c.site
    let denied : EvInfo := { code := evMigrateDenied }
    if s0.migrateDenied c then fault s0 denied
    else if site = c.site then s0.migrateStatus c 1
    else
      match s0.logMode c.site c.w.asid c.w.lseq with
      | 2 =>
        match s0.threadRec c.site 0x0A c.w.lseq c.w.tidx 0 none with
        | some (pa, r) =>
          let slot := field (r.getD 3 0).toNat 16 6
          if ((s0.die site).landings.get? slot).isSome then s0 else (s0.ship c site slot).consume c.site pa
        | none => s0.diverge c.site c.w.lseq c.w.tidx
      | m =>
        match s0.landingSlot site with
        | none => if trap then fault s0 denied else s0.migrateStatus c 2
        | some slot =>
          if m = 1 then
            match s0.reserve c.site 1 with
            | none => fault s0 { code := evLogFull, qual := 1 }
            | some (pa, s1) =>
              (s1.logRec c.site (some pa) 0x0A c.w.lseq c.w.tidx (c.w.ccnt + 1) (c.w.widx + site * 256 + slot * 65536)).ship c site slot
          else s0.ship c site slot

def Thread.atMigrate (pc : PC) (t : Thread) : Bool := t.pc = pc && (match t.wait with | .migrate _ _ => true | _ => false)

/-- Where every live thread of a warp stands at one `migrate`, the warp acts: with the last to arrive, or once the others have exited. -/
def State.migrateCheck (s : State) (key : Nat) : State :=
  match s.warps.get? key with
  | none => s
  | some w =>
    let ts := w.threads.filter Thread.live
    if w.event.isSome || w.framed || (s.wg w.wg).stop.isSome || (s.wg w.wg).parking then s
    else
      match ts.head? with
      | none => s
      | some t =>
        match t.wait with
        | .migrate iss (.migrate trap addr) => if ts.all (Thread.atMigrate t.pc) then s.migrateAct (s.cxFor iss w) trap addr else s
        | _ => s

/-- R230 migrate: the group waits; with the last one the warp acts. -/
def execMigrate (trap : Bool) (addr : Opnd) (s : State) : Out :=
  withCx s fun c => s.withRelease c .package fun s1 =>
    let c1 := s1.again c
    (s1.waitHere c1 fun t => { t with wait := .migrate c.iss (.migrate trap addr) }).migrateCheck c.key

end Sys2Proof.Machine
end

