-- ==== Sys2Proof/Machine/Debug.lean ====
section
/-! DEFINITION. Sys2Proof/Machine/Debug.lean: liveness of values at a stop (R83), frames as words (R376), stop points (R378), going on
from a stop: retry, skip, halt (R381, R385), and the debug window (R382-R384). -/

namespace Sys2Proof.Machine

open Sys2Proof

/-! ## Values in slots and registers (R83, R92, R123, R130) -/

/-- The bundle at a place, where the unit lists it. -/
def State.bundleAt (s : State) (core : Nat) (w : Warp) (at_ : Nat × Nat) : Option (BitVec 256) := (s.unitOf core w at_.1).bundles[at_.2]?

/-- The halves of a value as two registers or slots hold them, each with its tag (R92, R115). -/
def joinHalves (wide : Bool) (lo hi : Val) : Val := if wide then { lo with bits := (hi.bits.setWidth 32 ++ lo.bits.setWidth 32 : BitVec 64) } else lo

/-- A thread's values as its committed checkpoint slots and its spill slots hold them at a region's head (R123, R130). -/
def Plan.lift (p : Plan) (r : Nat) (slots : Tbl Val) (t : Thread) : Tbl Val :=
  let inSlot (j : Nat) : Val := slots.get {} (slotKey (t.bank.getLsbD j) j t.lane)
  let spilled (j : Nat) : Val := t.spilled.get {} (t.sb + j)
  let m := (p.ckSlots r).foldl (fun (m : Tbl Val) vj => m.set vj.1 (joinHalves (p.width vj.1 = 2) (inSlot vj.2) (inSlot (vj.2 + 1)))) t.vals
  (p.spilledAt r).foldl (fun m v => let j := p.spill.get 0 v; m.set v (joinHalves (p.width v = 2) (spilled j) (spilled (j + 1)))) m

/-- The bundle of the engine of a native group that is furthest behind: all stand in its region, or wait at the next head (R76). -/
def NCtr.trailing (c : NCtr) : Nat × Nat := ((c.at_.find? fun p => c.pos.get 0 p.1 = 0).map Prod.snd).getD (0, 0)

/-- Where a value of a thread of a native group is (R83). -/
def State.locateIn (s : State) (core : Nat) (w : Warp) (t : Thread) (v : Nat) : Option LocEntry :=
  let at_ := t.nat.trailing
  locate ((s.unitOf core w at_.1).entries at_.2) (fun e => t.nat.six.get 0 e) v

/-- What a place holds of a value. -/
def Warp.readLoc (w : Warp) (t : Thread) (wide : Bool) (v : Nat) (e : LocEntry) : Val :=
  match e.kind with
  | 5 => joinHalves wide (t.spilled.get {} (t.sb + e.loc)) (t.spilled.get {} (t.sb + e.loc + 1))
  | 6 =>
    let slot (j : Nat) : Val := w.native.slots.get {} (slotKey (t.bank.getLsbD j) j t.lane)
    joinHalves wide (slot e.loc) (slot (e.loc + 1))
  | _ => (e.spec?.map (w.readReg t.lane 0 (if wide then 64 else 32))).getD (t.vals.get {} v)

/-- A value of a thread of a native group: where the entries say it is, else in its own register or slot (R129). -/
def State.nativeValue (s : State) (core : Nat) (w : Warp) (t : Thread) (v : Nat) : Val :=
  let p := s.planOf core w t.nat.trailing.1
  let own : LocEntry :=
    match p.spill.get? v with
    | some j => { v := v, kind := 5, loc := j }
    | none => { v := v, kind := 1, loc := p.reg.get 0 v }
  w.readLoc t (p.width v = 2) v ((s.locateIn core w t v).getD own)

/-! ## Frames -/

def half (hi : Bool) (m : LaneSet) : W64 := if hi then (m >>> 64).setWidth 64 else m.setWidth 64

/-- The portable stop point of a frame in a warp. -/
def Warp.stopPoint (w : Warp) (f : FFrame) : PC :=
  match w.threads.find? fun t => t.live && (frLanes f).contains t.lane with
  | some t => if frPrecise f then t.stopPc else t.ck.pc
  | none => {}

/-- The engines that accept an opcode (R71): where two do, the lapidary's choice is a free value (log 12). -/
def engOf (opc free : Nat) : Nat :=
  let es := [Eng.S, .L, .V, .M, .X].filter fun e => e.accepts opc
  ((es[free % es.length]?).map Eng.tag).getD 0

/-- The engine of the slot that stands for the instruction at a portable counter (R375). -/
def Warp.engAt (ws : List W32) (pc : PC) (free : Nat) : Nat :=
  match (moduleFunc ws pc.fsym).bind fun f => instrAt f.blocks pc.pix with
  | some (_, i) => engOf i.head.1 free
  | none => 0

/-- The bundle and slot of a portable instruction in a unit that lists it. -/
def UnitImg.findPix (u : UnitImg) (eng pix : Nat) : Option (Nat × Nat) :=
  (List.range u.bundles.length).findSome? fun b =>
    ((List.range 4).find? fun i =>
      let w := u.bundles.getD b 0
      w.getLsbD (250 + i) && ((bundleSlot w i).extractLsb' 53 3).toNat = eng && u.pix b i = pix).map fun i => (b, i)

/-- The event's frame (R376). Where the group runs by its portable instructions, the raising slot is the one that stands for the instruction; the
engine words that no listed bundle gives are free values (log 12). -/
def State.frameOf (s : State) (core slot : Nat) (w : Warp) (e : Event) : FFrame × State :=
  let (v, s1) := s.free
  let g := s.wg w.wg
  let lead := w.threads.find? fun t => t.live && laneIn e.glanes t.lane
  let pc := lead.map (fun t => if e.precise then t.stopPc else t.ck.pc)
  let fsym := (pc.map PC.fsym).getD 0
  let pend := lead.bind fun t => t.nat.pend
  let eng := if !e.precise then 0 else if e.eng ≠ 0 then e.eng
    else match pend with | some p => p.1 | none => ((pc.map fun x => Warp.engAt (s.moduleWords w.modIdx) x (field v.toNat 0 3)).getD 0)
  let u := s.unitOf core w fsym
  let listed := if lead.any Thread.native then none else pc.bind fun x => u.findPix eng x.pix
  let si := (e.slot.or (pend.map Prod.snd)).or (listed.map Prod.snd)
  let w0 := 2 ^ 56 + eng % 8 * 2 ^ 49 + (if e.precise then si.getD (field v.toNat 3 2) else 0) * 2 ^ 47 + (if e.precise then 2 ^ 46 else 0) + 2 ^ 45 +
    w.asid % 2 ^ 16 * 2 ^ 24 + e.qual % 2 ^ 16 * 256 + e.code % 256
  let w3 := w.groups.length % 256 * 2 ^ 32 + w.wg % 16 * 2 ^ 24 + g.gmember % 128 * 2 ^ 16 + w.widx % 16 * 4096 + clusterOf core % 4 * 256 + core % 192
  let w4 := fsym % 2 ^ 32 * 2 ^ 32 + w.budget % 256 * 2 ^ 24 + (if w2eCore core then 2 ^ 16 else 0)
  let word (six b : Nat) : W64 := BitVec.ofNat 64 (2 ^ 63 + six % 4096 * 2 ^ 48 + (u.bbase + 32 * b) % 2 ^ 48)
  let engWord (k : Nat) : W64 :=
    match (lead.bind fun t => t.nat.at_.get? k).map Prod.snd with
    | some b => word ((lead.map fun t => t.nat.six.get 0 k).getD 0) b
    | none =>
      match (if k = eng then listed else none) with
      | some (b, _) => word (u.six b k) b
      | none => BitVec.ofNat 64 (2 ^ 63 + field (Config.freeValue (s.freeCtr + k)).toNat 0 60 / 32 * 32)
  let _ := slot
  ([BitVec.ofNat 64 w0, BitVec.ofNat 64 w.lseq, BitVec.ofNat 64 w.tidx, BitVec.ofNat 64 w3, BitVec.ofNat 64 w4, s.modid w.modIdx] ++
   ([1, 2, 3, 4, 5].map engWord) ++ [e.faddr, half false e.flanes, half true e.flanes, half false e.glanes, half true e.glanes],
   { s1 with freeCtr := s1.freeCtr + 5 })

def Warp.setFrame (w : Warp) (f : FFrame) : Warp := { w with frame := f, event := none }
/-- VALID falls: the frame is disposed of. -/
def Warp.endFrame (w : Warp) : Warp := { w with frame := w.frame.set 0 (BitVec.ofNat 64 (frW w.frame 0 % 2 ^ 45 + frW w.frame 0 / 2 ^ 46 * 2 ^ 46)) }

/-! ## The bound function's debug registers (R384) -/

def State.boundVf? (s : State) (site asid : Nat) : Option (Nat × VFunc) :=
  (s.die site).ctx? asid |>.bind fun c => (s.die site).vfs.find? fun v => v.2.bound && v.2.slot = c.1

def State.attached (s : State) (site asid : Nat) : Bool := (s.boundVf? site asid).any fun v => v.2.dbgCtl.getLsbD 0
def State.brkEn (s : State) (site asid : Nat) : Bool := (s.boundVf? site asid).any fun v => v.2.dbgCtl.getLsbD 1
def State.haltsOn (s : State) (site asid code : Nat) : Bool := 8 ≤ code && (s.boundVf? site asid).any fun v => v.2.haltSet.getLsbD (code - 8)

/-! ## Going on from a stop (R381) -/

/-- RETRY: the stop of some threads ends, and the warp restarts (R128, R184). -/
def Warp.retryLanes (cycle : Nat) (lanes : List Nat) (w : Warp) : Warp :=
  Warp.restart cycle { w with threads := w.threads.map fun t => if t.live && lanes.contains t.lane then { t with halted := false, frame := [] } else t }

/-- Action 0 after WATCH_HIT: the instruction at which these threads stopped is exempt from watch traps once (R419). -/
def Warp.exemptWatch (lanes : List Nat) (f : Thread → FFrame) (w : Warp) : Warp :=
  { w with threads := w.threads.map fun t => if t.live && lanes.contains t.lane && frCode (f t) = evWatchHit then { t with exempt := some t.stopPc } else t }

/-- The tag of a value that a skipped instruction defines (R139). -/
def skipTag (c : Cx) (t : Thread) (i : Instr) : BitVec 6 :=
  match instrDefTy i with
  | some ty => if ty = tyDyn then ((i.opnds.head?.map fun o => (c.val tyDyn t o).tag).getD 0) else ty.code
  | none => 0

/-- SKIP: the group goes on after its stop point; a value defined there is zero. A native group's engine goes on after the raising slot, which
the frame names. -/
def State.skipLanes (s : State) (key : Nat) (lanes : List Nat) (f : FFrame) : State :=
  match s.warps.get? key with
  | none => s
  | some w =>
    let ws := s.moduleWords w.modIdx
    let mine (t : Thread) : Bool := t.live && lanes.contains t.lane
    let next (t0 : Thread) : Thread :=
      let t : Thread := { t0 with wait := .none, home := none, cwait := none, consumed := false, halted := false, frame := [] }
      if t.native then { t with nat := { t.nat with pend := none, undo := none, skip := some (field (frW f 0) 49 3, field (frW f 0) 47 2) } }
      else
        let at_ := t0.stopPc
        match (moduleFunc ws at_.fsym).bind fun f => instrAt f.blocks at_.pix with
        | none => t
        | some (n, i) =>
          let c : Cx := s.cxFor { core := key / 16, slot := key % 16, n := n } w
          let vals := if (instrDefTy i).isSome then t.vals.set n { bits := 0, tag := skipTag c t i } else t.vals
          let t1 := { t with pc := { at_ with pix := at_.pix + 1 }, vals := vals }
          if (c.plan t1.pc.fsym).isHead t1.pc.pix then t1.commit c.flip else t1
    let w1 : Warp :=
      { w with threads := w.threads.map fun t => if mine t then { next t with grp := w.nextGrp } else t
               nextGrp := w.nextGrp + 1 }
    s.setWarp key (w1.fixTurn s.cycle).mergeAt

/-- HALT (R385): the stopped group keeps its frame and issues nothing. -/
def Warp.haltLanes (cycle : Nat) (lanes : List Nat) (f : FFrame) (w : Warp) : Warp :=
  Warp.fixTurn cycle { w with threads := w.threads.map fun t => if t.live && lanes.contains t.lane then { t with halted := true, frame := f } else t }

/-- A wait for a generation that has been abandoned raises its event again (R347). -/
def State.reorphan (s : State) (key : Nat) : State :=
  match s.warps.get? key with
  | none => s
  | some w =>
    let cl := clusterOf (key / 16)
    let bad (t : Thread) : Option Nat :=
      match t.wait with
      | .barrier p g _ => let b := s.nbar cl p; if b.abv && b.abg = g && b.gen ≠ g then some b.name else none
      | _ => none
    match w.threads.findSome? fun t => if t.live then bad t else none with
    | none => s
    | some name =>
      let ls := (w.threads.filter fun t => t.live && bad t = some name).map Thread.lane
      s.raiseIn key { code := evBarrierOrphan, qual := name } ls ls

/-- The stop of some threads ends, and their restart waits until an instruction of another group of the warp has completed. -/
def Warp.retryLater (lanes : List Nat) (w : Warp) : Warp :=
  let thread (t : Thread) : Thread :=
    { t with halted := false, frame := [], wait := match t.wait with | .page .. => t.ck.wait | x => x }
  { w with threads := w.threads.map fun t => if t.live && lanes.contains t.lane then thread t else t
           pendingRestart := w.pendingRestart.or (some []) }

/-- The group of a frame restarts, and with it the warp (R128, R184), with an acquire for its core (R328): when the slots already issued have
completed. -/
def State.retryGroup (s : State) (key : Nat) (lanes : List Nat) : State :=
  if ((s.warps.get? key).getD {}).midEffect then s.modWarp key (Warp.retryLater lanes)
  else (((s.modWarp key (Warp.retryLanes s.cycle lanes)).loadSlip key).acquire (key / 16) .package).reorphan key

/-- A resident warp restarts. -/
def State.restartWarp (s : State) (key : Nat) : State := s.retryGroup key []

/-! ## The debug window (R382, R383) -/

/-- A stopped warp: a valid frame, or a halted group. -/
def stoppedThread (w : Warp) (t : Thread) : Bool := w.framed || t.halted

/-- The frame that stopped a thread: the halted group's own, else the warp's. -/
def Warp.frameFor (w : Warp) (t : Thread) : FFrame := if t.halted then t.frame else w.frame

/-- Where a thread stands and what it reports there (R378): at a precise stop, each live value where the group's engines leave it (R83); at an
imprecise one, the committed head and what a restart rebuilds. -/
def State.stopView (s : State) (core : Nat) (w : Warp) (t : Thread) (precise : Bool) : PC × Tbl Val :=
  let pick (pc : PC) (vs : List Nat) (val : Nat → Option Val) : PC × Tbl Val :=
    (pc, vs.foldl (fun (m : Tbl Val) v => match val v with | some x => m.set v x | none => m) [])
  if !precise then
    let p := s.planOf core w t.ck.pc.fsym
    let r := p.region t.ck.pc.pix
    pick t.ck.pc (p.liveIns r ++ p.spilledAt r) t.ck.vals.get?
  else if t.native then
    let p := s.planOf core w t.nat.trailing.1
    pick t.stopPc (List.range p.tys.length) fun v => (s.locateIn core w t v).map fun _ => s.nativeValue core w t v
  else pick t.stopPc ((s.planOf core w t.stopPc.fsym).liveAt t.stopPc.pix) t.vals.get?

/-- The view of a stopped thread, and whether its values are those of its region head. -/
def State.viewOf (s : State) (core : Nat) (w : Warp) (t : Thread) : PC × Tbl Val × Bool :=
  let f := w.frameFor t
  let head := (frLanes f).contains t.lane && !frPrecise f
  let v := s.stopView core w t (!head)
  (v.1, v.2, head)

/-- The value lies in the constant pool of its unit (R82). -/
def State.constVal (s : State) (core : Nat) (w : Warp) (t : Thread) (pc : PC) (v : Nat) : Bool :=
  if t.native then (s.locateIn core w t v).any fun e => e.kind = 7
  else
    let u := s.unitOf core w pc.fsym
    (u.entries (u.rfirst ((s.planOf core w pc.fsym).region pc.pix))).any fun e => e.v = v && e.kind = 7

/-- The committed region's head holds a value: in a checkpoint slot, or in a spill slot. -/
def State.heldAtHead (s : State) (core : Nat) (w : Warp) (t : Thread) (v : Nat) : Bool :=
  let p := s.planOf core w t.ck.pc.fsym
  let r := p.region t.ck.pc.pix
  (p.liveIns r).contains v || (p.spilledAt r).contains v

/-- A patch of a native group's place: a register, or a slot (R383). -/
def Warp.patchLoc (w : Warp) (t : Thread) (wide : Bool) (y : Val) (e : LocEntry) : Warp :=
  let t1 (x : Thread) : Thread :=
    let s1 := x.spilled.set (x.sb + e.loc) (y.half false)
    { x with spilled := if wide then s1.set (x.sb + e.loc + 1) (y.half true) else s1 }
  if e.kind = 5 then w.modThread t.lane t1
  else match e.spec? with | some d => w.writeReg t.lane (if wide then 64 else 32) y d | none => w

/-- The committed checkpoint slots of a value. -/
def State.patchSlots (s : State) (core : Nat) (w : Warp) (t : Thread) (v : Nat) (y : Val) : Warp :=
  let p := s.planOf core w t.ck.pc.fsym
  match (p.ckSlots (p.region t.ck.pc.pix)).find? fun x => x.1 = v with
  | none => w
  | some (_, j) =>
    let m := w.native.slots.set (slotKey (t.bank.getLsbD j) j t.lane) (y.half false)
    { w with native := { w.native with slots := if p.width v = 2 then m.set (slotKey (t.bank.getLsbD (j + 1)) (j + 1) t.lane) (y.half true) else m } }

def dwLane (sel : W64) : Nat := field sel.toNat 4 7
def dwSlot (sel : W64) : Nat := field sel.toNat 0 4
def dwVnum (sel : W64) : Nat := field sel.toNat 12 24

/-- A window operation ends: GO reads 0. -/
def State.dwDone (s : State) (core : Nat) (sel : W64) (st : Nat) : State :=
  s.modCore core fun k => { k with dwSel := setField sel 63 1 0 &&& 0x8000003FFFFFF7FF#64, dwStat := BitVec.ofNat 64 st }

/-- The warp and thread that a window operation names, or its status. -/
def State.dwTarget (s : State) (core : Nat) (sel : W64) : Except Nat (Warp × Thread) :=
  match s.warps.get? (wkey core (dwSlot sel)) with
  | none => .error 2
  | some w =>
    if !w.framed && !(w.threads.any fun t => t.live && t.halted) then .error 2
    else
      match w.thread? (dwLane sel) with
      | none => .error 5
      | some t => if stoppedThread w t then .ok (w, t) else .error 2

/-- R383 read. -/
def execDwReadValue (core : Nat) (sel : W64) (s : State) : Out :=
  .next (match s.dwTarget core sel with
    | .error st => s.dwDone core sel st
    | .ok (w, t) =>
      match (s.viewOf core w t).2.1.get? (dwVnum sel) with
      | some x => (s.dwDone core sel 0).modCore core fun k => { k with dwData := x.bits, dwAux := x.tag.setWidth 64 }
      | none => (s.dwDone core sel 1).modCore core fun k => { k with dwData := 0 })

/-- The bytes of a spill slot that a patch changes: the window's slot holds them at once. -/
def State.patchSpill (s : State) (core slot asid : Nat) (t : Thread) (j : Nat) (y : Val) : State :=
  let va := s.spillBase core slot asid + (t.sb + j) * 512 + t.lane * 4
  (s.writeVa (siteOf core) asid va (leBytes 4 y.bits.toNat)).getD s

/-- R383 write, the unused bits of the value's container zero (R31): the value where it stands, its checkpoint slot where the committed region holds it, its spill slot where it lies in one. -/
def execDwWriteValue (core : Nat) (sel : W64) (s : State) : Out :=
  .next (match s.dwTarget core sel with
    | .error st => s.dwDone core sel st
    | .ok (w, t) =>
      let (pc, vals, head) := s.viewOf core w t
      let v := dwVnum sel
      let tag := (s.core core).dwAux.setWidth 6
      match vals.get? v with
      | none => s.dwDone core sel 1
      | some x =>
        if s.constVal core w t pc v then s.dwDone core sel 4
        else if x.tag ≠ tag then s.dwDone core sel 3
        else
          let y : Val := { bits := normBits (Ty.ofCode tag) (s.core core).dwData, tag := tag }
          let p := s.planOf core w pc.fsym
          let wide := p.width v = 2
          let keep := s.heldAtHead core w t v
          let w1 := if keep then s.patchSlots core w t v y else w
          let w2 := if head || !t.native then w1 else match s.locateIn core w t v with | some e => w1.patchLoc t wide y e | none => w1
          let w3 := w2.modThread t.lane fun t =>
            { t with vals := if head then t.vals else t.vals.set v y, ck := if keep then { t.ck with vals := t.ck.vals.set v y } else t.ck }
          let s1 := s.setWarp (wkey core (dwSlot sel)) w3
          let s2 := match p.spill.get? v with
            | some j =>
              let s2 := s1.patchSpill core (dwSlot sel) w.asid t j (y.half false)
              if wide then s2.patchSpill core (dwSlot sel) w.asid t (j + 1) (y.half true) else s2
            | none => s1
          s2.dwDone core sel 0)

/-- R382 OP 2: words 0 and 1 of the control block. -/
def execDwReadControl (core : Nat) (sel : W64) (s : State) : Out :=
  .next (match s.dwTarget core sel with
    | .error st => s.dwDone core sel st
    | .ok (w, t) =>
      let (a, b) := s.ctlWords core w t
      (s.dwDone core sel 0).modCore core fun k => { k with dwData := a, dwAux := b })

end Sys2Proof.Machine
end

