-- ==== Sys2Proof/Machine/Faults.lean ====
section
/-! DEFINITION. Sys2Proof/Machine/Faults.lean: `trap` and `brkpt` (R386, R387), the taking of a frame (R375-R377), its disposition and a
handler's return (R379-R381), debugger halts (R385), uncorrectable errors, core errors and gang loss (R372, R392, R393), dumps
(R395-R399), and the hang watchdog (R250). -/

namespace Sys2Proof.Machine

open Sys2Proof

/-! ## trap, brkpt -/

/-- R386 trap. -/
def execTrap (code : BitVec 16) (p : Pred) (s : State) : Out :=
  withCx s fun c =>
    let on := c.on p
    if on.isEmpty then s.advance c c.w false else s.takeEvent c { code := evUserTrap, qual := code.toNat } (on.map Thread.lane)

/-- R387 brkpt. -/
def execBrkpt (n : BitVec 16) (s : State) : Out :=
  withCx s fun c =>
    if s.brkEn c.site c.w.asid then s.takeEvent c { code := evBreak, qual := n.toNat } c.w.activeLanes else s.advance c c.w false

/-! ## Taking the frame (R375) -/

/-- The jobs and tile operations of the warp's unit or sharing group have completed (R287, R369), and no other group of it has an instruction
to complete. -/
def State.warpDrained (s : State) (w : Warp) : Bool := s.drained (s.unitWgs w.wg) && !w.midEffect

/-- The frame of an event can be taken: after the commit in the span of R127. In the scope of a dump only an event raised before the halt
broadcast takes one (R397), with nothing of its warp left to issue. -/
def State.frameDue (s : State) (w : Warp) (e : Event) : Bool :=
  !w.framed && (if (s.wg w.wg).dumping.isSome then e.early && s.drained (s.unitWgs w.wg) else s.warpDrained w && !(w.inSpan && w.ready w.turn))

/-- R375 FAULT_FRAME. -/
def execFaultFrame (core slot : Nat) (s : State) : Out :=
  let key := wkey core slot
  match s.warps.get? key with
  | none => .next s
  | some w =>
    match w.event with
    | none => .next s
    | some e =>
      .next (if !s.frameDue w e then s
        else
          let (f, s1) := s.frameOf core slot w e
          let w1 := (w.undoStep (laneIn e.glanes)).setFrame f
          (s1.setWarp key w1).modCore core fun k => { k with frames := k.frames.set slot w1.endFrame.frame })

/-! ## Disposition (R379) -/

/-- The workgroups of a launch on a core: a dump's scope (R395). -/
def State.dumpScope (s : State) (core asid lseq : Nat) : List Nat :=
  ((s.coreWgs core).filter fun g => g.2.asid = asid && g.2.lseq = lseq && !g.2.ended).map Prod.fst

def State.dumps (s : State) (site asid : Nat) : Bool :=
  ((s.die site).ctx? asid).any fun c => ctxFlag c.2 3 && (c.2.words.getD 14 0) ≠ 0

/-- The host event record of an unresolved fault. -/
def State.postFault (s : State) (core : Nat) (w : Warp) (f : FFrame) (dlen : Nat) : State :=
  let pc := w.stopPoint f
  s.post (siteOf core) w.asid
    { rkind := 0, code := frCode f, qual := frQual f, lseq := w.lseq, tidx := w.tidx, fsym := pc.fsym, warp := w.widx, pix := pc.pix
      modid := s.modid w.modIdx, aux := (frFaddr f).toNat, dlen := dlen }

/-- The halt broadcast of a dump: every warp in scope stops, the events raised before it known as such (R396, R397). -/
def State.haltBroadcast (s : State) (slot : Nat) (keys : List Nat) : State :=
  keys.foldl (fun s k =>
    let s1 := s.modWg k fun g => { g with dumping := some (slot, s.cycle) }
    (s.wgWarps k).foldl (fun s p => s.modWarp p.1 fun w => { w with event := w.event.map fun e => { e with early := true } }) s1) s

/-- Rule 3: the warp ends, its launch faults; a dump is started first where the context asks for one. -/
def State.disposeHost (s : State) (core slot : Nat) (w : Warp) (f : FFrame) : State :=
  if s.dumps (siteOf core) w.asid then
    let s1 := s.modWarp (wkey core slot) fun w => { w with frame := f }
    s1.haltBroadcast slot (s1.dumpScope core w.asid w.lseq)
  else ((s.killWarp (wkey core slot)).postFault core w f 0).stopLaunch w.asid w.lseq 3 (frCode f)

/-- The handler that covers a frame's event. -/
def State.handlerFor (s : State) (site : Nat) (w : Warp) (f : FFrame) : Option Nat :=
  if s.blockDue w.wg || w.pendingRestart.isSome then none
  else if !evHandled (frCode f) || !frPrecise f || (w.threads.any fun t => t.live && (frLanes f).contains t.lane && t.handler.isSome) then none
  else
    match s.launch? w.asid w.lseq with
    | none => none
    | some l =>
      match s.handler? site w.asid (field (recW l.record 0) 0 32) with
      | some (h, ev) => if ev.getLsbD (frCode f - 8) then some h else none
      | none => none

/-- The handler runs in the threads of GLANES, whose native place and registers it leaves to them (R381). -/
def Warp.runHandler (flip : Flip) (cycle h nspill : Nat) (f : FFrame) (w : Warp) : Warp :=
  let args : Tbl Val := [(0, mkVal tyB32 (BitVec.ofNat 64 (frCode f))), (1, mkVal tyB32 (BitVec.ofNat 64 (frQual f))), (2, mkVal tyB64 (frFaddr f))]
  let enter (t : Thread) : Thread :=
    ({ t with
      handler := some { pc := t.pc, vals := t.vals, stack := t.stack, sb := t.sb, ck := t.ck, wait := t.wait, nat := t.nat,
                        regs := regsOfLanes (· = t.lane) true w.native.regs }, frame := f
      pc := { fsym := h, pix := 0 }, vals := args, stack := [], sb := t.sb + nspill, wait := .none, home := none, cwait := none, consumed := false
      nat := {} } : Thread).commit flip
  let w1 : Warp := { w with threads := w.threads.map fun t => if t.live && (frLanes f).contains t.lane then enter t else t }
  w1.endFrame.fixTurn cycle

/-- The gang members of a lost gang's workgroup: whether it can be dispatched again (R372). -/
def State.gangIdem (s : State) (keys : List Nat) : Bool :=
  let g := s.wg (keys.headD 0)
  let ws := s.moduleWords g.modIdx
  let ts := ((s.warpsOf keys).map fun p => p.2.threads.filter Thread.live).flatten
  ((s.launch? g.asid g.lseq).any fun l => recIdem l.record) ||
  (match ts.head?.bind (threadIdem ws) with
   | some r => ts.all fun t => threadIdem ws t = some r
   | none => false)

/-- Members on cores out of service. -/
def State.lostMembers (s : State) (keys : List Nat) : List Nat := keys.filter fun k => !(s.core (k / 16)).inService

/-- R372 steps 4 and 5 when every surviving warp has its frame. -/
def State.disposeGang (s : State) (core slot : Nat) (w : Warp) (f : FFrame) : State :=
  let keys := s.unitWgs w.wg
  let lost := s.lostMembers keys
  let waiting := (s.warpsOf keys).any fun p => !lost.contains p.2.wg && !p.2.framed
  let site := siteOf core
  let g := s.wg (keys.headD 0)
  let u : SavedUnit := { s.saveUnit keys false with members := keys.map fun k => s.saveMemberAs true k }
  if waiting || !s.drained (keys.filter fun k => !lost.contains k) then s
  else if s.gangIdem keys && s.saveFits site g.asid u then
    let s1 := ((s.warpsOf keys).filter fun p => !lost.contains p.2.wg).foldl (fun s p => s.lastBoundary p.1) s
    let u1 := { u with members := u.members.map fun m => { m with warps := m.warps.map fun x => { x with event := none, frame := List.replicate 16 0 } } }
    ((s1.vacate keys).modDie site fun d => { d with resume := d.resume ++ [u1] }).syncArea site g.asid
  else (lost.foldl (fun s k => s.killAll fun x => x.wg = k) s).disposeHost core slot w f

/-- An UNCORRECTABLE event that rule 3 alone disposes of: of a checkpoint frame (R392) and of a slot fault (R77). -/
def onlyHost (code qual : Nat) : Bool := code = evUncorrectable && (qual = 3 || qual = 5)

/-- R379 DISPOSITION, by the first rule that applies. -/
def execDisposition (core slot : Nat) (s : State) : Out :=
  let key := wkey core slot
  match s.warps.get? key with
  | none => .next s
  | some w =>
    let f := w.frame
    let code := frCode f
    let site := siteOf core
    .next (if !w.framed || (s.wg w.wg).dumping.isSome then s
      else if code = evGangLost then s.disposeGang core slot w f
      else if s.attached site w.asid && s.haltsOn site w.asid code && !onlyHost code (frQual f) then
        s.setWarp key (w.endFrame.haltLanes s.cycle (frLanes f) f)
      else
        match s.handlerFor site w f with
        | some h =>
          let fsym := (w.stopPoint f).fsym
          let c := s.cxFor { core := core, slot := slot } w
          s.setWarp key (c.enterUnit h (w.runHandler (s.flip core w) s.cycle h (c.nspill fsym) f))
        | none => s.disposeHost core slot w f)

/-! ## Actions (R381) -/

/-- The action of a handler, or of the debug window, on a stopped group whose frame is `f`. -/
def State.act (s : State) (core slot : Nat) (lanes : List Nat) (f : FFrame) (action : Nat) : State :=
  let key := wkey core slot
  let site := siteOf core
  let w := (s.warps.get? key).getD {}
  match action with
  | 0 => (s.modWarp key (Warp.exemptWatch lanes fun _ => f)).retryGroup key lanes
  | 1 =>
    if frCode f = evUnreachable then s.disposeHost core slot w f
    else if frPrecise f then s.skipLanes key lanes f
    else s.retryGroup key lanes
  | 2 => if s.attached site w.asid then s.modWarp key (Warp.haltLanes s.cycle lanes f) else s.disposeHost core slot w f
  | _ => s.disposeHost core slot w f

/-- What a handler's thread goes back to. -/
def Thread.leaveHandler (t : Thread) : Thread :=
  match t.handler with
  | none => t
  | some h => { t with pc := h.pc, vals := h.vals, stack := h.stack, sb := h.sb, ck := h.ck, wait := h.wait, nat := h.nat, handler := none, halted := false }

/-- The registers that a handler's threads had before it. -/
def Warp.handlerRegs (lanes : List Nat) (w : Warp) : Tbl Val :=
  let rest := w.native.regs.filter fun p => p.1 < 40960 && !lanes.contains (p.1 % 128)
  (w.threads.filter fun t => lanes.contains t.lane).foldl (fun r t => match t.handler with | some h => h.regs.foldl (fun r p => r.set p.1 p.2) r | none => r) rest

/-- R381 HANDLER_RETURN: when every thread of the handler's group has returned, the lowest one's action applies. -/
def execHandlerReturn (core slot : Nat) (s : State) : Out :=
  let key := wkey core slot
  match s.warps.get? key with
  | none => .next s
  | some w =>
    let ts := w.threads.filter fun t => t.live && t.handler.isSome
    .next (match ts.find? fun t => (t.handler.bind HandlerSave.action).isSome with
      | none => s
      | some t0 =>
        let f := t0.frame
        let mine := ts.filter fun t => (frLanes f).contains t.lane
        if mine.all fun t => (t.handler.bind HandlerSave.action).isSome then
          let lanes := mine.map Thread.lane
          let a := ((mine.head?.bind fun t => t.handler.bind HandlerSave.action).getD 0).toNat
          let w1 : Warp := { w with
            threads := w.threads.map fun t => if t.live && lanes.contains t.lane then { t.leaveHandler with grp := w.nextGrp } else t
            nextGrp := w.nextGrp + 1, native := { w.native with regs := w.handlerRegs lanes } }
          let fsym := ((mine.head?.bind Thread.handler).map fun h => h.pc.fsym).getD 0
          (s.setWarp key ((s.cxFor { core := core, slot := slot } w).enterUnit fsym w1)).act core slot lanes f a
        else s)

/-- R382 OP 3: resume the group of a lane, with action 0 or 1. -/
def execDwResume (core : Nat) (sel : W64) (s : State) : Out :=
  .next (match s.dwTarget core sel with
    | .error st => s.dwDone core sel st
    | .ok (w, t) =>
      let f := w.frameFor t
      let key := wkey core (dwSlot sel)
      let lanes := (w.threads.filter fun u => u.live && u.grp = t.grp).map Thread.lane
      let s1 := s.setWarp key { (if t.halted then w else w.endFrame) with
        threads := w.threads.map fun u => if lanes.contains u.lane then { u with halted := false } else u }
      (s1.act core (dwSlot sel) lanes f (if sel.getLsbD 12 then 1 else 0)).dwDone core sel 0)

/-- The halted groups of a saved unit: they restart with it. -/
def SavedUnit.unhalt (u : SavedUnit) : SavedUnit :=
  let goes (t : Thread) : Bool := t.live && t.halted && (t.handler.bind HandlerSave.action).isNone
  let warp (w0 : Warp) : Warp :=
    let w := w0.exemptWatch ((w0.threads.filter goes).map Thread.lane) Thread.frame
    { w with threads := w.threads.map fun t => if goes t then { t with halted := false, frame := [] } else t }
  { u with members := u.members.map fun m => { m with warps := m.warps.map warp } }

/-- Halted groups of a context on a die, resident and saved, resume with action 0 (R249, R385). -/
def State.resumeHalted (s : State) (site asid : Nat) : State :=
  let saved (us : List SavedUnit) : List SavedUnit := us.map fun u => if u.asid = asid then u.unhalt else u
  let s1 := s.modDie site fun d => { d with resume := saved d.resume, parked := saved d.parked }
  (s.warps.filter fun p => siteOf (p.1 / 16) = site && p.2.asid = asid).foldl (fun s p =>
    let lanes := (p.2.threads.filter fun t => t.live && t.halted && (t.handler.bind HandlerSave.action).isNone).map Thread.lane
    if lanes.isEmpty then s else (s.modWarp p.1 (Warp.exemptWatch lanes Thread.frame)).retryGroup p.1 lanes) s1

/-- R385 DEBUG_DETACH: a write of DBG_CTL. -/
def execDebugDetach (site vf : Nat) (ctl : W64) (s : State) : Out :=
  let v := (s.die site).vfs.get {} vf
  let s1 := s.modDie site fun d => { d with vfs := d.vfs.set vf { v with dbgCtl := ctl &&& 3 } }
  .next (if ctl.getLsbD 0 || !v.bound then s1
    else
      match (s.die site).ctxs.get? v.slot with
      | some c => s1.resumeHalted site (field (c.words.getD 0 0).toNat 32 16)
      | none => s1)

/-! ## Uncorrectable errors (R392, R393) -/

/-- An event in every warp of some workgroups that has none. -/
def State.raiseAll (s : State) (keys : List Nat) (code qual : Nat) : State :=
  (s.warpsOf keys).foldl (fun s p =>
    if p.2.event.isSome || p.2.framed then s
    else
      let all := (p.2.threads.filter Thread.live).map Thread.lane
      s.raiseIn p.1 { code := code, qual := qual } all p.2.activeLanes false) s

/-- Gang loss (R372 steps 1 and 2): the failed member stops without a frame, and its jobs, tile operations and held lines are gone. -/
def State.gangLoss (s : State) (wgk : Nat) : State :=
  let core := wgk / 16
  let names := (s.wgWarps wgk).map fun p => p.2.name
  let s1 := names.foldl State.dropHomeOps s
  let s2 := s1.modCore core fun k =>
    { k with jobs := k.jobs.filter (·.wg ≠ wgk), tileOps := k.tileOps.filter (·.wg ≠ wgk), scaleq := k.scaleq.filter (·.wg ≠ wgk)
             hold := k.hold.filter fun e => !names.contains e.owner }
  let s3 := s2.modWg wgk fun g => { g with stop := some .coreError }
  s3.raiseAll ((s.unitWgs wgk).filter (· ≠ wgk)) evGangLost (s.wg wgk).gmember

/-- A CORE ERROR (R393). -/
def State.coreError (s : State) (core : Nat) (reached : Option Nat) (qual : Nat) : State :=
  let s1 := s.modCore core fun k => { k with inService := false }
  let others := ((s.coreWgs core).filter fun g => some g.1 ≠ reached && !g.2.ended).map Prod.fst
  let s2 := match reached with
    | none => s1
    | some g =>
      if (s.wg g).isGang then s1.gangLoss g
      else if s1.losesPad g then s1.pushPreempt .coreError [g]
      else s1.raiseAll [g] evUncorrectable qual
  s2.pushPreempt .coreError others

/-- R392 UNCORRECTABLE. -/
def execUncorrectable (src : ErrSource) (s : State) : Out :=
  .next (match src with
    | .datum pa => if deviceByte pa && !s.poison.contains pa then { s with poison := pa :: s.poison } else s
    | .regFile core slot =>
      (match s.warps.get? (wkey core slot) with
       | none => s
       | some w =>
         if w.event.isSome || w.framed then s
         else if w.regErr then
           s.raiseIn (wkey core slot) { code := evUncorrectable, qual := 1 } ((w.threads.filter Thread.live).map Thread.lane) w.activeLanes false
         else
           let keep (t : Thread) : Bool := t.live && !t.halted
           let lanes := (w.threads.filter keep).map Thread.lane
           (s.modWarp (wkey core slot) fun w => { w with regErr := true }).retryGroup (wkey core slot) lanes)
    | .scratch core wgslot => s.coreError core (if (s.wgs.get? (core * 16 + wgslot)).isSome then some (core * 16 + wgslot) else none) 2
    | .ckpt core slot =>
      (match s.warps.get? (wkey core slot) with
       | none => s
       | some w =>
         if w.event.isSome || w.framed then s
         else s.raiseIn (wkey core slot) { code := evUncorrectable, qual := 3 } ((w.threads.filter Thread.live).map Thread.lane) w.activeLanes false)
    | .accum core unit => s.coreError core (((s.core core).acc.get {} unit).held) 4
    | .hold core idx =>
      (match (s.core core).hold[idx]? with
       | none => s
       | some e => s.coreError core ((s.warps.find? fun p => p.1 / 16 = core && p.2.name = e.owner).map fun p => p.2.wg) 7)
    | .l1 core line => s.modCore core fun k => k.dropLine line)

/-- A wait that cannot end while a member is halted (R249): of a barrier or the gang barrier, of `ljoin`. -/
def State.needsHalted (s : State) (key : Nat) (w : Warp) (t : Thread) : Bool :=
  let wgs := s.ownerWgs w.wg
  let halted (p : Thread → Bool) (ws : List (Nat × Warp)) : Bool := ws.any fun q => q.2.threads.any fun u => u.live && u.halted && p u
  match t.wait with
  | .barrier phys g _ =>
    let b := s.nbar (clusterOf (key / 16)) phys
    let out (q : Warp) (u : Thread) : Bool := u.live && !b.arrived.contains (threadName q u)
    let able := ((s.warpsOf wgs).map fun q => (q.2.threads.filter fun u => out q.2 u && !u.halted).length).foldl (· + ·) 0
    b.gen = g && b.arr + able < b.cnt.getD 0
  | .gang _ => halted (fun _ => true) (s.warpsOf wgs)
  | .ljoin _ => halted (fun _ => true) (s.wgWarps w.wg)
  | _ => false

/-- The warp's hang counter stands still (R249, R250): it holds a halted group, or waits on one. -/
def State.hangHeld (s : State) (key : Nat) (w : Warp) : Bool :=
  w.threads.any fun t => t.live && (t.halted || s.needsHalted key w t)

/-- A CORE CYCLE PASSES: the hang counters that stand still keep their counts. -/
def State.passCycle (s : State) : State :=
  { s with cycle := s.cycle + 1
           warps := s.warps.mapVals fun k w => if !w.pageWaits && s.hangHeld k w then { w with hangBase := w.hangBase + 1 } else w }

/-- R250 HANG. -/
def execHang (core slot : Nat) (s : State) : Out :=
  match s.warps.get? (wkey core slot) with
  | none => .next s
  | some w =>
    let cfg := (s.core core).hangcfg.toNat
    let lg := Nat.min 40 (Nat.max 20 (field cfg 0 6))
    .next (if cfg.testBit 6 || w.event.isSome || w.framed || w.pendingRestart.isSome || (w.threads.any fun t => t.live && t.halted) ||
        w.hangCount s.cycle < 2 ^ lg then s
      else s.raiseIn (wkey core slot) { code := evHang } ((w.threads.filter Thread.live).map Thread.lane) w.activeLanes false)

/-! ## Core dumps (R395-R399) -/

/-- A section with its header. -/
def dumpSection (stype wgslot wslot tidx aux : Nat) (body : List Byte) : List Byte :=
  le 2 stype ++ zeros 2 ++ le 4 (32 + body.length) ++ le 1 wgslot ++ le 1 wslot ++ zeros 6 ++ le 8 tidx ++ le 8 aux ++ body

/-- Where a group of a dumped warp stands: whether its stop is precise, its state and its event (R396, R397, R399). -/
def Warp.dumpState (w : Warp) (t : Thread) : Bool × Nat × Nat :=
  if t.halted && !t.frame.isEmpty then (frPrecise t.frame, 2, frCode t.frame)
  else if w.framed && (frLanes w.frame).contains t.lane then (frPrecise w.frame, 3, frCode w.frame)
  else
    match w.event.filter fun e => laneIn e.glanes t.lane with
    | some e => (e.precise, 3, e.code)
    | none => (true, if t.wait = .none then 0 else 1, 0)

def State.dumpWarp (s : State) (core : Nat) (w : Warp) : List Byte :=
  s.warpBody core w fun t =>
    let (pr, st, ev) := w.dumpState t
    ((s.stopView core w t pr).1, st, ev)

/-- The live values of one group. -/
def State.dumpValues (s : State) (core : Nat) (w : Warp) (ts : List Thread) : List Byte :=
  let views := ts.map fun t => (t.lane, (s.stopView core w t (w.dumpState t).1).2)
  let nums := ((views.head?.map fun v => v.2.map Prod.fst).getD [])
  let one (v : Nat) : List Byte :=
    let at_ (lane : Nat) : Option Val := (views.find? fun x => x.1 = lane).bind fun x => x.2.get? v
    let tags := views.map fun x => (x.2.get {} v).tag
    let tag0 := tags.headD 0
    let mixed := tags.any (· ≠ tag0)
    let lw := if tags.any fun g => 32 < (Ty.ofCode g).bits then 2 else 1
    le 8 (v % 2 ^ 24 + (if mixed then 15 else tag0.toNat) * 2 ^ 24 + lw * 2 ^ 30) ++
      ((List.range 128).map fun l => le (4 * lw) ((at_ l).map (fun x => x.bits.toNat) |>.getD 0)).flatten ++
      (if mixed then (List.range 128).map fun l => ((at_ l).map (fun x => (x.tag.setWidth 8 : Byte))).getD 0 else [])
  (nums.map one).flatten

def State.dumpBarrier (s : State) (gk : Nat) : List Byte :=
  let g := s.wg gk
  let owners := s.unitWgs gk
  let bars := ((s.cluster (clusterOf (gk / 16))).nbs.filter fun b => b.2.owner = some gk || (g.isGang && b.2.owner.any owners.contains)).map Prod.snd
  barrierBody bars (g.cvs.map fun p => s.cv (gk / 16) p.2)

/-- The sections of a workgroup, in order. -/
def State.dumpWg (s : State) (gk : Nat) : List (List Byte) :=
  let g := s.wg gk
  let core := gk / 16
  let warp (p : Nat × Warp) : List (List Byte) :=
    dumpSection 1 (gk % 16) (p.1 % 16) g.tidx 0 (s.dumpWarp core p.2) ::
      p.2.groupThreads.zipIdx.map fun x => dumpSection 2 (gk % 16) (p.1 % 16) g.tidx x.2 (s.dumpValues core p.2 x.1)
  let sorted := (List.range 16).filterMap fun i => (s.wgWarps gk).find? fun p => p.2.widx = i
  (sorted.map warp).flatten ++
    [dumpSection 3 (gk % 16) 0xFF g.tidx (256 * g.grant) ((List.range (256 * g.grant)).map (cellGet g.scratch)),
     dumpSection 4 (gk % 16) 0xFF g.tidx 0 (s.dumpBarrier gk)]

/-- Second faults: warps in scope whose event came after the broadcast, in slot order (R397). -/
def State.secondFaults (s : State) (keys : List Nat) : List (Nat × Warp × Event) :=
  (s.warpsOf keys).filterMap fun p => (p.2.event.filter fun e => !e.early).map fun e => (p.1, p.2, e)

def State.dumpHeader (s : State) (core : Nat) (w : Warp) (f : FFrame) (since : Nat) (keys : List Nat) (dlen nsect flags : Nat) : List Byte :=
  let site := siteOf core
  let seconds := s.secondFaults keys
  let (sc, sg, sw, sq, sa) := match seconds.head? with
    | some (k, x, e) => (e.code, x.wg % 16, k % 16, e.qual, e.faddr.toNat)
    | none => (0, 0, 0, 0, 0)
  let f0 := f.set 0 (BitVec.ofNat 64 (frW f 0 % 2 ^ 45 + frW f 0 / 2 ^ 46 * 2 ^ 46))
  le 8 0x3130504D55444B4B ++ le 4 dlen ++ le 2 nsect ++ le 1 flags ++ le 1 1 ++ le 8 w.lseq ++ le 1 site ++ le 1 (clusterOf core) ++
    le 1 (core % 192) ++ le 1 keys.length ++ le 2 w.asid ++ zeros 2 ++ (f0.map fun x => le 8 x.toNat).flatten ++ le 1 sc ++ le 1 sg ++ le 1 sw ++
    le 1 (Nat.min 255 seconds.length) ++ le 2 sq ++ zeros 2 ++ le 8 sa ++ le 8 (since - (s.die site).resetAt) ++ zeros 72

/-- Stores at system scope through a context's page tables, page by page; the state and how many bytes were written. -/
def State.writeVaRun (s : State) (site asid : Nat) : Nat → Nat → List Byte → Nat → State × Nat
  | 0, _, _, n => (s, n)
  | k + 1, va, bs, n =>
    if bs.isEmpty then (s, n)
    else
      let m := Nat.min bs.length (65536 - va % 65536)
      match s.writeVa site asid va (bs.take m) with
      | none => (s, n)
      | some s1 => s1.writeVaRun site asid k (va + m) (bs.drop m) (n + m)

/-- Sections that end within the first `n` bytes. -/
def wholeSections : Nat → Nat → List (List Byte) → Nat
  | _, _, [] => 0
  | n, off, x :: xs => if off + x.length ≤ n then 1 + wholeSections n (off + x.length) xs else 0

/-- The scope of a dump has come to rest: jobs and tile operations complete, loads returned, the earlier frames taken (R396, R397). -/
def State.dumpReady (s : State) (keys : List Nat) : Bool :=
  s.drained keys && !((s.warpsOf keys).any fun p => p.2.event.any Event.early || p.2.threads.any fun t => t.live && t.home ≠ none)

/-- R396 CORE_DUMP: when the scope has drained, the dump is written, the record is posted, and the scope ends. -/
def execCoreDump (core slot : Nat) (s : State) : Out :=
  match s.warps.get? (wkey core slot) with
  | none => .next s
  | some w =>
    match (s.wg w.wg).dumping with
    | none => .next s
    | some (first, since) =>
      let keys := (s.dumpScope core w.asid w.lseq).filter fun k => (s.wg k).dumping = some (first, since)
      .next (if first ≠ slot || !s.dumpReady keys then s
        else
          let site := siteOf core
          let f := w.frame
          let c := (((s.die site).ctx? w.asid).map fun c => c.2.words).getD []
          let base := (c.getD 13 0).toNat
          let len := (c.getD 14 0).toNat
          let sects := (keys.map s.dumpWg).flatten
          let second := if (s.secondFaults keys).isEmpty then 0 else 4
          let all := s.dumpHeader core w f since keys 0 0 second ++ sects.flatten
          let (s1, n) := s.writeVaRun site w.asid (all.length / 65536 + 2) base (all.take len) 0
          let flags := second + if n = all.length then 1 else 2
          let head := s.dumpHeader core w f since keys n (wholeSections n 256 sects) flags
          let (s2, _) := s1.writeVaRun site w.asid 2 base (head.take len) 0
          let s3 := s2.postFault core w f n
          let s4 := keys.foldl (fun s k => s.modWg k fun g => { g with dumping := none }) s3
          (s4.killAll fun x => keys.contains x.wg).stopLaunch w.asid w.lseq 3 (frCode f))

end Sys2Proof.Machine
end

