-- ==== Sys2Proof/Machine/Contexts.lean ====
section
/-! DEFINITION. Sys2Proof/Machine/Contexts.lean: contexts: load (R420, R421), teardown (R423), save and restore (R231, R424, R425),
scrubbing (R426); the TDIs of virtual functions (R431); die reset and function-level resets (R394, R432). -/

namespace Sys2Proof.Machine

open Sys2Proof

def descAsid (ws : List W64) : Nat := field (ws.getD 0 0).toNat 32 16
def descDomain (ws : List W64) : Nat := field (ws.getD 0 0).toNat 20 12

/-- Where a context is loaded. -/
def State.loadedOn (s : State) (asid : Nat) : List Nat := [0, 1, 2, 3].filter fun i => ((s.die i).ctx? asid).isSome

/-- CTX_CMD as it reads when its operation is done (R420). -/
def State.ctxStatus (s : State) (site op slot st : Nat) : State :=
  s.modDie site fun d => { d with ctxCmd := BitVec.ofNat 64 (st * 2 ^ 48 + op * 2 ^ 32 + slot % 4096) }

def State.ctxBusy (s : State) (site slot op : Nat) : State :=
  s.modDie site fun d => { d with ctxCmd := BitVec.ofNat 64 (2 ^ 63 + op * 2 ^ 32 + slot % 4096) }

/-- The TDI that locks a slot (R431). -/
def Die.slotLocked (d : Die) (slot : Nat) : Bool := d.vfs.any fun v => v.2.bound && v.2.slot = slot && (v.2.tdi = .locked || v.2.tdi = .run)

/-- STATE as it reads (R232): 1 while packets or launches of the queue are outstanding. -/
def HostQueue.shown (q : HostQueue) : Nat :=
  if q.state = 2 || q.state = 3 then q.state else if q.en && (q.ridx ≠ q.widx || !q.live.isEmpty) then 1 else 0

/-! ## Load (R420, R421) -/

/-- The fields of an area of device memory on the loading die. -/
def areaBad (site align base len : Nat) : Bool := len ≠ 0 && (base % align ≠ 0 || !deviceByte base || siteOfPa base ≠ site)

def descBad (site : Nat) (ws : List W64) : Bool :=
  let w (i : Nat) : Nat := (ws.getD i 0).toNat
  !(w 0).testBit 0 || field (w 0) 20 12 = 0 || field (w 0) 32 16 = 0 || !(w 0).testBit (16 + site) ||
  field (w 0) 48 16 ≠ 0 || field (w 0) 5 11 ≠ 0 || (w 0).testBit 1 ||
  w 1 ≠ field (w 1) 21 36 * 2 ^ 21 || w 2 ≠ field (w 2) 21 36 * 2 ^ 21 || !deviceByte (w 1) || !deviceByte (w 2) || w 3 % 65536 ≠ 0 || w 4 = 0 || 65536 < w 4 ||
  w 5 % 256 ≠ 0 || w 6 = 0 || 2 ^ 20 < w 6 || w 7 % 16 ≠ 0 || 256 < w 8 || w 9 % 64 ≠ 0 || w 10 < 4 || 16 < w 10 ||
  (w 16 ≠ 0 && (w 15 % 64 ≠ 0 || w 16 % 64 ≠ 0)) || areaBad site 4096 (w 17) (w 18) || areaBad site 65536 (w 19) (w 20) ||
  ((ws.drop 21).any (· ≠ 0))

/-- Loaded elsewhere with other words 0 to 8. -/
def State.descDiffers (s : State) (site asid : Nat) (ws : List W64) : Bool :=
  (s.loadedOn asid).any fun i => i ≠ site && ((s.die i).ctx? asid).any fun c => c.2.words.take 9 ≠ ws.take 9

/-- CTX_CMD OP 1 (R420, R421). R22 counts 4,096 resident contexts for a package, and R420 gives each die a table of 4,096 and no refusal for
the package's count: here only each die's table bounds them (DESIGN CHOICE, log 33). -/
def execCtxLoad (site slot : Nat) (s : State) : Out :=
  let d := s.die site
  let ws := (List.range 32).map fun i => s.word64 (d.descPa slot + 8 * i)
  let asid := descAsid ws
  .next (if d.slotLocked slot then s.ctxStatus site 1 slot 5
    else if (d.ctxs.get? slot).isSome then s.ctxStatus site 1 slot 2
    else if descBad site ws || s.descDiffers site asid ws then s.ctxStatus site 1 slot 1
    else if (d.ctx? asid).isSome then s.ctxStatus site 1 slot 3
    else (s.modDie site fun d => { d with ctxs := d.ctxs.set slot { words := ws.take 21 } }).ctxStatus site 1 slot 0)

/-! ## Cancellation (R394, R423) -/

/-- Held lines are discarded unpublished; their reserved records become FILLER. -/
def State.dropHeld (s : State) (p : Nat → HoldEntry → Bool) : State :=
  s.cores.foldl (fun s k =>
    let out := k.2.hold.filter (p k.1)
    if out.isEmpty then s
    else
      let s1 := s.modCore k.1 fun c => { c with hold := c.hold.filter fun e => !p k.1 e }
      out.foldl (fun s e => match e.logged with | some pa => s.filler (siteOf k.1) pa | none => s) s1) s

/-- A launch is cancelled on every die: its units stop without frames, wherever they run. -/
def State.cancelLaunch (s : State) (asid lseq code : Nat) : State :=
  let s1 := (s.modLaunch asid lseq fun l => if l.status = 0 then { l with status := 4, code := code } else l).freeWalkers asid lseq
  let s2 := s1.killAll fun w => w.asid = asid && w.lseq = lseq
  let keep (u : SavedUnit) : Bool := !(u.asid = asid && u.lseq = lseq)
  { s2 with
    dies := s2.dies.mapVals fun _ d =>
      { d with
        resume := d.resume.filter keep, parked := d.parked.filter keep
        landings := d.landings.filter fun x => !(x.2.warp.asid = asid && x.2.warp.lseq = lseq)
        reland := d.reland.filter fun x => !(x.warp.asid = asid && x.warp.lseq = lseq)
        ctxs := d.ctxs.mapVals fun _ c =>
          { c with saveUnits := c.saveUnits.filter keep, savedWalkers := c.savedWalkers.filter fun w => !(w.2.2.asid = asid && w.2.2.lseq = lseq)
                   savedLandings := c.savedLandings.filter fun x => !(x.2.warp.asid = asid && x.2.warp.lseq = lseq) } } }

/-- Pool entries go; a joined child that was not yet accepted counts as failed. -/
def State.dropPool (s : State) (site : Nat) (p : PoolEntry → Bool) : State :=
  let out := (s.die site).pool.filter p
  let s1 := s.modDie site fun d => { d with pool := d.pool.filter fun e => !p e }
  out.foldl (fun s e =>
    match e.accepted, e.parent with
    | none, some (pl, pt, pg) => s.modMember e.asid pl pt pg fun g => { g with joined := g.joined - 1, failed := Nat.min 65535 (g.failed + 1) }
    | _, _ => s) s1

/-! ## Teardown (R423) -/

/-- Engine jobs and tile operations of a context on a die that have not completed. -/
def State.ctxJobs (s : State) (site asid : Nat) : Bool :=
  s.cores.any fun k => siteOf k.1 = site && ((k.2.jobs.any fun j => j.asid = asid) ||
    (k.2.tileOps.any fun o => (s.wg o.wg).asid = asid) || k.2.scaleq.any fun e => (s.wg e.wg).asid = asid && !e.arrived)

/-- Steps 1 and 2. -/
def State.stopContext (s : State) (site asid : Nat) : State :=
  let s1 := s.modDie site fun d => { d with hq := d.hq.mapVals fun _ q => if q.asid = asid then { q with en := false, state := 0, err := 0, packet := none } else q }
  let s2 := s1.dropHeld fun core e => siteOf core = site && e.owner.asid = asid
  let ls := s2.launches.filter fun l => l.asid = asid && s2.onDie site true l
  (ls.foldl (fun s l => s.cancelLaunch asid l.lseq 0) s2).dropPool site fun e => e.asid = asid

/-- A snapshot of the context stops: its shard stays incomplete (R433). -/
def Die.stopSnap (d : Die) (c : CtxDesc) : Die :=
  let base := field d.snapSft.toNat 12 52 * 4096
  if (c.words.getD 19 0).toNat ≤ base && base < (c.words.getD 19 0).toNat + (c.words.getD 20 0).toNat then
    { d with snap := none, snapCtl := setField d.snapCtl 1 1 0 }
  else d

/-- Steps 4 to 6. -/
def State.dropContext (s : State) (site slot : Nat) : State :=
  match (s.die site).ctxs.get? slot with
  | none => s
  | some c =>
    let asid := descAsid c.words
    let keys := (s.wgs.filter fun g => siteOf (g.1 / 16) = site && g.2.asid = asid).map Prod.fst
    let s1 := s.vacate keys
    let s2 := s1.modDie site fun d =>
      { d.stopSnap c with
        ctxs := d.ctxs.del slot, units := d.units.filter fun u => u.key.asid ≠ asid, badUnits := d.badUnits.filter fun u => u.1.asid ≠ asid
        pins := d.pins.filter fun p => p.asid ≠ asid, faults := d.faults.filter fun f => f.asid ≠ asid
        reds := d.reds.filter fun r => r.asid ≠ asid
        smpCtl := if d.smpAsid = asid then setField d.smpCtl 0 2 0 else d.smpCtl, smpOff := d.smpOff && d.smpAsid ≠ asid }
    let s3 : State :=
      { s2 with
        cores := s2.cores.mapVals fun core k => if siteOf core = site then { k with utlb := k.utlb.filter fun e => e.asid ≠ asid } else k
        clusters := s2.clusters.mapVals fun cl c =>
          if cl / 4 = site then
            { c with tlb := c.tlb.filter fun e => e.asid ≠ asid, tc := c.tc.filter fun x => x.unit.asid ≠ asid
                     demands := c.demands.filter fun x => x.unit.asid ≠ asid, prefetch := c.prefetch.filter fun u => u.asid ≠ asid
                     fetching := c.fetching.filter fun x => x.unit.asid ≠ asid, current := c.current.filter fun x => x.unit.asid ≠ asid }
          else c }
    if (s3.loadedOn asid).isEmpty then
      { s3 with
        infos := s3.infos.del asid
        modules := s3.modules.map fun m => if m.asid = asid then { m with asid := 0 } else m }
    else s3

/-- A TEARDOWN, as far as it can go: jobs already accepted run to completion first (step 3). True when it is done. -/
def State.teardown (s : State) (site slot : Nat) : Bool × State :=
  match (s.die site).ctxs.get? slot with
  | none => (true, s)
  | some c =>
    let asid := descAsid c.words
    let s1 := s.stopContext site asid
    if s1.ctxJobs site asid then (false, s1.modDie site fun d => d.modCtx slot fun c => { c with saved := true, closing := true }) else (true, s1.dropContext site slot)

/-- CTX_CMD is at work on a slot's teardown. -/
def Die.cmdTears (d : Die) (slot : Nat) : Bool := d.ctxCmd.getLsbD 63 && field d.ctxCmd.toNat 32 3 = 2 && field d.ctxCmd.toNat 0 12 = slot

/-- CTX_CMD OP 2; one that a reset of its function has begun goes on without CTX_CMD (R423, R432). -/
def execCtxTeardown (site slot : Nat) (s : State) : Out :=
  let d := s.die site
  .next (match d.ctxs.get? slot with
    | none => s.ctxStatus site 2 slot 4
    | some c =>
      if d.slotLocked slot && !c.closing then s.ctxStatus site 2 slot 5
      else
        match s.teardown site slot with
        | (done, s1) => if c.closing && !d.cmdTears slot then s1 else if done then s1.ctxStatus site 2 slot 0 else s1.ctxBusy site slot 2)

/-! ## Saving (R424, R425) -/

/-- Everything of the context on the die that is no unit goes to the descriptor's saved state (steps 4 and 5). -/
def State.packContext (s : State) (site slot asid : Nat) : State :=
  let d := s.die site
  let mineU (u : SavedUnit) : Bool := u.asid = asid
  let walkers := ((s.clusters.filter fun c => c.1 / 4 = site).map fun c => (c.2.walkers.filter fun w => w.2.asid = asid).map fun w => (c.1, w.1, w.2)).flatten
  let s1 := s.modDie site fun d =>
    { d with
      reds := d.reds.map fun r => if r.asid = asid then { r with spilled := true } else r
      resume := d.resume.filter fun u => !mineU u, parked := d.parked.filter fun u => !mineU u
      pool := d.pool.filter fun e => e.asid ≠ asid, landings := d.landings.filter fun x => x.2.warp.asid ≠ asid
      reland := d.reland.filter fun x => x.warp.asid ≠ asid }
  let s2 : State := { s1 with clusters := s1.clusters.mapVals fun cl c =>
    -- split requests not yet performed are dropped (R218)
    let c1 := { c with splitReqs := c.splitReqs.filter fun r => !(r.asid = asid && (cl / 4 = site || siteOf r.core = site)) }
    if cl / 4 = site then { c1 with walkers := c1.walkers.filter fun w => w.2.asid ≠ asid } else c1 }
  s2.modDie site fun d1 => d1.modCtx slot fun c =>
    { c with saveUnits := (d.resume ++ d.parked).filter mineU, savedWalkers := walkers ++ c.savedWalkers, savedPool := d.pool.filter fun e => e.asid = asid
             savedLandings := (d.landings.filter fun x => x.2.warp.asid = asid) ++
               (d.reland.filter fun x => x.warp.asid = asid).zipIdx.map fun x => (Config.landingSlots + x.2, x.1) }

/-- A saved landing finds its landing slot free. -/
def landsAt (t : Tbl Landing) (x : Nat × Landing) : Bool := x.1 < Config.landingSlots && (t.get? x.1).isNone

/-- The context resumes on the die. -/
def State.unpackContext (s : State) (site slot : Nat) : State :=
  match (s.die site).ctxs.get? slot with
  | none => s
  | some c =>
    let asid := descAsid c.words
    let s1 := s.modDie site fun d =>
      let d1 := d.modCtx slot fun c => { c with saved := false, saveUnits := [], savedWalkers := [], savedPool := [], savedLandings := [] }
      { d1 with
        resume := d1.resume ++ c.saveUnits.filter (fun u => !u.parked), parked := d1.parked ++ c.saveUnits.filter SavedUnit.parked
        pool := d1.pool ++ c.savedPool
        landings := c.savedLandings.foldl (fun t x => if landsAt d1.landings x then t.set x.1 x.2 else t) d1.landings
        reland := d1.reland ++ (c.savedLandings.filter fun x => !landsAt d1.landings x).map Prod.snd
        hq := d1.hq.mapVals fun _ q => if q.asid = asid && q.state = 3 then { q with state := q.savedState } else q }
    (s1.returnWalkers site slot c.savedWalkers).reLand site

/-- The save of one context goes as far as it can: its units are pre-empted one by one; then everything else is packed. -/
def execCtxSave (site slot : Nat) (s : State) : Out :=
  let d := s.die site
  .next (match d.ctxs.get? slot with
    | none => s.ctxStatus site 3 slot 4
    | some c =>
      let asid := descAsid c.words
      let going := d.ctxCmd.getLsbD 63 && field d.ctxCmd.toNat 32 3 = 3 && field d.ctxCmd.toNat 0 12 = slot && c.saved
      if d.slotLocked slot && !going then s.ctxStatus site 3 slot 5
      else if c.saved && !going then s.ctxStatus site 3 slot 6
      else
        let s1 := if going then s else
          (s.modDie site fun d =>
            { d.modCtx slot (fun c => { c with saved := true }) with
              hq := d.hq.mapVals fun _ q => if q.asid = asid && q.en then { q with savedState := q.shown, state := 3 } else q }).ctxBusy site slot 3
        let resident := s1.wgs.filter fun g => siteOf (g.1 / 16) = site && g.2.asid = asid
        let may (g : Nat × Workgroup) : Bool :=
          !g.2.ended && g.2.stop.isNone && !((s1.warpsOf (s1.unitWgs g.1)).any fun p => p.2.event.isSome || (p.2.framed && !(p.2.threads.any Thread.halted))) &&
            s1.saveFits site asid (s1.saveUnit (s1.unitWgs g.1) false)
        if !resident.isEmpty then s1.pushPreempt .ctxSave ((resident.filter may).map Prod.fst)
        else
          let s2 := s1.packContext site slot asid
          let c2 := ((s2.die site).ctxs.get? slot).getD c
          let im := s2.saveImage site asid c2
          let scyc := s.cycle - (s.die site).resetAt
          if (c2.words.getD 18 0).toNat < im.total then (s2.unpackContext site slot).ctxStatus site 3 slot 8
          else ((s2.modDie site fun d => d.modCtx slot fun c => { c with scyc := scyc }).writeArea (c2.words.getD 17 0).toNat site asid scyc 1 im).ctxStatus site 3 slot 0)

/-- CTX_CMD OP 4. -/
def execCtxRestore (site slot : Nat) (s : State) : Out :=
  let d := s.die site
  .next (match d.ctxs.get? slot with
    | none => s.ctxStatus site 4 slot 4
    | some c =>
      let asid := descAsid c.words
      if d.slotLocked slot then s.ctxStatus site 4 slot 5
      else if !c.saved || c.closing then s.ctxStatus site 4 slot 7
      else if !s.restoreOk site asid c then s.ctxStatus site 4 slot 8
      else ((s.unpackContext site slot).syncArea site asid).ctxStatus site 4 slot 0)

/-! ## Scrubbing (R426) -/

/-- R426 SCRUB_COMPLETE. -/
def execScrubComplete (item : ScrubItem) (s : State) : Out :=
  .next (match item with
    | .scratch core wgslot => s.modCore core fun k => { k with scrubScratch := k.scrubScratch.del wgslot }
    | .warpSlot core slot => s.modCore core fun k => { k with scrubSlots := k.scrubSlots.filter (· ≠ slot) }
    | .die site => s.modDie site fun d => { d with scrubbing := false })

/-- Firmware returns a core to service (R367, R393). -/
def execCoreReturnedToService (core : Nat) (s : State) : Out := .next (s.modCore core fun k => { k with inService := true })

/-! ## TDIs (R431) -/

def State.modVf (s : State) (site vf : Nat) (f : VFunc → VFunc) : State := s.modDie site fun d => { d with vfs := d.vfs.set vf (f (d.vfs.get {} vf)) }

/-- A TDI enters ERROR: its keys are discarded, the bound context is torn down on the die. -/
def State.tdiError (s : State) (site vf : Nat) : State :=
  let v := (s.die site).vfs.get {} vf
  let s1 := s.modVf site vf fun v => { v with tdi := .error, keys := [] }
  if v.bound && ((s.die site).ctxs.get? v.slot).isSome then
    (s1.teardown site v.slot).2
  else s1

/-- R431 LOCK_INTERFACE. -/
def execLockInterface (site vf : Nat) (s : State) : Out :=
  .next (if vf = 0 || 255 < vf || ((s.die site).vfs.get {} vf).tdi ≠ .unlocked then s else s.modVf site vf fun v => { v with tdi := .locked })
/-- R431 START_INTERFACE. -/
def execStartInterface (site vf : Nat) (s : State) : Out :=
  .next (if ((s.die site).vfs.get {} vf).tdi ≠ .locked then s else s.modVf site vf fun v => { v with tdi := .run })
/-- R431 STOP_INTERFACE. -/
def execStopInterface (site vf : Nat) (s : State) : Out :=
  .next (if ((s.die site).vfs.get {} vf).tdi = .unlocked then s else s.modVf site vf fun v => { v with tdi := .unlocked, keys := [] })
/-- R431: IDE_KM delivers one of a TDI's four keys, inside an SPDM session. -/
def execIdeKmKey (site vf key : Nat) (s : State) : Out :=
  .next (if s.pkg.sessions = 0 || vf = 0 || 255 < vf || 3 < key || ((s.die site).vfs.get {} vf).tdi = .error then s
    else s.modVf site vf fun v => { v with keys := if v.keys.contains key then v.keys else v.keys ++ [key] })

/-! ## Die reset (R394, R432) -/

/-- Device memory of the die keeps what its frames hold: lines of DIRTY tags revert. -/
def State.loseDirty (s : State) (site : Nat) : State :=
  (s.die site).tags.foldl (fun s t => match t.2.dirty with | some bs => s.setBytes (t.1 * 128) bs | none => s) s

/-- Accesses of other dies that waited at the die's homes raise DIE_RESET. -/
def State.refuseHomeOps (s : State) (site : Nat) : State :=
  let out := (s.die site).det.filter fun h => siteOf h.core ≠ site
  out.foldl (fun s h =>
    let key := wkey h.core h.slot
    let s1 := (h.log.toList ++ h.watch.map Prod.fst).foldl (fun s pa => s.filler (siteOf h.core) pa) s
    match s1.warps.get? key with
    | none => s1
    | some w =>
      if w.name ≠ h.owner || w.event.isSome then s1
      else
        let g := (w.threads.find? fun t => t.lane = h.lane).map Thread.grp
        let ls := (w.threads.filter fun t => t.live && some t.grp = g).map Thread.lane
        (s1.modWarp key fun w => { w with threads := w.threads.map fun t => if some t.grp = g then { t with home := none } else t }).raiseIn key
          { code := evDieReset, faddr := BitVec.ofNat 64 h.va } [h.lane] ls) s

/-- A DIE RESET (R394). -/
def State.resetDie (s : State) (site : Nat) : State :=
  let d := s.die site
  let asids := (d.ctxs.map fun c => descAsid c.2.words)
  -- step 1: every core of the die stops at once
  let s0 := s.dropHeld fun core e => siteOf core = site || (!e.pl.host && siteOfPa (e.pl.line * 128) = site)
  let ls := s0.launches.filter (s0.onDie site false)
  let s1 : State :=
    { s0 with
      issue := if s0.issue.any fun i => siteOf i.core = site then none else s0.issue
      warps := s0.warps.filter fun w => siteOf (w.1 / 16) ≠ site, wgs := s0.wgs.filter fun g => siteOf (g.1 / 16) ≠ site
      cores := s0.cores.filter fun c => siteOf c.1 ≠ site, clusters := s0.clusters.filter fun c => c.1 / 4 ≠ site }
  -- steps 2 and 3
  let s2 := (s1.refuseHomeOps site).loseDirty site
  let s3 := s2.setDie site { Die.reset site with resetAt := s.cycle, scrubbing := true, bootNo := d.bootNo, vfs := (List.range 255).map fun i => (i + 1, { tdi := .error }) }
  let s4 := ls.foldl (fun s l => s.cancelLaunch l.asid l.lseq evDieReset) s3
  -- step 4
  let hit := (asids ++ ls.map Launch.asid).foldl (fun (acc : List Nat) a => if acc.contains a then acc else acc ++ [a]) []
  let s5 := hit.foldl (fun s a => s.postAny a (fun i => i ≠ site) { rkind := 5, code := evDieReset }) s4
  let gone := asids.filter fun a => (s5.loadedOn a).isEmpty
  { s5 with
    infos := s5.infos.filter fun i => !gone.contains i.1
    modules := s5.modules.map fun m => if gone.contains m.asid then { m with asid := 0 } else m }

/-- R394 DIE_RESET. -/
def execDieReset (site : Nat) (s : State) : Out := .next (s.resetDie site)

/-- R394 DIE_ENABLE: the scrub is complete; firmware has configured the die as at boot (R427, R240), and a PLDM event is raised. -/
def execDieEnable (site : Nat) (s : State) : Out :=
  let d := s.die site
  .next (if d.enabled || d.scrubbing || s.pkg.safeMode then s
    else { s.setDie site { d with enabled := true, xbscfg := setField d.xbscfg 8 1 1, schedcfg := setField d.schedcfg 32 1 0 } with
           pkg := { s.pkg with pldm := .dieEnabled site :: s.pkg.pldm } })

/-- R432: FLR of a die's physical function. -/
def execFlrPf (site : Nat) (s : State) : Out := .next (s.resetDie site)

/-- R432: FLR of a virtual function. -/
def execFlrVf (site vf : Nat) (s : State) : Out :=
  let v := (s.die site).vfs.get {} vf
  let s1 := s.modVf site vf fun v => { v with tdi := if v.tdi = .locked || v.tdi = .run then .error else v.tdi, keys := [] }
  .next (if v.bound && ((s.die site).ctxs.get? v.slot).isSome then
      (s1.teardown site v.slot).2
    else s1)

end Sys2Proof.Machine
end

