-- ==== Sys2Proof/Machine/Translation.lean ====
section
/-! DEFINITION. Sys2Proof/Machine/Translation.lean: translation requests, the lapidary's service, the translation caches and the backing
store (R104-R114), and `tprf` (R138). What the lapidary is free to choose is log 9's; when it is done is any time (log 11). -/

namespace Sys2Proof.Machine

open Sys2Proof

/-! ## Units and regions -/

/-- The unit and region of a place of a warp. -/
def State.reqAt (s : State) (core : Nat) (w : Warp) (pc : PC) : XReq :=
  { unit := w.unitKey core pc.fsym, region := (s.planOf core w pc.fsym).region pc.pix }

/-- The unit and region of a bundle. -/
def State.bundleReq (s : State) (core : Nat) (w : Warp) (at_ : Nat × Nat) : XReq :=
  { unit := w.unitKey core at_.1, region := (s.unitOf core w at_.1).region at_.2 }

/-- The regions in which a thread's engines stand: one for each engine of a native group (R76), else that of its pc. -/
def State.threadReqs (s : State) (core : Nat) (w : Warp) (t : Thread) : List XReq :=
  if t.native then t.nat.at_.map fun p => s.bundleReq core w p.2 else [s.reqAt core w t.pc]

/-- The regions that the turn-holding group's next fetches need. -/
def State.needReqs (s : State) (core : Nat) (w : Warp) : List XReq := (w.active.head?.map (s.threadReqs core w)).getD []

/-- A region that the turn-holding group fetches next is in its cluster's translation cache (R20, R109). -/
def State.fetchable (s : State) (core : Nat) (w : Warp) : Bool := (s.needReqs core w).any (s.cluster (clusterOf core)).tc.contains

/-- Regions in which engines of the resident warps of a cluster stand (R111). -/
def State.standing (s : State) (cl : Nat) : List XReq :=
  ((s.warps.filter fun p => clusterOf (p.1 / 16) = cl).map fun p =>
    ((p.2.threads.filter Thread.live).map (s.threadReqs (p.1 / 16) p.2)).flatten).flatten

/-- The functions in which a thread stands: where it runs, its committed region, its callers, and what its handler interrupted. -/
def Thread.functions (t : Thread) : List Nat :=
  [t.pc.fsym, t.ck.pc.fsym] ++ t.nat.at_.map (fun p => p.2.1) ++ (t.stack ++ t.ck.stack).map (fun f => f.ret.fsym) ++
  (match t.handler with
   | some h => [h.pc.fsym, h.ck.pc.fsym] ++ (h.stack ++ h.ck.stack).map fun f => f.ret.fsym
   | none => [])

/-- Units in which a warp of the die stands, whether resident, halted or saved (R113). -/
def State.standingUnits (s : State) (site : Nat) : List UnitKey :=
  let d := s.die site
  let keys (core : Nat) (w : Warp) : List UnitKey := ((w.threads.filter Thread.live).map fun t => t.functions.map (w.unitKey core)).flatten.eraseDups
  let saved := d.resume ++ d.parked ++ (d.ctxs.map fun c => c.2.saveUnits).flatten
  ((s.warps.filter fun p => siteOf (p.1 / 16) = site).map fun p => keys (p.1 / 16) p.2).flatten ++
    (saved.map fun u => (u.members.map fun m => (m.warps.map (keys (site * 768))).flatten).flatten).flatten

/-! ## The translation cache (R111) -/

/-- Bytes of a region: its bundles, and the words of the constant pool that its entries name (R80, R82, R111). -/
def State.regionSize (s : State) (site : Nat) (r : XReq) : Nat :=
  let u := s.unitImg site r.unit
  32 * u.rlen r.region + 8 * ((u.entries (u.rfirst r.region)).filter fun e => e.kind = 7).length
def State.tcBytes (s : State) (site : Nat) (l : List XReq) : Nat := (l.map (s.regionSize site)).foldl (· + ·) 0

/-- Discard regions, least recently fetched first, those of the requesting context before others, until the rest fits. -/
def State.makeRoom (s : State) (site asid room : Nat) (stand : List XReq) : Nat → List XReq → List XReq
  | 0, l => l
  | k + 1, l =>
    if s.tcBytes site l ≤ room then l
    else
      let free := l.filter fun r => !stand.contains r
      match (free.find? fun r => r.unit.asid = asid).or free.head? with
      | none => l
      | some r => s.makeRoom site asid room stand k (l.filter (· ≠ r))

/-- A region enters the cache; the newest is last. Where no region may be discarded, it enters none the less (log 23). -/
def State.tcInsert (s : State) (cl : Nat) (r : XReq) : State :=
  let c := s.cluster cl
  let old := c.tc.filter (· ≠ r)
  s.setCluster cl { c with tc := s.makeRoom (cl / 4) r.unit.asid (6 * 2 ^ 20 - s.regionSize (cl / 4) r) (s.standing cl) old.length old ++ [r] }

/-! ## The backing store (R112, R113) -/

def Die.share (d : Die) : Nat :=
  let n := field d.xbscfg.toNat 0 6
  (if n = 0 || 32 < n then 4 else n) * 2 ^ 26

def storeUsed (us : List UnitImg) : Nat := (us.map UnitImg.bytes).foldl (· + ·) 0

def leastUnit : List UnitImg → Option UnitImg
  | [] => none
  | u :: us =>
    match leastUnit us with
    | none => some u
    | some v => if v.lru < u.lru then some v else some u

/-- TRANSLATION_EVICTED for a unit that leaves the store. -/
def State.noteEvicted (s : State) (site : Nat) (k : UnitKey) : State :=
  s.post site k.asid { rkind := 2, code := evTranslationEvicted, fsym := k.fsym, modid := s.modid k.modIdx
                       aux := (if k.w2e then 65536 else 0) + k.budget * 2 ^ 24 }

def State.dropUnit (s : State) (site : Nat) (k : UnitKey) : State :=
  (s.modDie site fun d => { d with units := d.units.filter fun u => u.key ≠ k }).noteEvicted site k

/-- Evict until `need` more bytes fit; none where every evictable unit is gone and it still does not. -/
def State.evictUnits (s : State) (site asid need : Nat) (stand : List UnitKey) : Nat → Option State
  | 0 => none
  | n + 1 =>
    let d := s.die site
    if storeUsed d.units + need ≤ d.share then some s
    else
      let free := d.units.filter fun u => !stand.contains u.key
      match (leastUnit (free.filter fun u => u.key.asid = asid)).or (leastUnit free) with
      | none => none
      | some u => (s.dropUnit site u.key).evictUnits site asid need stand n

/-! ## Requests (R108, R109) -/

/-- R108 TRANSLATION_DEMAND by a warp that cannot fetch: one for each region that it lacks. -/
def execTranslationDemand (core slot : Nat) (s : State) : Out :=
  .next (match s.warps.get? (wkey core slot) with
    | none => s
    | some w =>
      s.modCluster (clusterOf core) fun c =>
        { c with demands := (s.needReqs core w).foldl (fun l r =>
            if c.tc.contains r || l.contains r || c.fetching.contains r then l else l ++ [r]) c.demands })

/-- Another lapidary of the die is translating the unit. -/
def State.inTranslation (s : State) (site : Nat) (k : UnitKey) : Bool :=
  s.clusters.any fun c => c.1 / 4 = site && c.2.current.any fun r => r.unit = k

/-- R108 TRANSLATION_SERVE: a lapidary that works on nothing takes the oldest demand, else the oldest prefetch. A unit in the store is
fetched; one that another lapidary of the die translates is waited for, and then fetched. -/
def execTranslationServe (cl : Nat) (s : State) : Out :=
  let c := s.cluster cl
  let site := cl / 4
  let has (k : UnitKey) : Bool := ((s.die site).unit? k).isSome || s.inTranslation site k
  .next (if c.current.isSome then s
    else
      match c.demands with
      | r :: rs => s.setCluster cl
          (if has r.unit then { c with demands := rs, fetching := c.fetching ++ [r] } else { c with demands := rs, current := some r, done := [] })
      | [] =>
        match c.prefetch with
        | [] => s
        | k :: ks =>
          if has k || (verifyKernel (s.moduleWords k.modIdx) k.fsym).isSome then s.setCluster cl { c with prefetch := ks }
          else s.setCluster cl { c with prefetch := ks, current := some { unit := k }, done := [] })

/-- A unit that cannot be translated: every launch with a warp of the die that waits for it ends (R110). The record names the unit's function
and the index at which the lowest such thread stands (log 24). -/
def State.failUnit (s : State) (site : Nat) (k : UnitKey) : State :=
  (s.warps.filter fun p => siteOf (p.1 / 16) = site && (s.needReqs (p.1 / 16) p.2).any fun r => r.unit = k).foldl
    (fun s p => s.translationFault p.2.asid p.2.lseq evXlateLimit k.fsym ((p.2.active.head?.map fun t => t.pc.pix).getD 0) 0) s

/-- The region that a lapidary works on: of the unit's, the one demanded first, then the one asked for at the start, then the lowest not
done (R109; log 11). -/
def State.regionUnder (s : State) (c : Cluster) (r : XReq) : Nat :=
  match c.demands.find? fun d => d.unit = r.unit with
  | some d => d.region
  | none => if !c.done.contains r.region then r.region else ((List.range (s.keyPlan r.unit).nregion).find? fun n => !c.done.contains n).getD 0

/-- R109 TRANSLATION_COMPLETE: one more region of the unit is translated. A demanded one, and the first, enter the cache; the unit enters the
store when all of its regions are done. -/
def execTranslationComplete (cl : Nat) (s : State) : Out :=
  let c := s.cluster cl
  let site := cl / 4
  .next (match c.current with
    | none => s
    | some r =>
      let k := r.unit
      let idle (s : State) : State := s.modCluster cl fun c => { c with current := none, done := [] }
      if s.unitLimit site k then (idle s).failUnit site k
      else
        let n := s.regionUnder c r
        let x : XReq := { unit := k, region := n }
        let asked := c.demands.contains x || r = x
        let done := if c.done.contains n then c.done else n :: c.done
        let s1 := s.setCluster cl { c with demands := c.demands.filter (· ≠ x), done := done }
        let s2 := if asked then s1.tcInsert cl x else s1
        if done.length < (s.keyPlan k).nregion then s2
        else
          let u := (s.xin k.modIdx).unit k (s.modid k.modIdx)
          match (idle s2).evictUnits site k.asid u.bytes (s2.standingUnits site) ((s.die site).units.length + 1) with
          | none => (idle s2).failUnit site k
          | some s3 =>
            s3.modDie site fun d =>
              { d with units := d.units.filter (fun u => u.key ≠ k) ++
                         [{ u with lru := s.cycle, faulted := (d.badUnits.find? fun u => u.1 = k).map Prod.snd }]
                       badUnits := d.badUnits.filter fun u => u.1 ≠ k })

/-- R111 BACKING_STORE_FETCH: the oldest fetch of a cluster whose unit is in the store; one whose unit has left the store is demanded again. -/
def execBackingStoreFetch (cl : Nat) (s : State) : Out :=
  let c := s.cluster cl
  .next (match c.fetching.find? fun r => !s.inTranslation (cl / 4) r.unit with
    | none => s
    | some r =>
      let rs := c.fetching.filter (· ≠ r)
      match (s.die (cl / 4)).unit? r.unit with
      | none => s.setCluster cl { c with fetching := rs, demands := c.demands ++ [r] }
      | some u =>
        let s1 := (s.setCluster cl { c with fetching := rs }).modDie (cl / 4) fun d =>
          { d with units := d.units.map fun x => if x.key = u.key then { x with lru := s.cycle } else x }
        s1.tcInsert cl r)

/-- R112: a write of XBS_CFG. -/
def execXbsCfgWrite (site : Nat) (v : W64) (s : State) : Out :=
  .next (s.modDie site fun d => if d.xbscfg.getLsbD 8 then d else { d with xbscfg := v &&& 0x13F })

/-! ## tprf (R138) -/

/-- The cluster that serves a prefetch for a die kind. -/
def tprfCluster (cl : Nat) (w2e : Bool) : Nat :=
  if w2eSite (cl / 4) = w2e then cl else (if w2e then 1 else 0) * 4 + cl % 4

def tprfKinds (own : Bool) : TprfKind → List Bool
  | .own => [own]
  | .other => [!own]
  | .both => [own, !own]

def State.tprfOne (s : State) (cl : Nat) (asid modIdx fsym budget : Nat) (w2e : Bool) : State :=
  let t := tprfCluster cl w2e
  let k : UnitKey := { asid := asid, modIdx := modIdx, fsym := fsym, w2e := w2e, budget := if w2e then Nat.min budget 96 else budget }
  let c := s.cluster t
  if ((s.die (t / 4)).unit? k).isSome || s.inTranslation (t / 4) k || c.prefetch.contains k || 64 ≤ c.prefetch.length then s
  else s.setCluster t { c with prefetch := c.prefetch ++ [k] }

def State.tprfAll (s : State) (c : Cx) (target : Option (Nat × Nat)) (budget : Nat) (kinds : TprfKind) : State :=
  match target with
  | none => s
  | some (mi, f) => (tprfKinds (w2eCore c.iss.core) kinds).foldl (fun s w2e => s.tprfOne (clusterOf c.iss.core) c.w.asid mi f budget w2e) s

/-- R138 tprf of a symbol. -/
def execTprf (kinds : TprfKind) (sym : BitVec 29) (s : State) : Out :=
  withCx s fun c => (s.tprfAll c (some (c.w.modIdx, sym.toNat)) c.w.budget kinds).advance c c.w false

/-- R138 tprf of a kernel handle. -/
def execTprfHandle (kinds : TprfKind) (h : Opnd) (budget : Fin 16) (s : State) : Out :=
  withCx s fun c =>
    (s.tprfAll c (s.kernel? c.w.asid (c.rd32 c.lead h)) (8 * (budget.val + 1)) kinds).advance c c.w false

end Sys2Proof.Machine
end

