-- ==== Sys2Proof/Machine/Queues.lean ====
section
/-! DEFINITION. Sys2Proof/Machine/Queues.lean: host queues (R232-R236): registers, doorbells, reading of packets; acceptance from a
queue or the pending pool (R209, R224, R235), with firmware's queue control blocks (R434). -/

namespace Sys2Proof.Machine

open Sys2Proof

def State.queue (s : State) (site q : Nat) : HostQueue := (s.die site).hq.get {} q
def State.setQueue (s : State) (site q : Nat) (h : HostQueue) : State := s.modDie site fun d => { d with hq := d.hq.set q h }

/-- The TDI whose lock covers a queue of a context (R431). -/
def State.lockOf? (s : State) (site asid : Nat) : Option Nat :=
  ((s.die site).ctx? asid).bind fun c =>
    ((s.die site).vfs.find? fun v => v.2.bound && v.2.slot = c.1 && (v.2.tdi = .locked || v.2.tdi = .run)).map Prod.fst

/-- A queue error: STATE 2, and a host event record whose code and qualifier the manual does not state (log 12). -/
def State.queueError (s : State) (site q err : Nat) : State :=
  let h := s.queue site q
  let (v, s1) := s.free
  (s1.setQueue site q { h with state := 2, err := err, packet := none }).post site h.asid
    { rkind := 4, code := field v.toNat 0 8, qual := field v.toNat 8 16 }

/-- WIDX runs ahead of the ring (R233). -/
def HostQueue.ahead (h : HostQueue) : Bool := 2 ^ h.log2n < (h.widx - h.ridx).toNat

/-- A doorbell (R232, R233). -/
def State.doorbell (s : State) (site q : Nat) (v : W64) : State :=
  let h := { s.queue site q with widx := v.setWidth 32 }
  let s1 := s.setQueue site q h
  if h.en && h.state ≠ 2 && h.state ≠ 3 && h.ahead then s1.queueError site q 1 else s1

/-- The window of a virtual function onto a queue (R234). -/
def State.windowOpen (s : State) (site vf q : Nat) : Bool :=
  let v := (s.die site).vfs.get {} vf
  v.bound && (((s.die site).ctxs.get? v.slot).any fun c => descAsid c.words = (s.queue site q).asid)

/-- R232, R234 HQ_DOORBELL: a write of HQ_WIDX through a function's block. -/
def execHqDoorbell (site vf q : Nat) (widx : W64) (s : State) : Out :=
  .next (if 63 < q then s else if vf = 0 || s.windowOpen site vf q then s.doorbell site q widx else s)

/-- A write of HQ_CFG. -/
def State.writeHqCfg (s : State) (site q : Nat) (v : W64) : State :=
  let h := s.queue site q
  let en := v.getLsbD 31
  let lg := field v.toNat 16 5
  let asid := field v.toNat 32 16
  match s.lockOf? site h.asid with
  | some vf => s.tdiError site vf
  | none =>
    if h.en then (if en then s else s.setQueue site q { h with en := false, state := 0, err := 0 })
    else if en && ((s.die site).ctx? asid).isNone then s
    else s.setQueue site q { h with asid := asid, log2n := lg, pmax := field v.toNat 8 3, en := en && 4 ≤ lg && lg ≤ 16, state := 0, err := 0 }

/-- R232: a write of HQ_CFG that sets EN. -/
def execHqEnable (site q : Nat) (cfg : W64) (s : State) : Out := .next (if 63 < q then s else s.writeHqCfg site q (cfg ||| (1#64 <<< 31)))
/-- R232: a write of HQ_CFG that clears EN. -/
def execHqDisable (site q : Nat) (cfg : W64) (s : State) : Out := .next (if 63 < q then s else s.writeHqCfg site q (cfg &&& ~~~(1#64 <<< 31)))

/-- A write of HQ_BASE. -/
def State.writeHqBase (s : State) (site q : Nat) (v : W64) : State :=
  let h := s.queue site q
  match s.lockOf? site h.asid with
  | some vf => s.tdiError site vf
  | none => if h.en then s else s.setQueue site q { h with base := v &&& ~~~127#64 }

/-! ## Reading (R233, R236) -/

def State.readable (s : State) (site : Nat) (h : HostQueue) : Bool :=
  h.en && h.state ≠ 2 && h.state ≠ 3 && h.packet.isNone && h.ridx ≠ h.widx && ((s.die site).ctx? h.asid).any fun c => !c.2.saved

/-- The queue read next: highest PMAX, then round-robin among the queues of that PMAX from the one after the last read (R236). -/
def State.nextQueue (s : State) (site : Nat) : Option Nat :=
  let ready := (List.range 64).filter fun q => s.readable site (s.queue site q)
  let top := (ready.map fun q => (s.queue site q).pmax).foldl Nat.max 0
  ((List.range 64).map fun i => ((s.die site).hqNext.get 0 top + i) % 64).find? fun q => ready.contains q && (s.queue site q).pmax = top

/-- R233 PACKET_READ. -/
def execPacketRead (site : Nat) (s : State) : Out :=
  .next (match s.nextQueue site with
    | none => s
    | some q =>
      let h := s.queue site q
      if h.ahead then s.queueError site q 1
      else
        let va := h.base.toNat + 128 * (h.ridx.toNat % 2 ^ h.log2n)
        match s.readVa site h.asid va 128 with
        | none => s.queueError site q 2
        | some bs =>
          let ws := (List.range 16).map fun i => BitVec.ofNat 64 (leNat ((bs.drop (8 * i)).take 8))
          let s1 := s.readMarks site h.asid va
          (s1.setQueue site q { h with packet := some ws, readNo := (s.die site).hqReads }).modDie site fun d =>
            { d with hqNext := d.hqNext.set h.pmax ((q + 1) % 64), hqReads := d.hqReads + 1 })

/-- The queues of a die that hold a packet, in the order in which they were read: highest PMAX first, then the earlier read (R236). -/
def insertQueue (x : Nat × HostQueue) : List (Nat × HostQueue) → List (Nat × HostQueue)
  | [] => [x]
  | y :: ys => if y.2.pmax < x.2.pmax || (y.2.pmax = x.2.pmax && x.2.readNo ≤ y.2.readNo) then x :: y :: ys else y :: insertQueue x ys

def Die.packetOrder (d : Die) : List Nat := ((d.hq.filter fun q => q.2.packet.isSome).foldr insertQueue []).map Prod.fst

/-! ## Acceptance (R209, R224, R235) -/

/-- Firmware commits a queue's control block before the packet starts (R434). -/
def Die.commitCtl (d : Die) (q : Nat) : Die :=
  let c := d.qctl.get {} q
  { d with qctl := d.qctl.set q { seq := c.seq + 2, image := c.seq + 2 } }

/-- The packet of a queue starts: RIDX counts it. -/
def State.packetStarted (s : State) (site q : Nat) (lseq : Option Nat) : State :=
  let h := s.queue site q
  (s.setQueue site q { h with packet := none, ridx := h.ridx + 1, live := h.live ++ lseq.toList }).modDie site fun d => d.commitCtl q

/-- Acceptance from a queue. -/
def State.acceptQueue (s : State) (site q : Nat) : State :=
  let h := s.queue site q
  match h.packet with
  | none => s
  | some r =>
    if h.state = 3 || s.ctxStopped site h.asid || (s.info h.asid).snapPending.isSome || (recFlag r 53 && !h.live.isEmpty) || 256 ≤ h.live.length then s
    else
      match s.launchReason site h.asid r false true with
      | 0 =>
        match s.acceptLaunch site h.asid r (Nat.min (recPrio r) h.pmax) (some (site, q)) none none with
        | none => s
        | some s1 =>
          if s.launches.length < s1.launches.length then s1.packetStarted site q (s1.launches[s.launches.length]?.map Launch.lseq) else s1
      | reason => (s.rejectLaunch h.asid r reason).packetStarted site q none

/-- A pool entry is rejected: it completes at once. -/
def State.rejectPool (s : State) (site : Nat) (e : PoolEntry) (reason : Nat) : State :=
  let s1 := s.rejectLaunch e.asid e.record reason
  s1.dropPool site fun x => x.order = e.order

/-- Try one pool entry: none where it waits. -/
def State.acceptPoolOne (s : State) (site : Nat) (e : PoolEntry) : Option State :=
  match s.launchReason site e.asid e.record true true with
  | 0 =>
    (s.acceptLaunch site e.asid e.record e.prio none (some (site, e.order)) e.parent).map fun s1 =>
      match s1.launches[s.launches.length]? with
      | none => s1
      | some l => s1.modDie site fun d => { d with pool := d.pool.map fun x => if x.order = e.order then { x with accepted := some l.lseq } else x }
  | reason => some (s.rejectPool site e reason)

/-- The first entry of each priority, highest first. -/
def poolHeads (es : List PoolEntry) : List PoolEntry :=
  ([7, 6, 5, 4, 3, 2, 1, 0].filterMap fun p => es.find? fun e => e.prio = p)

/-- R209 LAUNCH_ACCEPT: the head packet of a queue, or the next child of the pool. -/
def execLaunchAccept (site : Nat) (src : Option Nat) (s : State) : Out :=
  .next (match src with
    | some q => s.acceptQueue site q
    | none =>
      let es := (s.die site).pool.filter fun e => e.accepted.isNone && !s.ctxStopped site e.asid
      ((poolHeads es).findSome? (s.acceptPoolOne site)).getD s)

end Sys2Proof.Machine
end

