-- ==== Sys2Proof/Machine/Sched.lean ====
section
/-! DEFINITION. Sys2Proof/Machine/Sched.lean: the schedulers of a core: readiness and choice (R243), the parameter block at a workgroup's
first issue (R35), sample tags (R413), firmware credits (R244), the fairness timer (R182), the ends of `sleep` and `flagw` (R201,
R202). -/

namespace Sys2Proof.Machine

open Sys2Proof

/-! ## Parameters (R35) -/

/-- The block cannot be read: every warp of the workgroup stops precisely at the kernel's entry, or waits there as a page fault; a retry starts
the workgroup again from there. -/
def State.blockFault (s : State) (core gk a : Nat) (f : XFault) : State :=
  let g := s.wg gk
  let ksym := s.wgKsym g
  let entry (w : Warp) : Warp :=
    { w with threads := w.threads.map fun t => if t.live then ({ t with ck := { pc := { fsym := ksym, pix := 0 } }, handler := none } : Thread).restart else t }
  let s1 := s.modWg gk fun g => { g with params := [] }
  (s1.wgWarps gk).foldl (fun s p =>
    let all := (p.2.threads.filter Thread.live).map Thread.lane
    let s2 := s.modWarp p.1 fun w => (entry w).restart s.cycle
    if f.queue && s.dpage (siteOf core) g.asid then
      s2.modWarp p.1 (Warp.waitPage s.cycle (a / 65536) f.kind (BitVec.ofNat 64 a) .param (fun _ => true) fun _ => true)
    else s2.raiseIn p.1 { code := f.code, qual := spaceCode .param * 4 + f.kind, faddr := BitVec.ofNat 64 a } all all) s1

/-- THE PARAMETER BLOCK IS READ before the first instruction of a workgroup that starts or restarts: at the start its values are every thread's
first values, which they stay for the workgroup's life. -/
def State.readBlock (s : State) (core gk : Nat) : State :=
  let g := s.wg gk
  let tys := s.kernelParams g.modIdx (s.wgKsym g)
  let n := s.paramBytes g
  let base := ((s.launch? g.asid g.lseq).map fun l => recW l.record 7).getD 0
  let s1 := (s.walkIfMissed core g.asid false base false).walkIfMissed core g.asid false (base + n - 1) false
  match s1.readParams core g.asid base n 0 [] with
  | .error (a, f) => s1.blockFault core gk a f
  | .ok bs =>
    let s2 := s1.paramReads core g.asid base n
    if n ≤ g.params.length then s2.modWg gk fun g => { g with blockRead := true }
    else
      let vals := paramVals tys bs
      (s2.wgWarps gk).foldl (fun s p => s.modWarp p.1 fun w =>
        { w with threads := w.threads.map fun t => { t with vals := vals, ck := { t.ck with vals := vals } } })
        (s2.modWg gk fun g => { g with params := bs, blockRead := true })

/-! ## Readiness -/

/-- An instruction of the turn-holding group is to be completed. -/
def Warp.midAccess (w : Warp) : Bool := w.active.any Thread.midEffect

/-- The warp is to stop: an event, a pre-emption, a parking, a restart that waits, a logged pre-emption. -/
def State.stopping (s : State) (core : Nat) (w : Warp) : Bool :=
  let g := s.wg w.wg
  w.event.isSome || g.stop.isSome || g.parking || w.pendingRestart.isSome || s.replayHeld (siteOf core) w

/-- The turn as the scheduler finds it: a group that cannot issue gives it up (R181), and in a warp that is to stop the group that has to go on
first holds it. -/
def State.readyTurn (s : State) (core : Nat) (w : Warp) : Warp :=
  let w1 := w.fixTurn s.cycle
  if s.stopping core w then
    match w1.lastGroup with
    | some g => if g = w1.turn then w1 else w1.giveTurn s.cycle g
    | none => w1
  else w1

/-- Whether a warp may issue at all. -/
def State.mayIssue (s : State) (core : Nat) (w : Warp) : Bool :=
  let g := s.wg w.wg
  (s.die (siteOf core)).enabled && (!w.chk || w.lastIssue + 4 ≤ s.cycle) && !w.framed && g.dumping.isNone && !w.pageWaits &&
  (!s.stopping core w || w.lastGroup = some w.turn) && w.ready w.turn && s.fetchable core w

/-- The warps of a scheduler (R242). -/
def State.schedWarps (s : State) (core sch : Nat) : List (Nat × Warp) := s.warps.filter fun p => p.1 / 16 = core && p.1 % 4 = sch % 4

/-- R243's order: the first of two goes before the second. -/
def State.goesFirst (s : State) (cyc : Nat) (a b : Nat × Warp) : Bool :=
  let starved (w : Warp) : Bool := w.lastIssue + cyc ≤ s.cycle
  let ga := s.wg a.2.wg
  let gb := s.wg b.2.wg
  let pa := ga.prio
  let pb := gb.prio
  if starved a.2 != starved b.2 then starved a.2
  else if starved a.2 && a.2.lastIssue ≠ b.2.lastIssue then a.2.lastIssue < b.2.lastIssue
  else if pa ≠ pb then pb < pa
  else if ga.start ≠ gb.start then ga.start < gb.start
  else if a.2.tidx ≠ b.2.tidx then a.2.tidx < b.2.tidx
  else a.2.widx ≤ b.2.widx

def pickWarp (first : Nat × Warp → Nat × Warp → Bool) : List (Nat × Warp) → Option (Nat × Warp)
  | [] => none
  | w :: ws =>
    match pickWarp first ws with
    | none => some w
    | some v => if first w v then some w else some v

def fairCyc (k : Core) : Nat := Nat.max 64 (field k.fairt.toNat 0 16)

/-! ## Sample tags (R413, R414) -/

def Die.sampling (d : Die) : Bool := d.smpMode = 1 && d.smpCtl.getLsbD 4

/-- The tag counts an issue, and takes one of the owning context's; `eng` is the native engine's tag, 0 for a portable issue, whose slot is of an
engine that accepts its opcode (R71, R413). -/
def State.countSample (s : State) (core slot : Nat) (w : Warp) (eng : Nat) : State :=
  let site := siteOf core
  let d := s.die site
  let k := s.core core
  let i := slot % 4
  let tag := k.samples.getD i {}
  let take : SampleTag :=
    let t := w.active.headD { lane := 0 }
    let eng := if eng ≠ 0 then eng else Warp.engAt (s.moduleWords w.modIdx) t.pc (field (Config.freeValue s.freeCtr).toNat 0 3)
    { busy := true, slot := slot, lseq := w.lseq, tidx := w.tidx, widx := w.widx, fsym := t.pc.fsym, pix := t.pc.pix, eng := eng, lane := t.lane }
  let put (t : SampleTag) : State := { s.setCore core { k with samples := k.samples.set i t } with freeCtr := s.freeCtr + 1 }
  let mine := w.asid = d.smpAsid
  if tag.busy then (if w.sampleNow then s.modWarp (wkey core slot) fun w => { w with sampleNow := false } else s)
  else if w.sampleNow then (put take).modWarp (wkey core slot) fun w => { w with sampleNow := false }
  else if !d.sampling then s
  else
    match tag.due with
    | none => s
    | some n => if 1 < n then put { tag with due := some (n - 1) } else if mine && w.sample then put take else put { tag with due := some 0 }

/-! ## Issue (R243) -/

/-- A trap is pending on the core: firmware has a bundle ready, and only then (R17, R244; log 27). -/
def State.trapPending (s : State) (core : Nat) : Bool :=
  s.warps.any fun p => p.1 / 16 = core && (p.2.event.isSome || p.2.framed)

/-- The credits that a scheduler has, with the cycle to which they are counted: one for each 2^LOG2 cycles, at most 16 (R244). -/
def State.creditsOf (s : State) (core sch : Nat) : Nat × Nat :=
  let k := s.core core
  let i := sch % 4
  let per := 2 ^ Nat.min 8 (Nat.max 2 (field k.fwshare.toNat 0 4))
  let from_ := Nat.max (k.creditAt.getD i 0) (s.die (siteOf core)).resetAt
  let n := (s.cycle - from_) / per
  (Nat.min 16 (k.credits.getD i 0 + n), from_ + n * per)

/-- A scheduler's credits are brought up to date. -/
def State.settleCredits (s : State) (core sch : Nat) : State :=
  let c := s.creditsOf core sch
  if c = ((s.core core).credits.getD (sch % 4) 0, (s.core core).creditAt.getD (sch % 4) 0) then s
  else s.modCore core fun k => { k with credits := k.credits.set (sch % 4) c.1, creditAt := k.creditAt.set (sch % 4) c.2 }

/-- A firmware bundle takes the slot of a warp bundle for one credit (R244). -/
def State.fwTakes (s : State) (core sch : Nat) : Bool := s.trapPending core && 0 < (s.creditsOf core sch).1

/-- The scheduler has issued in this cycle (R243). -/
def State.noteIssue (s : State) (core sch : Nat) : State :=
  s.modCore core fun k => { k with issuedAt := k.issuedAt.set (sch % 4) (some s.cycle) }
def State.hasIssued (s : State) (core sch : Nat) : Bool := (s.core core).issuedAt.getD (sch % 4) none = some s.cycle

def State.spendCredit (s : State) (core sch : Nat) : State :=
  ((s.settleCredits core sch).modCore core fun k => { k with credits := k.credits.set (sch % 4) (k.credits.getD (sch % 4) 0 - 1) }).noteIssue core sch

/-- R244 FIRMWARE_CREDIT: one credit each 2^LOG2 cycles, at most 16. -/
def execFirmwareCredit (core sch : Nat) (s : State) : Out := .next (s.settleCredits core sch)

/-- The interval of the turn under way: FAIRT as it stood when the turn began (R182). -/
def State.turnCyc (s : State) (core : Nat) (w : Warp) : Nat := fairCyc { s.core core with fairt := w.fairPin.getD (s.core core).fairt }

/-- R182 FAIRNESS_TIMER_EXPIRY: the turn ends while another group is ready, an access that waits at its home and a stall included (R181); a
checkpoint run, whose PREG and PV belong to the warp slot, is let end first (log 26). -/
def execFairnessTimerExpiry (core slot : Nat) (s : State) : Out :=
  .next (match s.warps.get? (wkey core slot) with
    | none => s
    | some w =>
      let nofair := (s.launch? w.asid w.lseq).any fun l => l.flag 50
      let other := w.groups.any fun g => g ≠ w.turn && w.ready g
      if nofair || !other || w.active.isEmpty || (w.active.any fun t => t.halted) || w.native.pv ||
          s.stopping core w || w.framed || s.cycle < w.turnStart + s.turnCyc core w then s
      else s.setWarp (wkey core slot) (w.endTurn s.cycle))

/-- R201 SLEEP_WAKE. -/
def execSleepWake (core slot : Nat) (s : State) : Out :=
  let up (t : Thread) : Bool := match t.wait with | .sleep u => u ≤ s.cycle | _ => false
  .next (s.modWarp (wkey core slot) fun w => if w.threads.any fun t => t.live && up t then w.freeLanes s.cycle up else w)

/-! ## flagw (R202) -/

def Thread.atFlag (t : Thread) : Bool := match t.wait with | .flag .. => true | _ => false

/-- Poll one waiting group. -/
def State.repollGroup (s : State) (core slot g : Nat) : State :=
  match s.warps.get? (wkey core slot) with
  | none => s
  | some w =>
    let ts := w.threads.filter fun t => t.live && t.grp = g && t.atFlag
    match ts.head? with
    | none => s
    | some t0 =>
      match t0.wait with
      | .flag _ iss (.flagw ty cond sgn addr v) =>
        let c : Cx := s.cxFor iss w
        (match s.pollPublish c (s.pollLines c ty addr ts) with
         | .error _ => s
         | .ok s1 => (s1.pollAll c ty cond sgn addr v ts).flagDone c ty (ts.map Thread.lane))
      | _ => s

/-- R202 FLAGW_REPOLL. -/
def execFlagwRepoll (core slot : Nat) (s : State) : Out :=
  .next (match s.warps.get? (wkey core slot) with
    | none => s
    | some w => if w.event.isSome || w.framed || (s.wg w.wg).stop.isSome then s else w.groups.foldl (fun s g => s.repollGroup core slot g) s)

end Sys2Proof.Machine
end

