-- ==== Sys2Proof/Machine/Native.lean ====
section
/-! DEFINITION. Sys2Proof/Machine/Native.lean: the native-only operations (R75), checkpoint frames (R124-R126, R128), spill slots
(R130, R131, R441), the rotating window (R73) and the L-to-M queues. -/

namespace Sys2Proof.Machine

open Sys2Proof

/-! ## Checkpoint frames -/

/-- The number of the `.region idem` whose head an instruction is (R49). -/
def idemHead (ws : List W32) (pc : PC) : Option Nat :=
  match moduleFunc ws pc.fsym with
  | none => none
  | some f =>
    match blockAt f.blocks pc.pix with
    | some (i, b) => if b.rh && b.pix = pc.pix then idemOf f.blocks i else none
    | none => none

/-- THE FRAME COMMITS (R126.3): written slots change bank, RBC follows the run, and the committed head, which CREG names, is the run's region's. -/
def Cx.frameCommit (c : Cx) (cycle fsym : Nat) (w : Warp) : Warp :=
  let nt := w.native
  let p := c.plan fsym
  let head : PC := { fsym := fsym, pix := p.rpix nt.preg }
  let one (t : Thread) : Thread :=
    let t1 : Thread := { t with bank := t.bank ^^^ nt.pend, rbc := nt.rbp, nat := { t.nat with ended := false } }
    let vals := p.lift nt.preg nt.slots t1
    let ck : Ckpt := { pc := head, vals := vals, stack := t.stack, sb := t.sb, detN := t.detN, redN := t.redN }
    { t1 with vals := vals, ck := ck, idem := match idemHead c.ws head with | some r => some (r, ck) | none => t.idem }
  { w.mapActive one with native := { nt with pend := 0, pv := false }, ccnt := w.ccnt + 1, hangBase := cycle, regErr := false }

/-- The function in which an engine of the issued group stands. -/
def Cx.engFunc (c : Cx) (e : Eng) : Nat := ((c.lead.nat.at_.get? e.tag).map Prod.fst).getD c.lead.pc.fsym

/-- R75 rgn: the checkpoint run of a region begins; an empty run commits at once (R126). -/
def execRgn (region : BitVec 16) (s : State) : Out :=
  withCx s fun c =>
    let w1 : Warp := { c.w.mapActive fun t => { t with nat := { t.nat with six := [] } } with
      native := { c.w.native with preg := region.toNat, pv := true } }
    let run := ((c.lead.nat.at_.get? Eng.S.tag).bind (s.bundleAt c.iss.core c.w)).any bundleC
    s.advance c (if run then w1 else c.frameCommit s.cycle (c.engFunc .S) w1) false

/-- R75 ckst: a lane's value in the bank that is not committed, or RBASE and the window. -/
def execCkst (src : NReg) (slot : Fin 16) (rbase : Bool) (s : State) : Out :=
  withCx s fun c =>
    let nt := c.w.native
    let nt1 : Native :=
      if rbase then { nt with rbp := nt.rbase, ckWb := nt.wb, ckWn := nt.wn, ckWv := nt.wv }
      else
        { nt with
          pend := nt.pend ||| (1#16 <<< slot.val)
          slots := c.active.foldl (fun (m : Tbl Val) t =>
            m.set (slotKey (!t.bank.getLsbD slot.val) slot.val t.lane) (c.w.readReg t.lane 0 32 src)) nt.slots }
    s.advance c { c.w with native := nt1 } false

/-- Load a checkpoint slot's committed bank into a register, in the given threads. -/
def Warp.loadSlot (dst : NReg) (slot : Nat) (ts : List Thread) (w : Warp) : Warp :=
  ts.foldl (fun w t => w.writeReg t.lane 32 (w.native.slots.get {} (slotKey (t.bank.getLsbD slot) slot t.lane)) dst) w

/-- RBASE and the window as committed (R128). -/
def Warp.loadWindow (t : Thread) (w : Warp) : Warp :=
  { w with native := { w.native with rbase := t.rbc, wb := w.native.ckWb, wn := w.native.ckWn, wv := w.native.ckWv } }

/-- R75 ckld. -/
def execCkld (dst : NReg) (slot : Fin 16) (rbase : Bool) (s : State) : Out :=
  withCx s fun c => s.advance c (if rbase then c.w.loadWindow c.lead else c.w.loadSlot dst slot.val c.active) false

/-- THE RESTART SEQUENCE of a group (R128): RBASE and the window, and `ckld` for each location entry of kind 6 of the region, into the place
that Locate gives for the value at the head (R83); of a wide value, its second slot into the register that follows. -/
def Warp.restoreLiveIns (u : UnitImg) (p : Plan) (r : Nat) (w : Warp) : Warp :=
  match w.active.head? with
  | none => w
  | some t =>
    let es := u.entries (u.rfirst r)
    es.foldl (fun w e =>
      if e.kind = 6 then
        (match (locate es (fun _ => 0) e.v).bind LocEntry.spec? with
         | some d =>
           let w1 := w.loadSlot d e.loc w.active
           if p.width e.v = 2 then w1.loadSlot (nextReg d) (e.loc + 1) w1.active else w1
         | none => w)
      else w) (w.loadWindow t)

/-! ## Spill slots -/

/-- The spill slot that a thread names (R441), and the address of its four bytes (R131). -/
def spillIdx (t : Thread) (j : Nat) : Nat := t.sb + j
def State.spillAddr (s : State) (c : Cx) (j : Nat) (t : Thread) : Nat :=
  (s.spillBase c.iss.core c.iss.slot c.w.asid + spillIdx t j * 512 + t.lane * 4) % 2 ^ 64

/-- The events of a spill access. -/
def State.spillEvents (s : State) (c : Cx) (j : Nat) (write : Bool) (t : Thread) : List MemEv :=
  c.events s t false { space := .global, addr := s.spillAddr c j t, n := 4, align := 4, read := !write, write := write }

/-- Where the spill accesses of some threads lead, once their checks have passed. -/
def State.spillPlace (s : State) (c : Cx) (j : Nat) (write : Bool) (t : Thread) : Option Xlat :=
  match s.place c.iss.core c.w.asid c.w.wg .global (s.spillAddr c j t) 4 write with
  | .ok (.mem x) => some x
  | _ => none

/-- A STORE TO A SPILL SLOT of some threads' 32 bits, tags beside them (R130); `fin` ends the issue. It is made at the home at once: R325 holds
the ordinary stores `st` and `cctl.zero` alone (DEDUCED, log 42). -/
def State.spillStore (s : State) (c : Cx) (j : Nat) (vs : List (Thread × Val)) (fin : Cx → State → State) : State :=
  let at_ (t : Thread) : Option Val := (vs.find? fun x => x.1.lane = t.lane).map Prod.snd
  let note (t : Thread) : Thread := match (if t.live then at_ t else none) with | some v => { t with spilled := t.spilled.set (spillIdx t j) v } | none => t
  let tags := vs.foldl (fun (m : Tbl (BitVec 6)) x => m.set (spillIdx x.1 j * 128 + x.1.lane) x.2.tag) c.w.native.spillTags
  let c1 : Cx := { c with w := { c.w with threads := c.w.threads.map note, native := { c.w.native with spillTags := tags } } }
  let ts := vs.map Prod.fst
  let s1 := s.walks c.iss.core c.w.asid (ts.map fun t => (.global, s.spillAddr c j t, true))
  s1.memCheck c ts .global (s1.spillEvents c j true)
    (fin c1 ((vs.filterMap fun x => (s1.spillPlace c j true x.1).map fun pl => (pl, leBytes 4 x.2.bits.toNat)).foldl
      (fun s2 (x : Xlat × List Byte) => s2.homeWrite x.2 (.mem x.1)) s1))

/-- R75 vsp. -/
def execVsp (src : NReg) (j : BitVec 16) (s : State) : Out :=
  withCx s fun c =>
    s.spillStore c j.toNat (c.active.map fun t => (t, (c.w.readReg t.lane 0 32 src).half false))
      fun c1 s2 => s2.advance c1 (c1.w.mapActive Thread.useExempt) false

/-- R75 vfl: the register's lanes, read at the home (log 42) and written at completion (R134). -/
def execVfl (dst : NReg) (j : BitVec 16) (s : State) : Out :=
  let _ := dst
  withCx s fun c =>
    let a (t : Thread) : Nat := s.spillAddr c j.toNat t
    let s1 := s.walks c.iss.core c.w.asid (c.active.map fun t => (.global, a t, false))
    s1.memCheck c c.active .global (s1.spillEvents c j.toNat false)
      (let pls := c.active.filterMap (s1.spillPlace c j.toNat false)
       let got (t : Thread) : Nat × Val × Nat :=
         (t.lane, { bits := ((s1.spillPlace c j.toNat false t).map fun x => leVal (s1.homeBytes c 4 (.mem x))).getD 0
                    tag := c.w.native.spillTags.get 0 (spillIdx t j.toNat * 128 + t.lane) }, 32)
       (pls.foldl (fun s2 x => s2.homeRead (lineOf x.pa) x.dom x.nc) s1).advance c { c.w with native := { c.w.native with landing := c.active.map got } } false)

/-- A spilled value that a group of threads has defined and not yet stored: a slot, and what each thread stores there (R129, R130, R441). -/
def Cx.spillDue (c : Cx) : Option (Nat × List (Thread × Val)) :=
  match c.active.head? with
  | none => none
  | some t0 =>
    let p := c.plan t0.pc.fsym
    let slots := (p.spill.map fun vj => (vj.1, vj.2, false) :: (if p.width vj.1 = 2 then [(vj.1, vj.2 + 1, true)] else [])).flatten
    slots.findSome? fun (v, j, hi) =>
      let vs := c.active.filterMap fun t =>
        match t.vals.get? v with
        | some x => if t.spilled.get? (spillIdx t j) = some (x.half hi) then none else some (t, x.half hi)
        | none => none
      if vs.isEmpty then none else some (j, vs)

/-- THE SPILL STORE of a group that runs by its portable instructions: as the unit's `vsp` after the definition does it, it takes the issue and
leaves the group where it stands (R106, R129). -/
def State.spillTurn (s : State) (c : Cx) (j : Nat) (vs : List (Thread × Val)) : State :=
  s.spillStore c j vs fun c1 s2 => { s2.setWarp c1.key c1.w with issue := none }

/-! ## The rotating window, waits and moves -/

/-- R75 rot. -/
def execRotWindow (vb : Fin 128) (n : Fin 64) (s : State) : Out :=
  withCx s fun c =>
    let nt := c.w.native
    s.advance c { c.w with native := { nt with wb := vb.val, wn := n.val, wv := true, rbase := (nt.rbase + 1) % (n.val + 1) } } false

/-- Operations of a warp under way in a class of `waitc` (R75): loads and fills, stores not yet held, copies, tile operations. -/
def State.outstandingOf (s : State) (c : Cx) (cls : Nat) : Nat :=
  let k := s.core c.iss.core
  match cls with
  | 0 => c.w.native.outstanding.length
  | 1 => (c.active.filter fun t => t.home ≠ none).length
  | 2 => (k.jobs.filter fun j => j.owner = c.w.name).length
  | _ => (k.tileOps.filter fun o => o.slot = c.iss.slot && o.wg = c.w.wg).length

/-- R75 waitc. -/
def execWaitc (eng : Eng) (cls : Fin 4) (count : BitVec 8) (s : State) : Out :=
  let _ := eng
  withCx s fun c => if s.outstandingOf c cls.val ≤ count.toNat then s.advance c c.w false else s.stall

/-- A register copied, with its format tag. -/
def Cx.copyReg (c : Cx) (dst src : NReg) : Warp :=
  c.active.foldl (fun w t => w.writeReg t.lane 32 (w.readReg t.lane 0 32 src) dst) c.w

/-- R75 mvw. -/
def execMvw (dst src : NReg) (s : State) : Out := withCx s fun c => s.advance c (c.copyReg dst src) false
/-- R75 mvz. -/
def execMvz (dst src : NReg) (s : State) : Out := withCx s fun c => s.advance c (c.copyReg dst src) false

/-! ## The queues from L to M -/

/-- R75 qpsh: one entry, the group's lanes of the register. -/
def execQpsh (src : NReg) (scale : Bool) (s : State) : Out :=
  withCx s fun c =>
    let e := [c.active.map fun t => (t.lane, c.w.readReg t.lane 0 32 src)]
    let nt := c.w.native
    let nt1 : Native := if scale then { nt with qScale := nt.qScale ++ e } else { nt with qTile := nt.qTile ++ e }
    s.advance c { c.w with native := nt1 } false

/-- R75 qpop: waits while the queue is empty. -/
def execQpop (dst : NReg) (scale : Bool) (s : State) : Out :=
  withCx s fun c =>
    let nt := c.w.native
    match if scale then nt.qScale else nt.qTile with
    | [] => s.stall
    | e :: r =>
      let nt1 : Native := if scale then { nt with qScale := r } else { nt with qTile := r }
      s.advance c (e.foldl (fun (w : Warp) p => w.writeReg p.1 32 p.2 dst) { c.w with native := nt1 }) false

end Sys2Proof.Machine
end

