-- ==== Sys2Proof/Machine/Sampler.lean ====
section
/-! DEFINITION. Sys2Proof/Machine/Sampler.lean: the Sampler's registers and arming (R400, R401), tagged samples (R413, R414), `clock`
and `logm` (R415-R417), `watch` and `unwatch` (R418). -/

namespace Sys2Proof.Machine

open Sys2Proof

/-! ## Registers -/

/-- MODE of a value written: 3 is taken as 0. -/
def smpModeOf (v : W64) : Nat := field v.toNat 0 2 % 3

/-- MODE as SMP_CTL reads. -/
def Die.smpModeRead (d : Die) : Nat := smpModeOf d.smpCtl

/-- ARMING (R401): HEAD, DIV, END, STALL, DROP, the slice counters and the replay count start again; it fails where the buffer is
empty or not the die's own. -/
def Die.armSampler (d : Die) (site mode : Nat) : Die :=
  if d.smpLimitPa ≤ d.smpBasePa || !deviceByte d.smpBasePa || siteOfPa d.smpBasePa ≠ site then d
  else
    { d with
      smpHead := setField d.smpHead 5 52 (d.smpBasePa / 32), smpCtl := setField (setField d.smpCtl 6 2 0) 0 2 mode, smpDrop := 0
      smpStall := none, smpUsed := [], smpOut := [], smpOff := false, sliceSeq := [] }

/-- A write of SMP_CTL. -/
def Die.writeSmpCtl (d : Die) (site : Nat) (v : W64) : Die :=
  let off := d.smpModeRead = 0
  let c1 := if v.getLsbD 7 then setField d.smpCtl 7 1 0 else d.smpCtl
  let c2 := if v.getLsbD 6 then setField c1 6 1 0 else c1
  let c3 := setField c2 4 1 (if v.getLsbD 4 then 1 else 0)
  let c4 := if off then setField c3 32 16 (field v.toNat 32 16) else c3
  let d1 := { d with smpCtl := c4 }
  if off then (if smpModeOf v = 0 then d1 else d1.armSampler site (smpModeOf v))
  else if smpModeOf v ≠ 0 then d1
  else if d1.smpOut.isEmpty then { d1 with smpCtl := setField d1.smpCtl 0 2 0, smpStall := none }
  else { d1 with smpOff := true, smpStall := none }

/-- A write of SMP_LIMIT: only upwards while MODE is not 0, and never above BASE + 64 MiB. -/
def Die.writeSmpLimit (d : Die) (v : W64) : Die :=
  let x := Nat.min (field v.toNat 5 52 * 32) (d.smpBasePa + 2 ^ 26)
  if d.smpModeRead ≠ 0 && x ≤ d.smpLimitPa then d else { d with smpLimit := BitVec.ofNat 64 (x / 32 * 32) }

def keep57 (v : W64) : W64 := BitVec.ofNat 64 (field v.toNat 5 52 * 32)

/-- R401 SMP_ARM. -/
def execSmpArm (site : Nat) (ctl : W64) (s : State) : Out :=
  .next (if smpModeOf ctl = 0 then s else s.modDie site fun d => d.writeSmpCtl site ctl)

/-- R401 SMP_DISARM. -/
def execSmpDisarm (site : Nat) (ctl : W64) (s : State) : Out :=
  .next (if smpModeOf ctl ≠ 0 then s else s.modDie site fun d => d.writeSmpCtl site ctl)

/-- R409 SMP_LIMIT_RAISE. -/
def execSmpLimitRaise (site : Nat) (limit : W64) (s : State) : Out := .next (s.modDie site fun d => d.writeSmpLimit limit)

/-! ## Samples (R413, R414) -/

def Die.plog (d : Die) : Nat := let p := field d.smpScfg.toNat 0 5; if 6 ≤ p && p ≤ 20 then p else 12

/-- R413: a free tag draws the number of issues to count. -/
def execSampleTag (core sch : Nat) (s : State) : Out :=
  let d := s.die (siteOf core)
  let k := s.core core
  let tag := k.samples.getD (sch % 4) {}
  .next (if !d.sampling || tag.busy || tag.due.isSome then s
    else
      (s.setCore core { k with samples := k.samples.set (sch % 4) { tag with due := some (1 + Config.sampleDraw d.draws % 2 ^ d.plog) } }).modDie
        (siteOf core) fun d => { d with draws := d.draws + 1 })

/-- R413: the tagged slot retires; its record is written, or dropped for want of space. Stage latencies and the level reached are
free values (log 12). -/
def execSampleRecord (core sch : Nat) (s : State) : Out :=
  let site := siteOf core
  let k := s.core core
  let tag := k.samples.getD (sch % 4) {}
  .next (if !tag.busy then s
    else
      let (f, s1) := s.free
      let s2 := s1.setCore core { k with samples := k.samples.set (sch % 4) {} }
      if !(s2.die site).sampling then s2
      else
        match s2.reserve site 1 with
        | none => s2.modDie site fun d => { d with smpDrop := BitVec.ofNat 64 (Nat.min 0xFFFFFFFF (d.smpDrop.toNat + 1)) }
        | some (pa, s3) =>
          s3.logRec site (some pa) 0x20 tag.lseq tag.tidx
            (tag.pix % 2 ^ 24 * 2 ^ 40 + tag.widx % 16 * 2 ^ 36 + tag.eng * 2 ^ 32 + tag.fsym % 2 ^ 32)
            (tag.lane * 2 ^ 57 + field f.toNat 50 4 % 9 * 2 ^ 50 + field f.toNat 0 50))

/-- R414 smpl. -/
def execSmpl (mode : SmplMode) (s : State) : Out :=
  withCx s fun c =>
    let d := s.die c.site
    let tag := (s.core c.iss.core).samples.getD (c.iss.slot % 4) {}
    let w1 : Warp :=
      match mode with
      | .on => { c.w with sample := true }
      | .off => { c.w with sample := false }
      | .now => { c.w with sampleNow := c.w.sampleNow || (d.sampling && c.w.asid = d.smpAsid && !tag.busy) }
    s.advance c w1 false

/-! ## Clock and program marks (R415-R417) -/

/-- Nanoseconds since package boot, of the 600 MHz clock (R5). -/
def pkgNs (cycle : Nat) : Nat := cycle * 5 / 3

/-- R415 clock. -/
def execClock (pkg : Bool) (s : State) : Out :=
  withCx s fun c =>
    let v := BitVec.ofNat 64 (if pkg then pkgNs s.cycle else s.cycle - (s.die c.site).resetAt)
    let done (s : State) (v : W64) : State := s.advance c (c.w.putAll c.iss (fun _ => mkVal tyB64 v) c.active) true
    match s.logMode c.site c.w.asid c.w.lseq with
    | 2 =>
      match s.threadRec c.site 0x14 c.w.lseq c.w.tidx c.w.widx none with
      | some (pa, r) => done (s.consume c.site pa) (r.getD 2 0)
      | none => done (s.diverge c.site c.w.lseq c.w.tidx) v
    | _ =>
      match s.warpReserve c 0 1 0 with
      | .error e => s.takeEvent c e c.w.activeLanes
      | .ok (_, pa, s1) => done (s1.logRec c.site pa 0x14 c.w.lseq c.w.tidx v.toNat (c.w.widx % 16 * 2 ^ 60)) v

/-- The marks of some threads, in lane order. -/
def State.logmAll (s : State) (c : Cx) (v : Thread → W64) (tag : Nat) : List Thread → Nat → State
  | [], _ => s
  | t :: ts, pa =>
    (s.logRec c.site (some pa) 0x18 c.w.lseq c.w.tidx (v t).toNat (c.w.widx % 16 * 2 ^ 60 + t.lane * 2 ^ 53 + tag)).logmAll c v tag ts (pa + 32)

/-- The marks of some threads in replay: each consumes its record and compares value and tag. -/
def State.logmReplay (s : State) (c : Cx) (v : Thread → W64) (tag : Nat) : List Thread → State
  | [] => s
  | t :: ts =>
    (if s.logMode c.site c.w.asid c.w.lseq ≠ 2 then s
     else
       match s.findRec c.site fun r => recRt r = 0x18 && recLseq r = c.w.lseq % 2 ^ 32 && recTidx r = c.w.tidx % 2 ^ 32 &&
         field (r.getD 3 0).toNat 60 4 = c.w.widx % 16 && field (r.getD 3 0).toNat 53 7 = t.lane with
       | none => s.diverge c.site c.w.lseq c.w.tidx
       | some (pa, r) =>
         if r.getD 2 0 = v t && field (r.getD 3 0).toNat 0 16 = tag then s.consume c.site pa else s.diverge c.site c.w.lseq c.w.tidx).logmReplay c v tag ts

/-- R416 logm. -/
def execLogm (ty : Ty) (p : Pred) (v : Opnd) (tag : BitVec 16) (s : State) : Out :=
  withCx s fun c =>
    let on := c.on p
    let x (t : Thread) : W64 := c.rd ty t v
    match s.logMode c.site c.w.asid c.w.lseq with
    | 1 =>
      match s.warpReserve c 0 on.length 0 with
      | .error e => s.takeEvent c e c.w.activeLanes
      | .ok (_, pa, s1) => (s1.logmAll c x tag.toNat on (pa.getD 0)).advance c c.w true
    | 2 => (s.logmReplay c x tag.toNat on).advance c c.w true
    | _ => s.advance c c.w true

/-! ## Watching stores (R418) -/

def watchId (e gen : Nat) : W64 := BitVec.ofNat 64 (gen % 4096 * 16 + e)

/-- R418 watch: the entry of the same region and mode, else the lowest free one. -/
def execWatch (trap : Bool) (base len : Opnd) (s : State) : Out :=
  withCx s fun c =>
    let b := c.rd64 c.lead base
    let n := c.rd64 c.lead len
    let info := s.info c.w.asid
    let at_ (i : Nat) : WatchEntry := info.watches.get {} i
    let done (s : State) (v : W64) : State := s.advance c (c.w.putAll c.iss (fun _ => mkVal tyB32 v) c.active) false
    if n = 0 || 2 ^ 40 < n then done s 0
    else
      match (List.range 16).find? fun i => (at_ i).live && (at_ i).base = b && (at_ i).len = n && (at_ i).trap = trap with
      | some i => done s (watchId i (at_ i).gen)
      | none =>
        match (List.range 16).find? fun i => !(at_ i).live with
        | none => done s 0
        | some i =>
          done (s.setInfo c.w.asid { info with watches := info.watches.set i { live := true, base := b, len := n, trap := trap, gen := (at_ i).gen } })
            (watchId i (at_ i).gen)

/-- R418 unwatch. -/
def execUnwatch (id : Opnd) (s : State) : Out :=
  withCx s fun c =>
    let x := c.rd32 c.lead id
    let info := s.info c.w.asid
    let e : WatchEntry := info.watches.get {} (field x 0 4)
    let s1 := if e.live && e.gen = field x 4 12 then
        s.setInfo c.w.asid { info with watches := info.watches.set (field x 0 4) { gen := if e.gen = 4095 then 1 else e.gen + 1 } }
      else s
    s1.advance c c.w false

end Sys2Proof.Machine
end

