-- ==== Sys2Proof/Machine/Slots.lean ====
section
/-! DEFINITION. Sys2Proof/Machine/Slots.lean: the meaning of an instruction that stands in a native slot (R71): that of the portable
opcode, or of the native-only one; transfers of control are the S engine's own (R74). -/

namespace Sys2Proof.Machine

open Sys2Proof

def slotExec (i : Instr) (s : State) : Out :=
  match i with
  | .nop => execNop s
  | .exit => execExit s
  | .unreachable => execUnreachable s
  | .select a1 a2 a3 a4 a5 => execSelect a1 a2 a3 a4 a5 s
  | .regn => execRegn s
  | .yield => execYield s
  | .join a1 => execJoin a1 s
  | .joinCond a1 a2 => execJoinCond a1 a2 s
  | .leave a1 => execLeave a1 s
  | .leaveCond a1 a2 => execLeaveCond a1 a2 s
  | .waitm a1 => execWaitm a1 s
  | .mrdP a1 => execMrdP a1 s
  | .mrdB64 a1 a2 => execMrdB64 a1 a2 s
  | .vote a1 a2 a3 => execVote a1 a2 a3 s
  | .voteBallot a1 a2 a3 => execVoteBallot a1 a2 a3 s
  | .add a1 a2 a3 a4 a5 a6 => execAdd a1 a2 a3 a4 a5 a6 s
  | .sub a1 a2 a3 a4 a5 a6 => execSub a1 a2 a3 a4 a5 a6 s
  | .mul a1 a2 a3 a4 a5 a6 => execMul a1 a2 a3 a4 a5 a6 s
  | .mulhi a1 a2 a3 a4 a5 => execMulhi a1 a2 a3 a4 a5 s
  | .mad a1 a2 a3 a4 a5 a6 a7 => execMad a1 a2 a3 a4 a5 a6 a7 s
  | .div a1 a2 a3 a4 a5 a6 a7 => execDiv a1 a2 a3 a4 a5 a6 a7 s
  | .rem a1 a2 a3 a4 a5 a6 => execRem a1 a2 a3 a4 a5 a6 s
  | .neg a1 a2 a3 a4 a5 => execNeg a1 a2 a3 a4 a5 s
  | .abs a1 a2 a3 a4 => execAbs a1 a2 a3 a4 s
  | .min a1 a2 a3 a4 a5 => execMin a1 a2 a3 a4 a5 s
  | .max a1 a2 a3 a4 a5 => execMax a1 a2 a3 a4 a5 s
  | .and a1 a2 a3 a4 => execAnd a1 a2 a3 a4 s
  | .or a1 a2 a3 a4 => execOr a1 a2 a3 a4 s
  | .xor a1 a2 a3 a4 => execXor a1 a2 a3 a4 s
  | .not a1 a2 a3 => execNot a1 a2 a3 s
  | .shl a1 a2 a3 a4 => execShl a1 a2 a3 a4 s
  | .shr a1 a2 a3 a4 a5 => execShr a1 a2 a3 a4 a5 s
  | .rot a1 a2 a3 a4 => execRot a1 a2 a3 a4 s
  | .clz a1 a2 a3 => execClz a1 a2 a3 s
  | .popc a1 a2 a3 => execPopc a1 a2 a3 s
  | .bfx a1 a2 a3 a4 a5 a6 => execBfx a1 a2 a3 a4 a5 a6 s
  | .bfi a1 a2 a3 a4 a5 a6 => execBfi a1 a2 a3 a4 a5 a6 s
  | .brev a1 a2 a3 => execBrev a1 a2 a3 s
  | .cmp a1 a2 a3 a4 a5 a6 => execCmp a1 a2 a3 a4 a5 a6 s
  | .lea a1 a2 a3 a4 a5 => execLea a1 a2 a3 a4 a5 s
  | .cvti a1 a2 a3 a4 a5 => execCvti a1 a2 a3 a4 a5 s
  | .cst a1 a2 => execCst a1 a2 s
  | .sreg a1 a2 => execSreg a1 a2 s
  | .shfl a1 a2 a3 a4 a5 a6 => execShfl a1 a2 a3 a4 a5 a6 s
  | .bcast a1 a2 a3 a4 => execBcast a1 a2 a3 a4 s
  | .bcastFirst a1 a2 a3 => execBcastFirst a1 a2 a3 s
  | .scan a1 a2 a3 a4 a5 a6 => execScan a1 a2 a3 a4 a5 a6 s
  | .wred a1 a2 a3 a4 a5 => execWred a1 a2 a3 a4 a5 s
  | .fadd a1 a2 a3 a4 a5 a6 => execFadd a1 a2 a3 a4 a5 a6 s
  | .fsub a1 a2 a3 a4 a5 a6 => execFsub a1 a2 a3 a4 a5 a6 s
  | .fmul a1 a2 a3 a4 a5 a6 => execFmul a1 a2 a3 a4 a5 a6 s
  | .fma a1 a2 a3 a4 a5 a6 a7 => execFma a1 a2 a3 a4 a5 a6 a7 s
  | .fmin a1 a2 a3 a4 => execFmin a1 a2 a3 a4 s
  | .fmax a1 a2 a3 a4 => execFmax a1 a2 a3 a4 s
  | .fabs a1 a2 a3 => execFabs a1 a2 a3 s
  | .fneg a1 a2 a3 => execFneg a1 a2 a3 s
  | .fcmp a1 a2 a3 a4 a5 => execFcmp a1 a2 a3 a4 a5 s
  | .fdiv a1 a2 a3 a4 a5 a6 => execFdiv a1 a2 a3 a4 a5 a6 s
  | .fsqrt a1 a2 a3 a4 a5 => execFsqrt a1 a2 a3 a4 a5 s
  | .frcp a1 a2 a3 a4 a5 => execFrcp a1 a2 a3 a4 a5 s
  | .frsq a1 a2 a3 a4 a5 => execFrsq a1 a2 a3 a4 a5 s
  | .fexp2 a1 a2 a3 a4 a5 => execFexp2 a1 a2 a3 a4 a5 s
  | .flog2 a1 a2 a3 a4 a5 => execFlog2 a1 a2 a3 a4 a5 s
  | .fsin a1 a2 a3 a4 a5 => execFsin a1 a2 a3 a4 a5 s
  | .fcos a1 a2 a3 a4 a5 => execFcos a1 a2 a3 a4 a5 s
  | .ftanh a1 a2 a3 a4 a5 => execFtanh a1 a2 a3 a4 a5 s
  | .fsig a1 a2 a3 a4 a5 => execFsig a1 a2 a3 a4 a5 s
  | .frnd a1 a2 a3 a4 => execFrnd a1 a2 a3 a4 s
  | .fcvt a1 a2 a3 a4 a5 => execFcvt a1 a2 a3 a4 a5 s
  | .f2i a1 a2 a3 a4 a5 a6 => execF2i a1 a2 a3 a4 a5 a6 s
  | .i2f a1 a2 a3 a4 a5 a6 => execI2f a1 a2 a3 a4 a5 a6 s
  | .fclass a1 a2 a3 => execFclass a1 a2 a3 s
  | .pdot a1 a2 a3 a4 a5 a6 a7 a8 => execPdot a1 a2 a3 a4 a5 a6 a7 a8 s
  | .pwid a1 a2 a3 a4 a5 a6 a7 => execPwid a1 a2 a3 a4 a5 a6 a7 s
  | .pnar a1 a2 a3 a4 a5 a6 a7 => execPnar a1 a2 a3 a4 a5 a6 a7 s
  | .cbdec a1 a2 a3 a4 a5 => execCbdec a1 a2 a3 a4 a5 s
  | .cbenc a1 a2 a3 a4 => execCbenc a1 a2 a3 a4 s
  | .fldx a1 a2 a3 a4 a5 a6 => execFldx a1 a2 a3 a4 a5 a6 s
  | .ftag a1 a2 a3 => execFtag a1 a2 a3 s
  | .ftagGet a1 a2 => execFtagGet a1 a2 s
  | .ld a1 a2 a3 a4 a5 a6 => execLd a1 a2 a3 a4 a5 a6 s
  | .st a1 a2 a3 a4 a5 a6 a7 => execSt a1 a2 a3 a4 a5 a6 a7 s
  | .ldb a1 a2 a3 a4 a5 a6 => execLdb a1 a2 a3 a4 a5 a6 s
  | .stb a1 a2 a3 a4 a5 a6 a7 => execStb a1 a2 a3 a4 a5 a6 a7 s
  | .prefetch a1 a2 a3 a4 => execPrefetch a1 a2 a3 a4 s
  | .cctl a1 a2 a3 => execCctl a1 a2 a3 s
  | .atom a1 a2 a3 a4 a5 a6 a7 a8 a9 => execAtom a1 a2 a3 a4 a5 a6 a7 a8 a9 s
  | .atomc a1 a2 a3 a4 a5 a6 a7 a8 => execAtomc a1 a2 a3 a4 a5 a6 a7 a8 s
  | .red a1 a2 a3 a4 a5 a6 a7 a8 a9 => execRed a1 a2 a3 a4 a5 a6 a7 a8 a9 s
  | .fence a1 a2 => execFence a1 a2 s
  | .phase => execPhase s
  | .gld a1 a2 a3 a4 a5 a6 a7 a8 a9 a10 => execGld a1 a2 a3 a4 a5 a6 a7 a8 a9 a10 s
  | .gst a1 a2 a3 a4 a5 a6 a7 a8 a9 a10 => execGst a1 a2 a3 a4 a5 a6 a7 a8 a9 a10 s
  | .shp a1 => execShp a1 s
  | .shpFree a1 => execShpFree a1 s
  | .taddr a1 a2 a3 => execTaddr a1 a2 a3 s
  | .ldt a1 a2 a3 a4 a5 => execLdt a1 a2 a3 a4 a5 s
  | .cpy a1 a2 a3 a4 a5 a6 a7 a8 => execCpy a1 a2 a3 a4 a5 a6 a7 a8 s
  | .cpyShape a1 a2 a3 a4 a5 a6 a7 a8 a9 => execCpyShape a1 a2 a3 a4 a5 a6 a7 a8 a9 s
  | .cpyw a1 a2 => execCpyw a1 a2 s
  | .cpyf a1 a2 a3 a4 a5 a6 a7 a8 => execCpyf a1 a2 a3 a4 a5 a6 a7 a8 s
  | .cpyq a1 a2 a3 a4 a5 a6 a7 a8 a9 a10 a11 a12 => execCpyq a1 a2 a3 a4 a5 a6 a7 a8 a9 a10 a11 a12 s
  | .cjoin a1 a2 => execCjoin a1 a2 s
  | .cleave => execCleave s
  | .cmap a1 => execCmap a1 s
  | .colr a1 a2 => execColr a1 a2 s
  | .orsv a1 a2 a3 a4 a5 a6 a7 a8 => execOrsv a1 a2 a3 a4 a5 a6 a7 a8 s
  | .orel a1 => execOrel a1 s
  | .ofill a1 a2 a3 a4 a5 => execOfill a1 a2 a3 a4 a5 s
  | .bfill a1 a2 a3 a4 => execBfill a1 a2 a3 a4 s
  | .sclq a1 a2 a3 a4 => execSclq a1 a2 a3 a4 s
  | .cbld a1 a2 a3 => execCbld a1 a2 a3 s
  | .cbldAddr a1 a2 a3 a4 => execCbldAddr a1 a2 a3 a4 s
  | .aacq a1 => execAacq a1 s
  | .arel a1 => execArel a1 s
  | .mma a1 a2 a3 a4 => execMma a1 a2 a3 a4 s
  | .mmsp a1 a2 a3 a4 => execMmsp a1 a2 a3 a4 s
  | .acrd a1 a2 a3 a4 a5 a6 a7 => execAcrd a1 a2 a3 a4 a5 a6 a7 s
  | .acwr a1 a2 a3 a4 a5 a6 => execAcwr a1 a2 a3 a4 a5 a6 s
  | .acwrZero a1 => execAcwrZero a1 s
  | .sign a1 => execSign a1 s
  | .cvset a1 a2 => execCvset a1 a2 s
  | .gsync => execGsync s
  | .mstat a1 => execMstat a1 s
  | .barv a1 a2 => execBarv a1 a2 s
  | .barw a1 a2 => execBarw a1 a2 s
  | .bars a1 a2 => execBars a1 a2 s
  | .bmem a1 a2 a3 => execBmem a1 a2 a3 s
  | .bcnt a1 => execBcnt a1 s
  | .prgqB64 => execPrgqB64 s
  | .prgqP => execPrgqP s
  | .sleep a1 a2 => execSleep a1 a2 s
  | .flagw a1 a2 a3 a4 a5 => execFlagw a1 a2 a3 a4 a5 s
  | .launch a1 a2 => execLaunch a1 a2 s
  | .ljoin => execLjoin s
  | .lquery a1 => execLquery a1 s
  | .wsplit => execWsplit s
  | .migrate a1 a2 => execMigrate a1 a2 s
  | .wdone => execWdone s
  | .trap a1 a2 => execTrap a1 a2 s
  | .brkpt a1 => execBrkpt a1 s
  | .tprf a1 a2 => execTprf a1 a2 s
  | .tprfHandle a1 a2 a3 => execTprfHandle a1 a2 a3 s
  | .clock a1 => execClock a1 s
  | .smpl a1 => execSmpl a1 s
  | .watch a1 a2 a3 => execWatch a1 a2 a3 s
  | .unwatch a1 => execUnwatch a1 s
  | .logm a1 a2 a3 a4 => execLogm a1 a2 a3 a4 s
  | .rgn a1 => execRgn a1 s
  | .ckst a1 a2 a3 => execCkst a1 a2 a3 s
  | .ckld a1 a2 a3 => execCkld a1 a2 a3 s
  | .vsp a1 a2 => execVsp a1 a2 s
  | .vfl a1 a2 => execVfl a1 a2 s
  | .rotWindow a1 a2 => execRotWindow a1 a2 s
  | .waitc a1 a2 a3 => execWaitc a1 a2 a3 s
  | .mvw a1 a2 => execMvw a1 a2 s
  | .mvz a1 a2 => execMvz a1 a2 s
  | .qpsh a1 a2 => execQpsh a1 a2 s
  | .qpop a1 a2 => execQpop a1 a2 s
  | _ => .next { s with issue := none }

end Sys2Proof.Machine
end

