-- ==== Sys2Proof/Machine/Bundle.lean ====
section
/-! DEFINITION. Sys2Proof/Machine/Bundle.lean: one step of an engine of a warp (R76, R134): its slots in one bundle (R70-R75), the S
engine's branches (R74), slot faults (R77), ownership checks (R136), and the completion of loads (R134). -/

namespace Sys2Proof.Machine

open Sys2Proof

/-! ## Counters -/

def engTags : List Nat := [1, 2, 3, 4, 5]

def NCtr.place (c : NCtr) (e : Nat) : Option (Nat × Nat) := c.at_.get? e
def NCtr.posOf (c : NCtr) (e : Nat) : Nat := c.pos.get 0 e

/-- Counters in one form: positions count from the engine furthest behind. -/
def NCtr.norm (c : NCtr) : NCtr :=
  let m := (engTags.map c.posOf).foldl Nat.min (c.posOf 1)
  { c with
    pos := engTags.map fun e => (e, c.posOf e - m)
    six := engTags.map fun e => (e, c.six.get 0 e)
    outcomes := engTags.map fun e => (e, (c.outcomes.get [] e).map fun o => (o.1 - m, o.2)) }

/-- Every engine stands at one bundle with stream index 0 (R128). -/
def NCtr.startAt (fsym b : Nat) : NCtr := ({ at_ := engTags.map fun e => (e, (fsym, b)) } : NCtr).norm

/-- An engine has passed a bundle with `n` of its slots: it takes the S engine's next outcome where one is due, else `next`. -/
def NCtr.pass (c : NCtr) (e n : Nat) (next : Nat × Nat) : NCtr :=
  let p := c.posOf e + 1
  let (tgt, q) : (Nat × Nat) × List (Nat × Nat × Nat) :=
    match c.outcomes.get [] e with
    | (p', t) :: r => if p' = p then (t, r) else (next, (p', t) :: r)
    | [] => (next, [])
  { c with at_ := c.at_.set e tgt, pos := c.pos.set e p, six := c.six.set e (c.six.get 0 e + n), outcomes := c.outcomes.set e q
           pend := none, jump := none, undo := none, skip := none }

/-- The S engine branches: the others find the outcome when they have passed as many bundles (R76). -/
def NCtr.branch (c : NCtr) (n : Nat) (target : Nat × Nat) : NCtr :=
  let p := c.posOf 1 + 1
  let c1 := c.pass 1 n target
  { c1 with
    at_ := c1.at_.set 1 target
    outcomes := [2, 3, 4, 5].foldl (fun (o : Tbl (List (Nat × Nat × Nat))) e => o.set e (o.get [] e ++ [(p, target)])) c1.outcomes }

/-- Whether an engine may execute the bundle at which it stands: the slip window (R134), and slip barriers (R76). -/
def NCtr.mayStep (c : NCtr) (e slipw : Nat) (head : Bool) : Bool :=
  (if e = 1 then [2, 3, 4, 5].all fun x => c.posOf 1 < c.posOf x + slipw else c.posOf e < c.posOf 1) &&
  (!head || engTags.all fun x => c.posOf e ≤ c.posOf x) &&
  (c.pend.all fun p => p.1 = e)

/-- Every other engine has passed all that stands before the S engine. -/
def NCtr.caughtUp (c : NCtr) : Bool := engTags.all fun x => c.posOf 1 ≤ c.posOf x

/-! ## Registers that a slot names (R136) -/

def wideReg (wide : Bool) : NReg → List NReg
  | .v i => if wide then [.v i, .v (i + 1)] else [.v i]
  | .w i => if wide then [.w i, .w (i + 1)] else [.w i]
  | r => [r]

def isFile : NReg → Bool
  | .v _ | .w _ | .z _ | .s _ | .k _ => true
  | _ => false

def slotReads : Slot → List NReg
  | .op i _ _ => ((i.opnds.filterMap fun | .nat r => some r | _ => none).map (wideReg (32 < (i.head.2.1).bits))).flatten.filter isFile
  | .brc p _ => [p]
  | .switch r _ => [r].filter isFile
  | .only (.ckst r _ false) | .only (.vsp r _) | .only (.qpsh r _) => [r].filter isFile
  | .only (.mvw _ r) | .only (.mvz _ r) => [r]
  | _ => []

def slotWrites (e : Eng) : Slot → List NReg
  | .op i d _ =>
    let own : List NReg := if (instrDefTy i).isSome then wideReg (32 < (i.head.2.1).bits) d else []
    let zs : List NReg := match e with | .V => [.z 0, .z 1, .z 2, .z 3] | _ => []
    (own ++ zs).filter isFile
  | .only (.ckld r _ false) | .only (.vfl r _) => [r].filter isFile
  | .only (.mvw r _) | .only (.mvz r _) | .only (.qpop r _) => [r]
  | _ => []

/-! ## One slot -/

/-- How a slot ends: complete, with the S engine's next bundle in each lane where it branched; waiting where it stands; not to be executed
yet; the native run left, at a call or return; an event. -/
inductive SlotEnd where
  | done (s : State) (next : Option (Tbl (Nat × Nat)))
  | waiting (s : State)
  | stalled
  | left (s : State)
  | event (ev : Event) (pc : PC)

/-- Where a step stands: its place, the lanes of its group, its key. -/
structure Stp where
  core : Nat
  slot : Nat
  eng : Eng
  at_ : Nat × Nat
  lanes : List Nat

def Stp.key (x : Stp) : Nat := wkey x.core x.slot
def Stp.has (x : Stp) (t : Thread) : Bool := t.live && x.lanes.contains t.lane

def nativeAlone : Instr → Bool
  | .rgn .. | .ckst .. | .ckld .. | .rotWindow .. | .waitc .. | .mvw .. | .mvz .. | .qpsh .. | .qpop .. => true
  | _ => false

/-- The portable index of a slot (R81). -/
def State.slotPix (s : State) (x : Stp) (w : Warp) (i : Nat) : Nat := (s.unitOf x.core w x.at_.1).pix x.at_.2 i

/-- Results of an L slot wait for their completion (R134). -/
def Warp.land (d : NReg) (w : Warp) : Warp :=
  let nt := w.native
  if nt.landing.isEmpty then w
  else { w with native := { nt with landing := [], outstanding := nt.outstanding ++ [{ dest := d, vals := nt.landing.reverse }] } }

/-- An instruction in a slot: the portable opcode's meaning over native operands (R71). In the span of R127 an earlier event of the warp
stays, and a slot that would raise another is not executed. -/
def State.runInstr (s : State) (x : Stp) (w : Warp) (i : Nat) (d : NReg) (lit : W64) (instr : Instr) : SlotEnd :=
  let pc : PC := { fsym := x.at_.1, pix := s.slotPix x w i }
  let mid := w.threads.any fun t => x.has t && (t.home ≠ none || t.cwait.isSome || t.consumed)
  let w0 : Warp := { (if mid then w else w.mapActive fun t => { t with pc := pc, nat := { t.nat with pend := some (x.eng.tag, i) } }) with event := none }
  let s0 : State := { s.setWarp x.key w0 with issue := some { core := x.core, slot := x.slot, mode := .native x.eng d lit } }
  match slotExec instr s0 with
  | .fault _ | .refused _ => .stalled
  | .next s1 =>
    let s2 : State := { s1 with issue := none }
    match s2.warps.get? x.key with
    | none => .done s2 none
    | some w1 =>
      match w1.event with
      | some ev => if w.event.isNone then .event { ev with slot := some i } pc else .stalled
      | none =>
        let w2 : Warp := { w1 with event := w.event }
        let s3 := s2.setWarp x.key w2
        match w2.threads.find? x.has with
        | none => .done s3 none
        | some t =>
          if t.pc ≠ pc then .done (s3.setWarp x.key (w2.land d)) none
          else if nativeAlone instr then .stalled
          else .waiting s3

/-- The same bundle for every lane of the step. -/
def Stp.all (x : Stp) (n : Nat × Nat) : Tbl (Nat × Nat) := x.lanes.map fun l => (l, n)

/-- The bundle at a displacement (R74). -/
def dispTo (b : Nat) (d : Int) : Nat := ((b : Int) + d).toNat

/-- THE GROUP LEAVES ITS NATIVE RUN before a portable instruction: every value live there, as the registers and slots hold it (R83). -/
def State.liftAt (s : State) (x : Stp) (pix : Nat) (w : Warp) : Warp :=
  let vs := (s.planOf x.core w x.at_.1).liveAt pix
  w.mapActive fun t =>
    { t with pc := { fsym := x.at_.1, pix := pix }, vals := vs.foldl (fun m v => m.set v (s.nativeValue x.core w t v)) t.vals, nat := {} }

/-- A transfer between units, or to another core: the portable instruction's meaning, from its values as lifted. The manual names no register
that hands an argument or a result from one unit to another (log 26); the next unit is entered at its head, as its own run of R126 leaves
it. -/
def State.liftRun (s : State) (x : Stp) (w : Warp) (i : Nat) (run : Instr → State → Out) : SlotEnd :=
  let pix := s.slotPix x w i
  if !w.native.outstanding.isEmpty then .stalled
  else
  match (moduleFunc (s.moduleWords w.modIdx) x.at_.1).bind fun f => instrAt f.blocks pix with
  | none => .stalled
  | some (n, instr) =>
    match run instr { s.setWarp x.key (s.liftAt x pix w) with issue := some { core := x.core, slot := x.slot, n := n } } with
    | .next s1 =>
      (match (s1.warps.get? x.key).bind Warp.event with
       | some ev => if w.event.isNone then .event { ev with eng := x.eng.tag, slot := some i } { fsym := x.at_.1, pix := pix } else .stalled
       | none => .left { s1 with issue := none })
    | .fault _ | .refused _ => .stalled

/-- The portable instructions that a native run hands over (R74, R229): each thread goes to its callee, to its own caller, or to its landing. -/
def liftExec (i : Instr) (s : State) : Out :=
  match i with
  | .call ty f args => execCall ty f args s
  | .ret => execRet s
  | .retValue v => execRetValue v s
  | .migrate a b => execMigrate a b s
  | .sign cv => execSign cv s
  | _ => .fault .noIssue

/-- An instruction of the S engine that acts when every earlier bundle's slots have: its effect, seen by others, comes after theirs in the
sequence that R135 gives a unit (log 26). -/
def ordered (i : Instr) : Bool := endsRegion i || i = .exit

def State.runSlot (s : State) (x : Stp) (w : Warp) (ctr : NCtr) (i : Nat) : Slot → SlotEnd
  | .op instr d lit =>
    if x.eng = .S && ordered instr && !ctr.caughtUp then .stalled
    else
      match instr with
      | .migrate .. => s.liftRun x w i liftExec
      | .sign cv =>
        if !s.signWaits x.core w cv then s.runInstr x w i d lit instr
        else if engTags.all fun e => e = x.eng.tag || ctr.posOf x.eng.tag < ctr.posOf e then s.liftRun x w i liftExec
        else .stalled
      | _ => s.runInstr x w i d lit instr
  | .only instr =>
    let d : NReg := match instr with | .vfl r _ => r | _ => .zero
    s.runInstr x w i d 0 instr
  | .br d => .done s (some (x.all (x.at_.1, dispTo x.at_.2 d)))
  | .brc p d =>
    let on (t : Thread) : Bool := (w.readReg t.lane 0 32 p).bits.getLsbD 0
    .done s (some (w.active.map fun t => (t.lane, (x.at_.1, if on t then dispTo x.at_.2 d else x.at_.2 + 1))))
  | .switch r d =>
    let n := match (moduleFunc (s.moduleWords w.modIdx) x.at_.1).bind fun f => instrAt f.blocks (s.slotPix x w i) with
      | some (_, .switch _ _ _ cs) => cs.length
      | _ => 0
    let entry (t : Thread) : Nat :=
      let v := ((w.readReg t.lane 0 32 r).bits.setWidth 32).toNat
      if v < n then v + 1 else 0
    let u := s.unitOf x.core w x.at_.1
    .done s (some (w.active.map fun t => (t.lane, (x.at_.1, dispTo x.at_.2 (u.tableEntry (dispTo x.at_.2 d) (entry t))))))
  | .call _ | .ret => if ctr.caughtUp then s.liftRun x w i liftExec else .stalled

/-! ## Ownership checks (R136) -/

/-- The bundles that an engine has still to execute before path position `n`, each with its position. -/
def aheadOf (c : NCtr) (e : Nat) : Nat → List (Nat × Nat × Nat)
  | 0 => []
  | n + 1 =>
    match c.place e with
    | none => []
    | some (f, b) => (c.posOf e, f, b) :: aheadOf (c.pass e 0 (f, b + 1)) e n

def insertByPos (x : Nat × Nat × Eng × Slot) : List (Nat × Nat × Eng × Slot) → List (Nat × Nat × Eng × Slot)
  | [] => [x]
  | y :: ys => if x.1 < y.1 || (x.1 = y.1 && x.2.1 ≤ y.2.1) then x :: y :: ys else y :: insertByPos x ys

/-- The slots of other engines that stand before a slot in sequence and have not been executed, in order: position, slot index, engine, slot. -/
def State.slotsBefore (s : State) (core : Nat) (w : Warp) (c : NCtr) (e : Eng) (i : Nat) : List (Nat × Nat × Eng × Slot) :=
  let ws := s.moduleWords w.modIdx
  let slotsOf (at_ : Nat × Nat) : List (Nat × Eng × Slot) := (((s.unitOf core w at_.1).decode ws at_.2).map Bundle.slots).getD []
  let p := c.posOf e.tag
  let of (x : Nat) : List (Nat × Nat × Eng × Slot) :=
    ((aheadOf c x (p - c.posOf x)).map fun a => (slotsOf a.2).filterMap fun y => if y.2.1.tag = x then some (a.1, y.1, y.2.1, y.2.2) else none).flatten ++
      (if c.posOf x ≤ p then
        (((c.place e.tag).map slotsOf).getD []).filterMap fun y => if y.2.1.tag = x && y.1 < i then some (p, y.1, y.2.1, y.2.2) else none
       else [])
  (((engTags.filter (· ≠ e.tag)).map of).flatten).foldr insertByPos []

/-- The registers as the sequence of R135 has them: outstanding loads written, and the earlier slots executed, as far as they can be. -/
def State.inSequence (s : State) (x : Stp) (ctr : NCtr) : List (Nat × Nat × Eng × Slot) → State
  | [] => s
  | (_, i, e, sl) :: r =>
    match s.warps.get? x.key with
    | none => s
    | some w =>
      let w1 := w.native.outstanding.foldl (fun w o => o.vals.foldl (fun w v => w.writeReg v.1 v.2.2 v.2.1 o.dest) w) w
      let s1 := s.setWarp x.key { w1 with native := { w1.native with outstanding := [] } }
      let y : Stp := { x with eng := e, at_ := (ctr.place e.tag).getD x.at_ }
      match s1.runSlot y { w1 with native := { w1.native with outstanding := [] } } { ctr with pos := [] } i sl with
      | .done s2 _ => s2.inSequence x ctr r
      | _ => s1

/-- THE OWNERSHIP CHECK (R136): a slot reads a register that does not hold what sequential order gives, or writes one that an earlier access
in sequential order, a load not complete among them, has still to read or write. -/
def State.breaches (s : State) (x : Stp) (w : Warp) (c : NCtr) (i : Nat) (sl : Slot) : Bool :=
  let before := s.slotsBefore x.core w c x.eng i
  let wr := slotWrites x.eng sl
  let early := (before.any fun y => (slotReads y.2.2.2 ++ slotWrites y.2.2.1 y.2.2.2).any wr.contains) || w.native.outstanding.any fun o => wr.contains o.dest
  let then_ := ((s.inSequence x c (before ++ [(0, 0, x.eng, .only .nop)])).warps.get? x.key).getD w
  early || (slotReads sl).any fun r => w.active.any fun t => w.readReg t.lane 0 32 r ≠ then_.readReg t.lane 0 32 r

/-! ## One step -/

/-- The step ends for the threads of its lanes: counters pass the bundle, the checkpoint run may end (R126), threads that branched apart
divide (R179), and a portable counter follows the S engine. -/
def State.endStep (s : State) (x : Stp) (bs : Bundle) (n : Nat) (next : Option (Tbl (Nat × Nat))) : State :=
  match s.warps.get? x.key with
  | none => s
  | some w =>
    let c := s.cxFor { core := x.core, slot := x.slot } w
    let runEnds := x.eng = .L && bs.ckpt && w.native.pv && !(s.bundleAt x.core w (x.at_.1, x.at_.2 + 1)).any fun b => bundleC b && !bundleH b
    let w1 := if runEnds then c.frameCommit s.cycle x.at_.1 w else w
    let follow : Nat × Nat := (x.at_.1, x.at_.2 + 1)
    let pcAt (p : Nat × Nat) : PC :=
      let slot := ((s.bundleAt x.core w p).bind fun b => (List.range 4).find? fun i => b.getLsbD (250 + i)).getD 0
      { fsym := p.1, pix := (s.unitOf x.core w p.1).pix p.2 slot }
    let one (t : Thread) : Thread :=
      if !x.has t then t
      else if x.eng = .S then
        match next with
        | some m => let p := m.get follow t.lane; { t with nat := (t.nat.branch n p).norm, pc := pcAt p }
        | none => { t with nat := (t.nat.pass 1 n follow).norm, pc := pcAt follow }
      else { t with nat := (t.nat.pass x.eng.tag n follow).norm, pc := pcAt ((t.nat.place 1).getD follow) }
    let w2 : Warp := { w1 with threads := w1.threads.map one }
    let taken (t : Thread) : Bool := t.nat.place 1 ≠ some follow
    let pick (t : Thread) : Bool := if bs.hint = 1 then taken t else if bs.hint = 2 then !taken t else true
    match (w2.active.find? pick).or w2.active.head? with
    | none => s.setWarp x.key w2
    | some t0 =>
      let w3 := if next.isSome then w2.divideAt s.cycle t0 else w2
      s.setWarp x.key (if w3.ready w3.turn then w3.mergeAt else w3.endTurn s.cycle)

/-- A step that a slot does not complete keeps what it needs to go on: the branch target so far, and the registers and masks before the step
(R76). -/
def State.holdStep (s s0 : State) (x : Stp) (next : Option (Tbl (Nat × Nat))) : State :=
  match s0.warps.get? x.key with
  | none => s
  | some w0 =>
    let undo := (regsOfLanes (fun l => x.lanes.contains l) true w0.native.regs, w0.masks)
    s.modWarp x.key fun w =>
      { w with threads := w.threads.map fun t =>
          if x.has t then { t with nat := { t.nat with undo := t.nat.undo.or (some undo), jump := (next.bind fun m => m.get? t.lane).or t.nat.jump } } else t }

/-- The slots of one step in order, from slot `from_`. Nothing takes effect where one may not be executed yet, or raises an event: the
engine's counter stays at the bundle (R76). A slot that waits keeps its place. -/
def State.runSlots (s0 : State) (x : Stp) (bs : Bundle) (n from_ : Nat) :
    List (Nat × Slot) → State → Option (Tbl (Nat × Nat)) → State
  | [], s, next => s.endStep x bs n next
  | (i, sl) :: r, s, next =>
    if i < from_ then s0.runSlots x bs n from_ r s next
    else
      match s.warps.get? x.key with
      | none => s
      | some w =>
        let ctr := (w.active.head?.map Thread.nat).getD {}
        if w.chk && s.breaches x w ctr i sl then
          s0.modWarp x.key fun w0 =>
            { w0 with event := some { code := evUncorrectable, qual := 6, flanes := lanesOf x.lanes, glanes := lanesOf x.lanes, eng := x.eng.tag, slot := some i } }
        else
          match s.runSlot x w ctr i sl with
          | .done s1 nx => s0.runSlots x bs n from_ r s1 (nx.or next)
          | .waiting s1 => s1.holdStep s0 x next
          | .stalled => s0
          | .left s1 => s1
          | .event ev pc => s0.modWarp x.key fun w0 => { (w0.undoStep fun l => x.lanes.contains l).mapActive (fun t => { t with pc := pc }) with event := some ev }

/-! ## Slot faults (R77) -/

/-- A warp of a discarded unit restarts. -/
def State.restartStanding (s : State) (key : Nat) (w : Warp) : State := if w.event.isSome || w.framed then s else s.restartWarp key

/-- A SLOT FAULT: the unit is discarded and every warp in it restarts; a second one at the same bundle of the fresh unit stops the
warp. -/
def State.slotFault (s : State) (x : Stp) (w : Warp) (u : UnitImg) : State :=
  let site := siteOf x.core
  if u.faulted = some x.at_.2 then
    let s1 := s.modWarp x.key fun w =>
      { w with event := some { code := evUncorrectable, qual := 5, flanes := lanesOf x.lanes, glanes := lanesOf x.lanes, eng := x.eng.tag } }
    { s1 with pkg := { s1.pkg with pldm := .slotFault (clusterOf x.core) :: s1.pkg.pldm } }
  else
    let inUnit (p : Nat × Warp) : Bool :=
      siteOf (p.1 / 16) = site && p.2.threads.any fun t => t.live && !t.halted && (s.threadReqs (p.1 / 16) p.2 t).any fun r => r.unit = u.key
    let standing := s.warps.filter fun p => p.1 ≠ x.key && inUnit p
    let s1 := (s.dropUnit site u.key).modDie site fun d => { d with badUnits := d.badUnits ++ [(u.key, x.at_.2)] }
    let s2 := s1.modCluster (clusterOf x.core) fun c => { c with tc := c.tc.filter fun r => r.unit ≠ u.key }
    (standing.foldl (fun s p => s.restartStanding p.1 p.2) s2).restartStanding x.key w

/-! ## The happenings -/

/-- A step that a skip passes over (R381): its slot's value is zero, and the step goes on after it. -/
def State.skipSlot (s : State) (x : Stp) (slots : List (Nat × Slot)) (i : Nat) : State :=
  match slots.find? fun y => y.1 = i with
  | some (_, .op instr d _) =>
    (match instrDefTy instr with
     | some ty => s.modWarp x.key fun w => w.active.foldl (fun w t => w.writeReg t.lane ty.bits { bits := 0, tag := ty.code } d) w
     | none => s)
  | _ => s

/-- One step of an engine of the native group that holds the turn, in a region that the translation cache holds (R20, R76). -/
def State.stepEngine (s : State) (core slot : Nat) (eng : Eng) (w : Warp) : State :=
  match w.active.head? with
  | none => s
  | some t =>
    match t.nat.place eng.tag with
    | none => s
    | some at_ =>
      let u := s.unitOf core w at_.1
      match u.bundles[at_.2]? with
      | none => s
      | some b =>
        let x : Stp := { core := core, slot := slot, eng := eng, at_ := at_, lanes := w.activeLanes }
        if !t.nat.mayStep eng.tag w.slipw (bundleH b) || !(s.cluster (clusterOf core)).tc.contains (s.bundleReq core w at_) then s
        else
          let s1 := s.setWarp x.key { w with lastIssue := s.cycle }
          match u.decode (s.moduleWords w.modIdx) at_.2 with
          | none => s1.slotFault x w u
          | some bs =>
            let mine := (bs.slots.filter fun y => y.2.1 = eng).map fun y => (y.1, y.2.2)
            let skipped := t.nat.skip.bind fun p => if p.1 = eng.tag then some p.2 else none
            let from_ := match skipped, t.nat.pend with
              | some i, _ => i + 1
              | none, some (_, i) => if t.home = none && t.cwait.isNone && !t.consumed && t.pc.pix ≠ s.slotPix x w i then i + 1 else i
              | none, none => 0
            let s2 := match mine with | [] => s1 | _ :: _ => s1.countSample core slot w eng.tag
            let s3 := match skipped with | some i => s2.skipSlot x mine i | none => s2
            let jump : Option (Tbl (Nat × Nat)) := t.nat.jump.map fun _ => w.active.map fun t => (t.lane, t.nat.jump.getD (at_.1, at_.2 + 1))
            s3.runSlots x bs mine.length from_ mine s3 jump

/-- A native run may begin: every thread of the warp stands, in one group, at its committed region head (log 26). -/
def Warp.fresh (w : Warp) : Bool :=
  w.threads.all fun t => !t.live || (t.grp = w.turn && t.wait = .none && !t.halted && t.handler.isNone && t.pc = t.ck.pc && t.home = none && t.cwait.isNone && !t.consumed)

/-- A step of an engine. A group that has no native counters begins at its region's head, after the restart sequence (R128), where the unit
lists bundles and its values lie in checkpoint and spill slots. -/
def State.engineStep (s : State) (core slot : Nat) (eng : Eng) (w0 : Warp) : State :=
  match w0.active.head? with
  | none => s
  | some t =>
    if t.native then s.stepEngine core slot eng w0
    else
      let u := s.unitOf core w0 t.pc.fsym
      let p := s.planOf core w0 t.pc.fsym
      let r := p.region t.pc.pix
      if u.bundles.isEmpty || !w0.fresh || !(s.cluster (clusterOf core)).tc.contains (s.reqAt core w0 t.pc) then s
      else
        let c := s.cxFor { core := core, slot := slot } w0
        match c.spillDue with
        | some (j, vs) => s.spillTurn c j vs
        | none =>
          let w1 : Warp := { w0 with native := { w0.native with slots := w0.active.foldl (fun m t => p.lower r t m) w0.native.slots } }
          let w2 := (w1.restoreLiveIns u p r).mapActive fun t => { t with nat := NCtr.startAt t.pc.fsym (u.rfirst r) }
          s.stepEngine core slot eng w2

/-- R76 BUNDLE_STEP. -/
def execBundleStep (core slot : Nat) (eng : Eng) (s : State) : Out :=
  let s1 := s.modWarp (wkey core slot) (s.readyTurn core)
  .next (match s1.warps.get? (wkey core slot) with
    | none => s
    | some w =>
      if s1.issue.isSome || !s1.mayIssue core w then s1
      else if s1.blockDue w.wg then s1.readBlock core w.wg
      else s1.engineStep core slot eng w)

/-- The first engine of a native group, S before the others, that can step, steps. -/
def State.nativeTurn (s : State) (core slot : Nat) (w : Warp) : State :=
  let still := s.setWarp (wkey core slot) { w with lastIssue := s.cycle }
  (([Eng.S, .L, .V, .M, .X].map fun e => s.stepEngine core slot e w).find? fun s1 => s1 ≠ still && s1 ≠ s).getD s

/-- R134 LOAD_COMPLETE: an outstanding load or fill writes its result. -/
def execLoadComplete (core slot idx : Nat) (s : State) : Out :=
  .next (s.modWarp (wkey core slot) fun w =>
    match w.native.outstanding[idx]? with
    | none => w
    | some o =>
      let w1 : Warp := { w with native := { w.native with outstanding := w.native.outstanding.eraseIdx idx } }
      o.vals.foldl (fun w v => w.writeReg v.1 v.2.2 v.2.1 o.dest) w1)

/-- Waits at `ljoin` and `migrate` that the going of a thread may have met are looked at (R227, R230). -/
def State.settleWaits (s : State) (core : Nat) : State :=
  let s1 := (s.coreWgs core).foldl (fun s g =>
    if (s.wgWarps g.1).any fun p => p.2.threads.any fun t => t.live && t.atLjoin then s.joinCheck g.1 else s) s
  (s1.warps.filter fun p => p.1 / 16 = core).foldl (fun s p => s.migrateCheck p.1) s1

/-- R243 SCHEDULER_ISSUE: the chosen warp's next instruction is latched; the next step executes it. Waits of the core are looked
at, and turns that fell free given, first. A firmware bundle may take the slot instead (R244). A scheduler that has issued in this cycle does
not issue again. -/
def execSchedulerIssue (core sch : Nat) (s : State) : Out :=
  let s0 := s.settleWaits core
  let s1 := (s0.schedWarps core sch).foldl (fun s p => s.modWarp p.1 (s.readyTurn core)) s0
  let ready := (s1.schedWarps core sch).filter fun p =>
    s1.mayIssue core p.2 && (!p.2.active.any Thread.native || s1.nativeTurn core (p.1 % 16) p.2 ≠ s1)
  .next (if s1.issue.isSome || s1.hasIssued core sch then s1
    else
      match pickWarp (s1.goesFirst (fairCyc (s1.core core))) ready with
      | none => s1
      | some (key, w) =>
        if s1.fwTakes core sch then s1.spendCredit core sch
        else if s1.blockDue w.wg then s1.readBlock core w.wg
        else if w.active.any Thread.native then (s1.nativeTurn core (key % 16) w).noteIssue core sch
        else
          let c := s1.cxFor { core := core, slot := key % 16 } w
          match (if w.midAccess then none else c.spillDue) with
          | some (j, vs) => ((s1.setWarp key { w with lastIssue := s1.cycle }).spillTurn { c with w := { w with lastIssue := s1.cycle } } j vs).noteIssue core sch
          | none =>
            let s2 := ((s1.setWarp key { w with lastIssue := s1.cycle }).countSample core (key % 16) w 0).noteIssue core sch
            { s2 with issue := some { core := core, slot := key % 16 } })

end Sys2Proof.Machine
end

