-- ==== Sys2Proof/Machine/MemEvents.lean ====
section
/-! DEFINITION. Sys2Proof/Machine/MemEvents.lean: what the memory system does by itself: slice writes, line fills and page walks (R299,
R302, R313), the fault queue and its answers (R315-R317), invalidations (R314), the DET window (R341), snapshots (R320-R323). -/

namespace Sys2Proof.Machine

open Sys2Proof

/-! ## Snapshots -/

def Die.snapBase (d : Die) : Nat := field d.snapSft.toNat 12 45 * 4096
def Die.snapActive (d : Die) : Bool := d.snapCtl.getLsbD 1

/-- COMMIT takes STEP once every line is copied and clean in HBM (R322). -/
def State.snapCommit (s : State) (site : Nat) : State :=
  let d := s.die site
  match d.snap with
  | none => s
  | some sn =>
    let clean (f : Nat × Nat) : Bool := (List.range 512).all fun x => ((d.tags.get? (f.2 / 128 + x)).all fun t => t.dirty.isNone)
    if sn.frames.length * 512 ≤ sn.copied.length && sn.frames.all clean then
      (s.putWord (d.snapBase + 88) d.snapStep).modDie site fun d =>
        { d with snap := none, snapCtl := setField (setField d.snapCtl 1 1 0) 2 1 1 }
    else s

/-- The frame table's entries: source and destination. -/
def State.snapEntries (s : State) (base n : Nat) : List (Nat × Nat) :=
  (List.range n).map fun i => ((s.word64 (base + 128 + 16 * i)).toNat, (s.word64 (base + 136 + 16 * i)).toNat)

def framesAscend : List (Nat × Nat) → Bool
  | a :: b :: r => a.1 < b.1 && framesAscend (b :: r)
  | _ => true

/-- The check of a snapshot frame table (R321). NFR outside R320's 1 to 3,145,728, or an entry that is no 64 KiB frame, is refused like the faults that
R321 lists (DESIGN CHOICE, log 38). -/
def frameTableOk (site : Nat) (es : List (Nat × Nat)) : Bool :=
  let own (a : Nat) : Bool := a % 65536 = 0 && deviceByte a && siteOfPa a = site
  !es.isEmpty && es.length ≤ 3145728 && framesAscend es && es.all fun e => own e.1 && own e.2 && !(es.any fun f => f.2 = e.1)

/-- The context whose snapshot pool holds the frame table. -/
def Die.snapCtx (d : Die) : Option CtxDesc := (d.ctxs.find? fun c => (snapPool c.2).2 ≠ 0 && (snapPool c.2).1 = d.snapBase).map Prod.snd

/-- ARM (R321): the table is checked; else the bitmaps are cleared, COMMIT reads incomplete, and the snapshot is active. -/
def State.armSnapshot (s : State) (site : Nat) : State :=
  let d := s.die site
  let n := field d.snapCtl.toNat 32 32
  let es := if n ≤ 3145728 then s.snapEntries d.snapBase n else []
  if !frameTableOk site es then s.modDie site fun d => { d with snapCtl := setField d.snapCtl 3 1 1 }
  else
    let s1 := s.writePa (d.snapBase + 128 + 16 * n) 0 true false (List.replicate (64 * n) 0)
    (s1.putWord (d.snapBase + 88) (d.snapStep + 1)).modDie site fun d =>
      { d with
        snap := some { frames := es, dom := (d.snapCtx.map ctxDomain).getD 0
                       ncFrames := (d.snapCtx.map fun c => snapLeaves s (fun p => p.getLsbD 4) walkLevels (ctxRoot c false)).getD [] }
        snapCtl := setField (setField d.snapCtl 1 3 0) 1 1 1 }

/-- A write of SNAP_CTL (R320): NFR is kept, ARM is ignored while ACTIVE. -/
def State.writeSnapCtl (s : State) (site : Nat) (v : W64) : State :=
  let s1 := s.modDie site fun d => { d with snapCtl := setField d.snapCtl 32 32 (field v.toNat 32 32) }
  if v.getLsbD 0 && !(s.die site).snapActive then s1.armSnapshot site else s1

/-- R321 SNAPSHOT_ARM. -/
def execSnapshotArm (site : Nat) (ctl : W64) (s : State) : Out := .next (if ctl.getLsbD 0 then s.writeSnapCtl site ctl else s)

/-- R322 SNAPSHOT_BACKGROUND_COPY: an uncopied line is copied; a copied one is written back. -/
def execSnapshotBackgroundCopy (site frame line : Nat) (s : State) : Out :=
  .next (match (s.die site).snap with
    | none => s
    | some sn =>
      match sn.frames[frame]? with
      | none => s
      | some e =>
        if 512 ≤ line then s
        else if sn.copied.contains (frame, line) then (s.modDie site fun d => d.clean (e.2 / 128 + line)).snapCommit site
        else s.snapCopy site sn frame line sn.dom (sn.ncFrames.contains e.1))

/-! ## Slice writes, fills, walks -/

/-- R302 SLICE_WRITE: a held line that may be published lands at its home; in replay only in its turn there (R410). -/
def execSliceWrite (core idx : Nat) (s : State) : Out :=
  let site := siteOf core
  .next (match (s.core core).hold[idx]? with
    | none => s
    | some e =>
      let home := siteOfPa (e.pl.line * 128)
      if !s.mayPublish core e || (!e.pl.host && !(s.die home).enabled) then s
      else
        match s.publishRec core e with
        | none => (s.publish core idx e e.logged.isSome).snapCommit home
        | some none => ((s.diverge site e.owner.lseq e.owner.tidx).publish core idx e false).snapCommit home
        | some (some (pa, r)) =>
          if field (r.getD 3 0).toNat 0 48 ≠ (s.die home).sliceSeq.get 0 (homeSlice (e.pl.line * 128)) then s
          else ((s.consume site pa).publish core idx e true).snapCommit home)

/-- R299 LINE_FILL: the line of an address of a context is filled at its home. -/
def execLineFill (asid : Nat) (va : W64) (s : State) : Out :=
  .next (match (s.loadedOn asid).head? with
    | none => s
    | some site =>
      match s.translate site (site * 4) asid false va.toNat false with
      | .ok x => if (s.die (siteOfPa x.pa)).enabled then s.homeRead (lineOf x.pa) x.dom x.nc else s
      | .error _ => s)

/-- R313 PAGE_WALK. -/
def execPageWalk (core asid : Nat) (host : Bool) (va : W64) (write : Bool) (s : State) : Out :=
  .next (if ((s.die (siteOf core)).ctx? asid).isSome then s.walkFill (siteOf core) (clusterOf core) asid host va.toNat write else s)

/-! ## The fault queue -/

/-- A thread's page wait: page, kind, address, space, joined. -/
def Thread.pageOf (t : Thread) : Option (Nat × Nat × W64 × Space × Bool) :=
  match t.wait with
  | .page v k a sp _ j => if t.live then some (v, k, a, sp, j) else none
  | _ => none

def Warp.pageOf (w : Warp) : Option (Nat × Nat × W64 × Space × Bool) := w.threads.findSome? Thread.pageOf

/-- The warps of a die that wait for a context's page, by whether a record counts them. -/
def State.pageWaiters (s : State) (site asid vpage : Nat) (joined : Bool) : List (Nat × Warp) :=
  s.warps.filter fun p => siteOf (p.1 / 16) = site && p.2.asid = asid && p.2.pageOf.any fun f => f.1 = vpage && f.2.2.2.2 = joined

def Warp.joinRecord (w : Warp) : Warp :=
  { w with threads := w.threads.map fun t => match t.wait with | .page v k a sp o _ => { t with wait := .page v k a sp o true } | _ => t }

/-- The warp waits to write its spill slots back (R131). -/
def Warp.refilling (w : Warp) : Bool := w.pendingRestart.any fun x => !x.isEmpty

/-- A page fault becomes the event of its kind, at the faulting instruction (R315); a spill slot's, at the region head (R131). -/
def State.failPage (s : State) (key : Nat) (w : Warp) : State :=
  match w.pageOf with
  | none => s
  | some (_, k, a, sp, _) =>
    let mine (p : Bool → Bool) : List Nat :=
      (w.threads.filter fun t => match t.wait with | .page _ _ _ _ o _ => t.live && p o | _ => false).map Thread.lane
    let own := mine id
    let all := mine fun _ => true
    let s1 := s.modWarp key fun w =>
      { w with hangBase := s.cycle - w.hangBase, threads := w.threads.map fun t => if all.contains t.lane then { t with wait := .none } else t }
    s1.raiseIn key { code := if k = 2 then evAddrPerm else evAddrUnmapped, qual := if w.refilling then k else spaceCode sp * 4 + k, faddr := a }
      own all (!w.refilling)

/-- The answer is a retry: the warp restarts at its region head, or writes its spill slots back again (R131). -/
def State.retryPage (s : State) (key : Nat) (w : Warp) : State :=
  let s1 := s.modWarp key fun w => { w with hangBase := s.cycle - w.hangBase }
  if w.pendingRestart.isSome then
    s1.modWarp key fun w => { w with threads := w.threads.map fun t => if t.pageOf.isSome then { t with wait := t.ck.wait } else t }
  else s1.retryGroup key ((w.threads.filter fun t => t.live && !t.halted).map Thread.lane)

/-- R317 FAULT_RECORD_POST: the fault joins the record of its page, or a new record with every warp that waits for the page; with the
queue disabled it is raised at once. -/
def execFaultRecordPost (core slot : Nat) (s : State) : Out :=
  let site := siteOf core
  let d := s.die site
  .next (match s.warps.get? (wkey core slot) with
    | none => s
    | some w =>
      match w.pageOf with
      | none | some (_, _, _, _, true) => s
      | some (vpage, kind, _, _, false) =>
        let ws := s.pageWaiters site w.asid vpage false
        let join (s : State) : State := ws.foldl (fun s p => s.modWarp p.1 Warp.joinRecord) s
        if !s.dpage site w.asid then s.failPage (wkey core slot) w
        else if d.faults.any fun f => f.asid = w.asid && f.vpage = vpage then join s
        else
          let n := 2 ^ field d.fqCfg.toNat 0 5
          if n ≤ (d.fqHead + 2 ^ 32 - d.fqTail) % 2 ^ 32 then s
          else
            let words : List W64 :=
              [BitVec.ofNat 64 (vpage % 2 ^ 41 * 65536 + kind), BitVec.ofNat 64 (w.asid * 2 ^ 32 + Nat.min 65535 ws.length), BitVec.ofNat 64 d.fseq,
               BitVec.ofNat 64 (w.lseq % 2 ^ 32 * 2 ^ 32 + w.tidx % 2 ^ 32)]
            let s1 := s.putWords (field d.fqBase.toNat 12 52 * 4096 + 32 * (d.fqHead % n)) words
            join (s1.modDie site fun d =>
              { d with fqHead := (d.fqHead + 1) % 2 ^ 32, fseq := d.fseq + 1, faults := d.faults ++ [{ asid := w.asid, vpage := vpage }] }))

/-- AN ANSWER for the page of FQ_RESPVA releases every waiter together; one for no outstanding record is ignored (R317). -/
def State.answer (s : State) (site : Nat) (resp : W64) (f : State → Nat × Warp → State) : State :=
  let d := s.die site
  let asid := field resp.toNat 32 16
  let vpage := field d.fqRespVa.toNat 16 41
  if d.faults.any fun r => r.asid = asid && r.vpage = vpage then
    let s1 := s.modDie site fun d => { d with faults := d.faults.filter fun r => !(r.asid = asid && r.vpage = vpage) }
    (s.pageWaiters site asid vpage true).foldl f s1
  else s

/-- R316 FAULT_RETRY. -/
def execFaultRetry (site : Nat) (resp : W64) (s : State) : Out :=
  .next (if field resp.toNat 0 2 = 1 then s.answer site resp fun s p => s.retryPage p.1 p.2 else s)

/-- R316 FAULT_FAIL. -/
def execFaultFail (site : Nat) (resp : W64) (s : State) : Out :=
  .next (if field resp.toNat 0 2 = 2 then s.answer site resp fun s p => s.failPage p.1 p.2 else s)

/-! ## Invalidation (R314) -/

/-- The pages that an invalidation covers. -/
structure InvRange where
  all : Bool
  anyPage : Bool
  asid : Nat
  lo : Nat
  hi : Nat

def Die.invRange (d : Die) : InvRange :=
  let c := d.tlbCtl.toNat
  let sc := field c 1 2
  let lo := field d.tlbVa.toNat 16 41 * 65536
  { all := 2 ≤ sc, anyPage := 1 ≤ sc, asid := field c 32 16, lo := lo, hi := lo + (field c 16 16 + 1) * 65536 }

def InvRange.covers (r : InvRange) (asid a n : Nat) : Bool := r.all || (r.asid = asid && (r.anyPage || (a < r.hi && r.lo < a + n)))
/-- A held line whose bytes were stored through a covered translation. -/
def InvRange.held (r : InvRange) (e : HoldEntry) : Bool := r.covers e.owner.asid (e.va / 128 * 128) 128

/-- The held lines of a warp that an invalidation covers are published early (R314, R325), with records where the launch is logged. -/
def State.publishHeld (s : State) (r : InvRange) (p : Nat × Warp) : State :=
  let core := p.1 / 16
  let pick (e : HoldEntry) : Bool := e.openOf p.2.name && r.held e
  let n := ((s.core core).hold.filter pick).length
  if n = 0 then s
  else
    let (rec0, s1) : Option Nat × State :=
      if s.logMode (siteOf core) p.2.asid p.2.lseq = 1 then
        match s.reserve (siteOf core) n with
        | some (pa, s1) => (some pa, s1)
        | none => (none, s)
      else (none, s)
    s1.modCore core fun k => { k with hold := stampHold pick p.2.boundary rec0 k.hold }

/-- FORCE (R318): a pinning job ends with ADDR_UNMAPPED, a pinning launch with STATUS 0x03. -/
def State.endPin (s : State) (site : Nat) (p : PinRec) : State :=
  match p.job with
  | some (core, id) =>
    (match (s.core core).jobs.find? fun j => j.id = id with
     | some j => 
       let write := j.writes.any fun r => r.space = .global && r.lo = p.lo && r.len = p.len
       (s.dropJob core j).tagLower core j.tag j.id evAddrUnmapped (spaceCode .global * 4 + if write then 1 else 0)
     | none => s.modDie site fun d => { d with pins := d.pins.filter (· ≠ p) })
  | none => (s.stopLaunch p.asid p.lseq 3 evAddrUnmapped).modDie site fun d => { d with pins := d.pins.filter (· ≠ p) }

/-- A write of TLBINV_CTL. While GO reads 1 every write is ignored, one without GO too: R314 says so of a write that sets GO, and is silent
on the other (DESIGN CHOICE, log 31). GO starts the invalidation. Translations go at once, with the L1 lines filled through them and those of bytes stored
through them; such bytes are published, and accesses go on to their homes. -/
def State.startInvalidate (s : State) (site : Nat) (ctl : W64) : State :=
  if (s.die site).tlbCtl.getLsbD 0 then s
  else
    let s1 := s.modDie site fun d => { d with tlbCtl := ctl &&& 0x0000FFFFFFFF000F#64 }
    if !ctl.getLsbD 0 then s1
    else
      let r := (s1.die site).invRange
      let s2 : State :=
        { s1 with
          clusters := s1.clusters.mapVals fun cl c =>
            if cl / 4 = site then { c with tlb := c.tlb.filter fun e => !r.covers e.asid (e.base * 2 ^ e.log2) (2 ^ e.log2) } else c
          cores := s1.cores.mapVals fun core k =>
            if siteOf core = site then
              { k with l1 := k.l1.filter fun l => !(r.covers l.2.asid l.2.va 128 || k.hold.any fun e => !e.pl.host && e.pl.line = l.1 && r.held e)
                       utlb := k.utlb.filter fun e => !r.covers e.asid (e.base * 2 ^ e.log2) (2 ^ e.log2) }
            else k }
      let s3 := (s2.warps.filter fun p => siteOf (p.1 / 16) = site).foldl (fun s p => s.publishHeld r p) s2
      if ctl.getLsbD 3 then ((s3.die site).pins.filter fun p => r.covers p.asid p.lo p.len).foldl (fun s p => s.endPin site p) s3 else s3

/-- R314 TLB_INVALIDATE. -/
def execTlbInvalidate (site : Nat) (ctl : W64) (s : State) : Out := .next (if ctl.getLsbD 0 then s.startInvalidate site ctl else s)

/-- R314 TLB_INVALIDATE_COMPLETE: once what was stored and issued through old translations has reached its home, and no pin is left. -/
def execTlbInvalidateComplete (site : Nat) (s : State) : Out :=
  let d := s.die site
  let r := d.invRange
  let held := s.cores.any fun k => siteOf k.1 = site && k.2.hold.any fun e => r.held e && e.phase.isSome
  let open_ := s.dies.any fun x => x.2.det.any fun h => siteOf h.core = site && r.covers h.owner.asid h.va 8
  let pinned := d.pins.any fun p => r.covers p.asid p.lo p.len
  .next (if d.tlbCtl.getLsbD 0 && !held && !open_ && !pinned then s.modDie site fun d => { d with tlbCtl := setField d.tlbCtl 0 1 0 } else s)

/-! ## The DET window (R341) -/

/-- Keys of R341 in order. -/
def HomeOp.before (a b : HomeOp) : Bool :=
  a.owner.lseq < b.owner.lseq || (a.owner.lseq = b.owner.lseq && (a.wid < b.wid || (a.wid = b.wid && a.n < b.n)))

def lowestKey : List HomeOp → Option HomeOp
  | [] => none
  | h :: r =>
    match lowestKey r with
    | none => some h
    | some g => if g.before h then some g else some h

/-- R341 DET_WINDOW_RELEASE: the entry of lowest key of its location that has been held HOLD cycles, or the lowest of a full window. -/
def execDetWindowRelease (site slice : Nat) (s : State) : Out :=
  let d := s.die site
  let win := d.det.filter fun h => h.det && homeSlice h.pa = slice
  let hold := Nat.max 64 (field d.detcfg.toNat 0 16)
  let full := Config.detWindow ≤ win.length
  let span (h : HomeOp) : Nat := Nat.max 1 h.ty.bytes
  let lowest (h : HomeOp) : Bool := !(win.any fun g => g.pa < h.pa + span h && h.pa < g.pa + span g && g.before h)
  let due := if full then win else win.filter fun h => lowest h && h.arrive + hold ≤ s.cycle
  .next (match lowestKey due with
    | none => s
    | some h => if s.mayPerform h then (((s.modDie site fun d => { d with det := removeOp h d.det }).perform h).performAll).snapCommit site else s)

end Sys2Proof.Machine
end

