-- ==== Sys2Proof/Machine/Firmware.lean ====
section
/-! DEFINITION. Sys2Proof/Machine/Firmware.lean: firmware, the watchdog (R434, R435), corrected errors and restore (R436, R437), package
boot, Beryl and the management interface (R427-R430, R438, R440), and writes of registers (R6 and the rules of each register). -/

namespace Sys2Proof.Machine

open Sys2Proof

/-! ## The firmware watchdog (R435) -/

def fwLimit (v : W64) : Nat := if field v.toNat 0 32 = 0 then 600000 else field v.toNat 0 32

/-- A write of FWWDT. -/
def State.writeFwwdt (s : State) (site : Nat) (v : W64) : State :=
  s.modDie site fun d =>
    let fired := d.fwwdt.getLsbD 32 && !v.getLsbD 32
    { d with fwwdt := BitVec.ofNat 64 (field v.toNat 0 32 + (if fired then 2 ^ 32 else 0)), fwKickAt := if v.getLsbD 33 then s.cycle else d.fwKickAt }

/-- R435 FWWDT_KICK: a write with KICK set. -/
def execFwwdtKick (site : Nat) (v : W64) (s : State) : Out := .next (s.writeFwwdt site (v ||| (1#64 <<< 33)))

/-- A live block whose SEQ is odd is replaced by its image (R434, R435). -/
def QueueCtl.recover (c : QueueCtl) : QueueCtl := if c.seq % 2 = 1 then { c with seq := c.image } else c

/-- R435 FWWDT_FIRE: after LIMIT cycles without a kick. Frames stay valid; a packet read and not started is read again after recovery (R434). -/
def execFwwdtFire (site : Nat) (s : State) : Out :=
  let d := s.die site
  .next (if s.cycle < d.fwKickAt + fwLimit d.fwwdt then s
    else
      { s.setDie site { d with
          fwwdt := setField d.fwwdt 32 1 1, fwKickAt := s.cycle, qctl := d.qctl.mapVals fun _ c => c.recover, hq := d.hq.mapVals fun _ q => { q with packet := none } } with
        pkg := { s.pkg with pldm := .watchdog site :: s.pkg.pldm } })

/-! ## Corrected errors (R436) -/

/-- Contexts with a unit on a die, resident, saved or parked. -/
def State.unitCtxs (s : State) (site : Nat) : List Nat :=
  let d := s.die site
  let here := (s.wgs.filter fun g => siteOf (g.1 / 16) = site).map fun g => g.2.asid
  (here ++ (d.resume ++ d.parked).map SavedUnit.asid).foldl (fun (acc : List Nat) a => if acc.contains a then acc else acc ++ [a]) []

/-- R436 CORRECTED_ERROR: THRESH errors within one WINDOW raise a warning and start the contexts' snapshots. -/
def execCorrectedError (site : Nat) (s : State) : Out :=
  let d := s.die site
  let c := d.cerrCfg.toNat
  let thresh := if field c 32 16 = 0 then 64 else field c 32 16
  let window := field c 0 32 * 600
  let es := (d.cerrs.filter fun t => s.cycle ≤ t + window) ++ [s.cycle]
  .next (if es.length < thresh then s.setDie site { d with cerrs := es }
    else
      let s1 : State := { s.setDie site { d with cerrs := [] } with pkg := { s.pkg with pldm := .failureWarning site :: s.pkg.pldm } }
      (s.unitCtxs site).foldl (fun s a =>
        let s2 := s.post site a { rkind := 8, code := 0, aux := site }
        if (s2.snapDies a).all fun x => (snapPool x.2).2 ≠ 0 then s2.snapStart site a else s2) s1)

/-- A write of SHARD_RESTORE. -/
def State.writeShardRestore (s : State) (site : Nat) (v : W64) : State :=
  let slot := field v.toNat 0 12
  if !v.getLsbD 63 then s.modDie site fun d => { d with shardRestore := setField d.shardRestore 0 12 slot }
  else
    let (st, s1) := s.restoreShards site slot
    s1.modDie site fun d => { d with shardRestore := BitVec.ofNat 64 (st * 2 ^ 48 + slot) }

/-- R437 SHARD_RESTORE. -/
def execShardRestore (site : Nat) (v : W64) (s : State) : Out := .next (s.writeShardRestore site (v ||| (1#64 <<< 63)))

/-! ## Boot (R427, R430) -/

/-- Firmware's registers of a die as boot leaves them, and what it reports for measurement 6. -/
def Die.boot (d : Die) : Die := { d with enabled := true, xbscfg := setField d.xbscfg 8 1 1, schedcfg := setField d.schedcfg 32 1 0 }
def Die.measured (d : Die) : List W64 := [setField d.xbscfg 8 1 1, d.schedcfg, d.detcfg]

/-- R427 PACKAGE_BOOT: from whatever state, the package starts again; memory, the host and a stored image outlive it (log 22). The image
brings the lapidary's microcode (R20), and what is drawn for a boot is drawn again (R297, R300, R413). A wrong topology or signature holds
the package in safe mode. -/
def execPackageBoot (topologyOk signatureOk : Bool) (s : State) : Out :=
  let img := s.pkg.nextImage.or s.pkg.image
  let s0 : State := { State.reset with mem := s.mem, hostMem := s.hostMem, poison := s.poison, agenda := s.agenda, freeCtr := s.freeCtr }
  .next (if !topologyOk || !signatureOk then { s0 with pkg := { safeMode := true, topologyOk := topologyOk, image := img, boots := s.pkg.boots + 1 } }
    else
      { s0 with
        dies := s0.dies.mapVals fun _ d => { d.boot with bootNo := s.pkg.boots + 1 }
        pkg := { booted := true, image := img, microcode := img.getD [], boots := s.pkg.boots + 1, config := s0.dies.map fun p => (p.1, Die.measured p.2) } })

/-! ## Beryl (R428, R429) -/

/-- What Beryl's measurements are taken of (R428): the image, the lapidary's microcode of both kinds (R20), the straps, the configuration at LOCK. -/
def State.measuredBytes (s : State) : List Byte :=
  s.pkg.image.getD [] ++ s.pkg.microcode ++ (([0, 1, 2, 3].map fun i => leBytes 8 (s.die i).orient.toNat).flatten) ++
  ((s.pkg.config.map fun c => (c.2.map fun w => leBytes 8 w.toNat).flatten).flatten)

/-- Beryl answers a request: kinds 1 measurements, 2 certificate, 3 challenge, 4 key exchange, 5 key exchange refused. -/
def State.askBeryl (s : State) (kind : Nat) (req : List Byte) : State :=
  { s with pkg := { s.pkg with answer := Config.beryl kind (req ++ s.measuredBytes) } }

/-- R429. -/
def execSpdmGetMeasurements (req : List Byte) (s : State) : Out := .next (s.askBeryl 1 req)
/-- R429. -/
def execSpdmGetCertificate (req : List Byte) (s : State) : Out := .next (s.askBeryl 2 req)
/-- R429. -/
def execSpdmChallenge (req : List Byte) (s : State) : Out := .next (s.askBeryl 3 req)
/-- R429: at most 16 sessions. -/
def execSpdmKeyExchange (req : List Byte) (s : State) : Out :=
  .next (if s.pkg.sessions < 16 then
      let s1 := s.askBeryl 4 req
      { s1 with pkg := { s1.pkg with sessions := s1.pkg.sessions + 1 } }
    else s.askBeryl 5 req)

/-! ## Management and ports (R438, R440) -/

/-- R440: the power-limit effecter. -/
def execPldmPowerLimit (watts : Nat) (s : State) : Out :=
  .next (if 1000 ≤ watts && watts ≤ 3400 then { s with pkg := { s.pkg with powerLimit := watts } } else s)

/-- R440: an update is stored for the next boot. -/
def execPldmFirmwareUpdate (image : List Byte) (s : State) : Out := .next { s with pkg := { s.pkg with nextImage := some image } }

/-- R440: sensors 0-3 temperature and 4-7 power of the dies, 8-11 their corrected errors, 12-15 their watchdogs, 16 the topology (log 14). -/
def execPldmSensorRead (sensor : Nat) (s : State) : Out :=
  let v : Nat :=
    if sensor < 8 then (Config.sensor sensor s.freeCtr).toNat
    else if sensor < 12 then (s.die (sensor - 8)).cerrs.length
    else if sensor < 16 then (if (s.die (sensor - 12)).fwwdt.getLsbD 32 then 1 else 0)
    else if s.pkg.topologyOk then 0 else 1
  .next { s with pkg := { s.pkg with answer := leBytes 4 v }, freeCtr := s.freeCtr + 1 }

/-- R438: a port trains. -/
def execHostPortTrain (port : Nat) (s : State) : Out :=
  .next (if 1 < port || s.pkg.ports.contains port then s else { s with pkg := { s.pkg with ports := port :: s.pkg.ports } })

/-! ## Register writes -/

def keep (v : W64) (lo w : Nat) : W64 := BitVec.ofNat 64 (field v.toNat lo w * 2 ^ lo)

def unwrap (s : State) : Out → State
  | .next t => t
  | _ => s

/-- CTX_CMD (R420): GO performs OP. A write while GO reads 1 is ignored: R420 says only that GO reads 1 until done (DESIGN CHOICE, log 31). -/
def State.writeCtxCmd (s : State) (site : Nat) (v : W64) : State :=
  let slot := field v.toNat 0 12
  if (s.die site).ctxCmd.getLsbD 63 then s
  else if !v.getLsbD 63 then s.modDie site fun d => { d with ctxCmd := setField (setField d.ctxCmd 32 3 (field v.toNat 32 3)) 0 12 slot }
  else
    match field v.toNat 32 3 with
    | 1 => unwrap s (execCtxLoad site slot s)
    | 2 => unwrap s (execCtxTeardown site slot (s.ctxBusy site slot 2))
    | 3 => unwrap s (execCtxSave site slot s)
    | 4 => unwrap s (execCtxRestore site slot s)
    | op => s.modDie site fun d => { d with ctxCmd := setField (setField d.ctxCmd 32 3 op) 0 12 slot }

/-- VF_BIND (R420): locked with its TDI (R431). -/
def State.writeVfBind (s : State) (site vf : Nat) (v : W64) : State :=
  let f := (s.die site).vfs.get {} vf
  if f.tdi = .locked || f.tdi = .run then s.tdiError site vf
  else s.modVf site vf fun f => { f with bound := v.getLsbD 63, slot := field v.toNat 0 12 }

/-- The four registers of a host queue (R232). -/
def State.writeHq (s : State) (site q off : Nat) (v : W64) : State :=
  match off with
  | 0x00 => s.writeHqBase site q v
  | 0x08 => s.writeHqCfg site q v
  | 0x10 => s.doorbell site q v
  | _ => s

/-- Quotas of a domain (R309). -/
def Die.writeQuota (d : Die) (dom off : Nat) (v : W64) : Die :=
  let x := field v.toNat 0 21
  match off with
  | 0x00 => d.setDom dom fun r => { r with min := Nat.min 1572864 x }
  | 0x08 => d.setDom dom fun r => { r with max := x }
  | _ => d

/-- The control block of a die's physical function. -/
def State.writePf (s : State) (site off : Nat) (v : W64) : State :=
  let set (f : Die → Die) : State := s.modDie site f
  match off with
  | 0x0300 => set fun d => { d with tlbVa := keep v 16 41 }
  | 0x0308 => s.startInvalidate site v
  | 0x0340 => set fun d => { d with fqBase := keep v 12 52 }
  | 0x0348 =>
    let lg := field v.toNat 0 5
    set fun d => { d with fqCfg := BitVec.ofNat 64 (lg + (if v.getLsbD 31 && 6 ≤ lg && lg ≤ 16 then 2 ^ 31 else 0)) }
  | 0x0358 => set fun d => { d with fqTail := field v.toNat 0 32 }
  | 0x0360 =>
    (match field v.toNat 0 2 with
     | 1 => unwrap s (execFaultRetry site v s)
     | 2 => unwrap s (execFaultFail site v s)
     | _ => s)
  | 0x0368 => set fun d => { d with fqRespVa := keep v 16 41 }
  | 0x0480 => set fun d => if d.smpModeRead = 0 then { d with smpBase := keep57 v } else d
  | 0x0488 => set fun d => d.writeSmpLimit v
  | 0x0490 => set fun d => if d.smpModeRead = 0 then { d with smpHead := keep57 v } else d
  | 0x0498 => set fun d => d.writeSmpCtl site v
  | 0x04A0 => set fun d => { d with smpScfg := keep v 0 5 }
  | 0x0500 => set fun d => if d.ctxs.isEmpty then { d with ctxBase := keep v 20 37 } else d
  | 0x0508 => s.writeCtxCmd site v
  | 0x0520 => s.writeShardRestore site v
  | _ =>
    if 0x0600 ≤ off && off < 0x0DF8 && off % 8 = 0 then s.writeVfBind site ((off - 0x0600) / 8 + 1) v
    else if 0x1000 ≤ off && off < 0x1800 then s.writeHq site ((off - 0x1000) / 32) ((off - 0x1000) % 32) v
    else if 0x100000 ≤ off && off < 0x140000 then set fun d => d.writeQuota ((off - 0x100000) / 64) ((off - 0x100000) % 64) v
    else s

/-- The control block of a virtual function (R234, R384). -/
def State.writeVf (s : State) (site vf off : Nat) (v : W64) : State :=
  if vf = 0 || 255 < vf then s
  else
    match off with
    | 0x2100 => if v.getLsbD 0 then s.modVf site vf fun f => { f with dbgCtl := keep v 0 2 } else unwrap s (execDebugDetach site vf v s)
    | 0x2108 => s.modVf site vf fun f => { f with haltSet := v }
    | _ =>
      if 0x1000 ≤ off && off < 0x1800 && (off - 0x1000) % 32 = 16 then unwrap s (execHqDoorbell site vf ((off - 0x1000) / 32) v s) else s

/-- A die's firmware registers. -/
def State.writeFw (s : State) (site off : Nat) (v : W64) : State :=
  let set (f : Die → Die) : State := s.modDie site f
  match off with
  | 0x0040 => unwrap s (execXbsCfgWrite site v s)
  | 0x0048 => set fun d => { d with schedcfg := keep v 0 33 }
  | 0x00C0 => set fun d => { d with snapSft := keep v 12 52 }
  | 0x00C8 => s.writeSnapCtl site v
  | 0x00D0 => set fun d => { d with snapStep := v }
  | 0x00E0 => set fun d => { d with detcfg := keep v 0 16 }
  | 0x00F0 => s.writeFwwdt site v
  | 0x00F8 => set fun d => { d with cerrCfg := keep v 0 48 }
  | _ => s

/-- The debug window's DW_SEL (R382): GO performs OP. -/
def State.writeDwSel (s : State) (core : Nat) (v : W64) : State :=
  if !v.getLsbD 63 then s.modCore core fun k => { k with dwSel := v &&& 0x0000003FFFFFF7FF#64 }
  else
    match field v.toNat 36 2 with
    | 0 => unwrap s (execDwReadValue core v s)
    | 1 => unwrap s (execDwWriteValue core v s)
    | 2 => unwrap s (execDwReadControl core v s)
    | _ => unwrap s (execDwResume core v s)

/-- A core's firmware register block. -/
def State.writeCore (s : State) (core off : Nat) (v : W64) : State :=
  let set (f : Core → Core) : State := s.modCore core f
  match off with
  | 0x0080 =>
    -- the turn under way keeps the interval with which it began (R182)
    { set (fun k => { k with fairt := keep v 0 16 }) with
      warps := s.warps.mapVals fun key w => if key / 16 = core then { w with fairPin := w.fairPin.or (some (s.core core).fairt) } else w }
  | 0x0088 =>
    -- what accrued so far accrued at the old share (R244)
    ([0, 1, 2, 3].foldl (fun s i => s.settleCredits core i) s).modCore core fun k => { k with fwshare := keep v 0 4 }
  | 0x0090 => set fun k => { k with hangcfg := keep v 0 7 }
  | 0x0700 => s.writeDwSel core v
  | 0x0708 => set fun k => { k with dwData := v }
  | 0x0710 => set fun k => { k with dwAux := keep v 0 6 }
  | _ =>
    -- SLIPW of each warp slot (R133; where it stands: log 36); WIN is read-only
    if 0x1000 ≤ off && off < 0x1080 && off % 8 = 0 then s.modWarp (wkey core ((off - 0x1000) / 8)) fun w => { w with chk := v.getLsbD 7 } else s

/-- R6 REGISTER_WRITE: reserved fields and read-only registers ignore the write. -/
def execRegisterWrite (blk : RegBlock) (off : Nat) (v : W64) (s : State) : Out :=
  .next (match blk with
    | .pf site => s.writePf site off v
    | .vf site vf => s.writeVf site vf off v
    | .fw site => s.writeFw site off v
    | .core c => s.writeCore c off v)

end Sys2Proof.Machine
end

