-- ==== Sys2Proof/Machine/Dispatch.lean ====
section
/-! DEFINITION. Sys2Proof/Machine/Dispatch.lean: one arm per constructor of `Instr`, each one call of its meaning. -/

namespace Sys2Proof.Machine

open Sys2Proof

def exec (i : Instr) (s : State) : Host.Outcome State Fault Refusal :=
  match i with
  | .nop => Sys2Proof.Machine.execNop s
  | .br a1 a2 => Sys2Proof.Machine.execBr a1 a2 s
  | .brc a1 a2 a3 a4 a5 => Sys2Proof.Machine.execBrc a1 a2 a3 a4 a5 s
  | .switch a1 a2 a3 a4 => Sys2Proof.Machine.execSwitch a1 a2 a3 a4 s
  | .call a1 a2 a3 => Sys2Proof.Machine.execCall a1 a2 a3 s
  | .ret => Sys2Proof.Machine.execRet s
  | .retValue a1 => Sys2Proof.Machine.execRetValue a1 s
  | .exit => Sys2Proof.Machine.execExit s
  | .unreachable => Sys2Proof.Machine.execUnreachable s
  | .select a1 a2 a3 a4 a5 => Sys2Proof.Machine.execSelect a1 a2 a3 a4 a5 s
  | .regn => Sys2Proof.Machine.execRegn s
  | .yield => Sys2Proof.Machine.execYield s
  | .join a1 => Sys2Proof.Machine.execJoin a1 s
  | .joinCond a1 a2 => Sys2Proof.Machine.execJoinCond a1 a2 s
  | .leave a1 => Sys2Proof.Machine.execLeave a1 s
  | .leaveCond a1 a2 => Sys2Proof.Machine.execLeaveCond a1 a2 s
  | .waitm a1 => Sys2Proof.Machine.execWaitm a1 s
  | .mrdP a1 => Sys2Proof.Machine.execMrdP a1 s
  | .mrdB64 a1 a2 => Sys2Proof.Machine.execMrdB64 a1 a2 s
  | .vote a1 a2 a3 => Sys2Proof.Machine.execVote a1 a2 a3 s
  | .voteBallot a1 a2 a3 => Sys2Proof.Machine.execVoteBallot a1 a2 a3 s
  | .add a1 a2 a3 a4 a5 a6 => Sys2Proof.Machine.execAdd a1 a2 a3 a4 a5 a6 s
  | .sub a1 a2 a3 a4 a5 a6 => Sys2Proof.Machine.execSub a1 a2 a3 a4 a5 a6 s
  | .mul a1 a2 a3 a4 a5 a6 => Sys2Proof.Machine.execMul a1 a2 a3 a4 a5 a6 s
  | .mulhi a1 a2 a3 a4 a5 => Sys2Proof.Machine.execMulhi a1 a2 a3 a4 a5 s
  | .mad a1 a2 a3 a4 a5 a6 a7 => Sys2Proof.Machine.execMad a1 a2 a3 a4 a5 a6 a7 s
  | .div a1 a2 a3 a4 a5 a6 a7 => Sys2Proof.Machine.execDiv a1 a2 a3 a4 a5 a6 a7 s
  | .rem a1 a2 a3 a4 a5 a6 => Sys2Proof.Machine.execRem a1 a2 a3 a4 a5 a6 s
  | .neg a1 a2 a3 a4 a5 => Sys2Proof.Machine.execNeg a1 a2 a3 a4 a5 s
  | .abs a1 a2 a3 a4 => Sys2Proof.Machine.execAbs a1 a2 a3 a4 s
  | .min a1 a2 a3 a4 a5 => Sys2Proof.Machine.execMin a1 a2 a3 a4 a5 s
  | .max a1 a2 a3 a4 a5 => Sys2Proof.Machine.execMax a1 a2 a3 a4 a5 s
  | .and a1 a2 a3 a4 => Sys2Proof.Machine.execAnd a1 a2 a3 a4 s
  | .or a1 a2 a3 a4 => Sys2Proof.Machine.execOr a1 a2 a3 a4 s
  | .xor a1 a2 a3 a4 => Sys2Proof.Machine.execXor a1 a2 a3 a4 s
  | .not a1 a2 a3 => Sys2Proof.Machine.execNot a1 a2 a3 s
  | .shl a1 a2 a3 a4 => Sys2Proof.Machine.execShl a1 a2 a3 a4 s
  | .shr a1 a2 a3 a4 a5 => Sys2Proof.Machine.execShr a1 a2 a3 a4 a5 s
  | .rot a1 a2 a3 a4 => Sys2Proof.Machine.execRot a1 a2 a3 a4 s
  | .clz a1 a2 a3 => Sys2Proof.Machine.execClz a1 a2 a3 s
  | .popc a1 a2 a3 => Sys2Proof.Machine.execPopc a1 a2 a3 s
  | .bfx a1 a2 a3 a4 a5 a6 => Sys2Proof.Machine.execBfx a1 a2 a3 a4 a5 a6 s
  | .bfi a1 a2 a3 a4 a5 a6 => Sys2Proof.Machine.execBfi a1 a2 a3 a4 a5 a6 s
  | .brev a1 a2 a3 => Sys2Proof.Machine.execBrev a1 a2 a3 s
  | .cmp a1 a2 a3 a4 a5 a6 => Sys2Proof.Machine.execCmp a1 a2 a3 a4 a5 a6 s
  | .lea a1 a2 a3 a4 a5 => Sys2Proof.Machine.execLea a1 a2 a3 a4 a5 s
  | .cvti a1 a2 a3 a4 a5 => Sys2Proof.Machine.execCvti a1 a2 a3 a4 a5 s
  | .cst a1 a2 => Sys2Proof.Machine.execCst a1 a2 s
  | .sreg a1 a2 => Sys2Proof.Machine.execSreg a1 a2 s
  | .shfl a1 a2 a3 a4 a5 a6 => Sys2Proof.Machine.execShfl a1 a2 a3 a4 a5 a6 s
  | .bcast a1 a2 a3 a4 => Sys2Proof.Machine.execBcast a1 a2 a3 a4 s
  | .bcastFirst a1 a2 a3 => Sys2Proof.Machine.execBcastFirst a1 a2 a3 s
  | .scan a1 a2 a3 a4 a5 a6 => Sys2Proof.Machine.execScan a1 a2 a3 a4 a5 a6 s
  | .wred a1 a2 a3 a4 a5 => Sys2Proof.Machine.execWred a1 a2 a3 a4 a5 s
  | .fadd a1 a2 a3 a4 a5 a6 => Sys2Proof.Machine.execFadd a1 a2 a3 a4 a5 a6 s
  | .fsub a1 a2 a3 a4 a5 a6 => Sys2Proof.Machine.execFsub a1 a2 a3 a4 a5 a6 s
  | .fmul a1 a2 a3 a4 a5 a6 => Sys2Proof.Machine.execFmul a1 a2 a3 a4 a5 a6 s
  | .fma a1 a2 a3 a4 a5 a6 a7 => Sys2Proof.Machine.execFma a1 a2 a3 a4 a5 a6 a7 s
  | .fmin a1 a2 a3 a4 => Sys2Proof.Machine.execFmin a1 a2 a3 a4 s
  | .fmax a1 a2 a3 a4 => Sys2Proof.Machine.execFmax a1 a2 a3 a4 s
  | .fabs a1 a2 a3 => Sys2Proof.Machine.execFabs a1 a2 a3 s
  | .fneg a1 a2 a3 => Sys2Proof.Machine.execFneg a1 a2 a3 s
  | .fcmp a1 a2 a3 a4 a5 => Sys2Proof.Machine.execFcmp a1 a2 a3 a4 a5 s
  | .fdiv a1 a2 a3 a4 a5 a6 => Sys2Proof.Machine.execFdiv a1 a2 a3 a4 a5 a6 s
  | .fsqrt a1 a2 a3 a4 a5 => Sys2Proof.Machine.execFsqrt a1 a2 a3 a4 a5 s
  | .frcp a1 a2 a3 a4 a5 => Sys2Proof.Machine.execFrcp a1 a2 a3 a4 a5 s
  | .frsq a1 a2 a3 a4 a5 => Sys2Proof.Machine.execFrsq a1 a2 a3 a4 a5 s
  | .fexp2 a1 a2 a3 a4 a5 => Sys2Proof.Machine.execFexp2 a1 a2 a3 a4 a5 s
  | .flog2 a1 a2 a3 a4 a5 => Sys2Proof.Machine.execFlog2 a1 a2 a3 a4 a5 s
  | .fsin a1 a2 a3 a4 a5 => Sys2Proof.Machine.execFsin a1 a2 a3 a4 a5 s
  | .fcos a1 a2 a3 a4 a5 => Sys2Proof.Machine.execFcos a1 a2 a3 a4 a5 s
  | .ftanh a1 a2 a3 a4 a5 => Sys2Proof.Machine.execFtanh a1 a2 a3 a4 a5 s
  | .fsig a1 a2 a3 a4 a5 => Sys2Proof.Machine.execFsig a1 a2 a3 a4 a5 s
  | .frnd a1 a2 a3 a4 => Sys2Proof.Machine.execFrnd a1 a2 a3 a4 s
  | .fcvt a1 a2 a3 a4 a5 => Sys2Proof.Machine.execFcvt a1 a2 a3 a4 a5 s
  | .f2i a1 a2 a3 a4 a5 a6 => Sys2Proof.Machine.execF2i a1 a2 a3 a4 a5 a6 s
  | .i2f a1 a2 a3 a4 a5 a6 => Sys2Proof.Machine.execI2f a1 a2 a3 a4 a5 a6 s
  | .fclass a1 a2 a3 => Sys2Proof.Machine.execFclass a1 a2 a3 s
  | .pdot a1 a2 a3 a4 a5 a6 a7 a8 => Sys2Proof.Machine.execPdot a1 a2 a3 a4 a5 a6 a7 a8 s
  | .pwid a1 a2 a3 a4 a5 a6 a7 => Sys2Proof.Machine.execPwid a1 a2 a3 a4 a5 a6 a7 s
  | .pnar a1 a2 a3 a4 a5 a6 a7 => Sys2Proof.Machine.execPnar a1 a2 a3 a4 a5 a6 a7 s
  | .cbdec a1 a2 a3 a4 a5 => Sys2Proof.Machine.execCbdec a1 a2 a3 a4 a5 s
  | .cbenc a1 a2 a3 a4 => Sys2Proof.Machine.execCbenc a1 a2 a3 a4 s
  | .fldx a1 a2 a3 a4 a5 a6 => Sys2Proof.Machine.execFldx a1 a2 a3 a4 a5 a6 s
  | .ftag a1 a2 a3 => Sys2Proof.Machine.execFtag a1 a2 a3 s
  | .ftagGet a1 a2 => Sys2Proof.Machine.execFtagGet a1 a2 s
  | .ld a1 a2 a3 a4 a5 a6 => Sys2Proof.Machine.execLd a1 a2 a3 a4 a5 a6 s
  | .st a1 a2 a3 a4 a5 a6 a7 => Sys2Proof.Machine.execSt a1 a2 a3 a4 a5 a6 a7 s
  | .ldb a1 a2 a3 a4 a5 a6 => Sys2Proof.Machine.execLdb a1 a2 a3 a4 a5 a6 s
  | .stb a1 a2 a3 a4 a5 a6 a7 => Sys2Proof.Machine.execStb a1 a2 a3 a4 a5 a6 a7 s
  | .prefetch a1 a2 a3 a4 => Sys2Proof.Machine.execPrefetch a1 a2 a3 a4 s
  | .cctl a1 a2 a3 => Sys2Proof.Machine.execCctl a1 a2 a3 s
  | .atom a1 a2 a3 a4 a5 a6 a7 a8 a9 => Sys2Proof.Machine.execAtom a1 a2 a3 a4 a5 a6 a7 a8 a9 s
  | .atomc a1 a2 a3 a4 a5 a6 a7 a8 => Sys2Proof.Machine.execAtomc a1 a2 a3 a4 a5 a6 a7 a8 s
  | .red a1 a2 a3 a4 a5 a6 a7 a8 a9 => Sys2Proof.Machine.execRed a1 a2 a3 a4 a5 a6 a7 a8 a9 s
  | .fence a1 a2 => Sys2Proof.Machine.execFence a1 a2 s
  | .phase => Sys2Proof.Machine.execPhase s
  | .gld a1 a2 a3 a4 a5 a6 a7 a8 a9 a10 => Sys2Proof.Machine.execGld a1 a2 a3 a4 a5 a6 a7 a8 a9 a10 s
  | .gst a1 a2 a3 a4 a5 a6 a7 a8 a9 a10 => Sys2Proof.Machine.execGst a1 a2 a3 a4 a5 a6 a7 a8 a9 a10 s
  | .shp a1 => Sys2Proof.Machine.execShp a1 s
  | .shpFree a1 => Sys2Proof.Machine.execShpFree a1 s
  | .taddr a1 a2 a3 => Sys2Proof.Machine.execTaddr a1 a2 a3 s
  | .ldt a1 a2 a3 a4 a5 => Sys2Proof.Machine.execLdt a1 a2 a3 a4 a5 s
  | .cpy a1 a2 a3 a4 a5 a6 a7 a8 => Sys2Proof.Machine.execCpy a1 a2 a3 a4 a5 a6 a7 a8 s
  | .cpyShape a1 a2 a3 a4 a5 a6 a7 a8 a9 => Sys2Proof.Machine.execCpyShape a1 a2 a3 a4 a5 a6 a7 a8 a9 s
  | .cpyw a1 a2 => Sys2Proof.Machine.execCpyw a1 a2 s
  | .cpyf a1 a2 a3 a4 a5 a6 a7 a8 => Sys2Proof.Machine.execCpyf a1 a2 a3 a4 a5 a6 a7 a8 s
  | .cpyq a1 a2 a3 a4 a5 a6 a7 a8 a9 a10 a11 a12 => Sys2Proof.Machine.execCpyq a1 a2 a3 a4 a5 a6 a7 a8 a9 a10 a11 a12 s
  | .cjoin a1 a2 => Sys2Proof.Machine.execCjoin a1 a2 s
  | .cleave => Sys2Proof.Machine.execCleave s
  | .cmap a1 => Sys2Proof.Machine.execCmap a1 s
  | .colr a1 a2 => Sys2Proof.Machine.execColr a1 a2 s
  | .orsv a1 a2 a3 a4 a5 a6 a7 a8 => Sys2Proof.Machine.execOrsv a1 a2 a3 a4 a5 a6 a7 a8 s
  | .orel a1 => Sys2Proof.Machine.execOrel a1 s
  | .ofill a1 a2 a3 a4 a5 => Sys2Proof.Machine.execOfill a1 a2 a3 a4 a5 s
  | .bfill a1 a2 a3 a4 => Sys2Proof.Machine.execBfill a1 a2 a3 a4 s
  | .sclq a1 a2 a3 a4 => Sys2Proof.Machine.execSclq a1 a2 a3 a4 s
  | .cbld a1 a2 a3 => Sys2Proof.Machine.execCbld a1 a2 a3 s
  | .cbldAddr a1 a2 a3 a4 => Sys2Proof.Machine.execCbldAddr a1 a2 a3 a4 s
  | .aacq a1 => Sys2Proof.Machine.execAacq a1 s
  | .arel a1 => Sys2Proof.Machine.execArel a1 s
  | .mma a1 a2 a3 a4 => Sys2Proof.Machine.execMma a1 a2 a3 a4 s
  | .mmsp a1 a2 a3 a4 => Sys2Proof.Machine.execMmsp a1 a2 a3 a4 s
  | .acrd a1 a2 a3 a4 a5 a6 a7 => Sys2Proof.Machine.execAcrd a1 a2 a3 a4 a5 a6 a7 s
  | .acwr a1 a2 a3 a4 a5 a6 => Sys2Proof.Machine.execAcwr a1 a2 a3 a4 a5 a6 s
  | .acwrZero a1 => Sys2Proof.Machine.execAcwrZero a1 s
  | .sign a1 => Sys2Proof.Machine.execSign a1 s
  | .cvset a1 a2 => Sys2Proof.Machine.execCvset a1 a2 s
  | .gsync => Sys2Proof.Machine.execGsync s
  | .mstat a1 => Sys2Proof.Machine.execMstat a1 s
  | .barv a1 a2 => Sys2Proof.Machine.execBarv a1 a2 s
  | .barw a1 a2 => Sys2Proof.Machine.execBarw a1 a2 s
  | .bars a1 a2 => Sys2Proof.Machine.execBars a1 a2 s
  | .bmem a1 a2 a3 => Sys2Proof.Machine.execBmem a1 a2 a3 s
  | .bcnt a1 => Sys2Proof.Machine.execBcnt a1 s
  | .prgqB64 => Sys2Proof.Machine.execPrgqB64 s
  | .prgqP => Sys2Proof.Machine.execPrgqP s
  | .sleep a1 a2 => Sys2Proof.Machine.execSleep a1 a2 s
  | .flagw a1 a2 a3 a4 a5 => Sys2Proof.Machine.execFlagw a1 a2 a3 a4 a5 s
  | .launch a1 a2 => Sys2Proof.Machine.execLaunch a1 a2 s
  | .ljoin => Sys2Proof.Machine.execLjoin s
  | .lquery a1 => Sys2Proof.Machine.execLquery a1 s
  | .wsplit => Sys2Proof.Machine.execWsplit s
  | .migrate a1 a2 => Sys2Proof.Machine.execMigrate a1 a2 s
  | .wdone => Sys2Proof.Machine.execWdone s
  | .trap a1 a2 => Sys2Proof.Machine.execTrap a1 a2 s
  | .brkpt a1 => Sys2Proof.Machine.execBrkpt a1 s
  | .tprf a1 a2 => Sys2Proof.Machine.execTprf a1 a2 s
  | .tprfHandle a1 a2 a3 => Sys2Proof.Machine.execTprfHandle a1 a2 a3 s
  | .clock a1 => Sys2Proof.Machine.execClock a1 s
  | .smpl a1 => Sys2Proof.Machine.execSmpl a1 s
  | .watch a1 a2 a3 => Sys2Proof.Machine.execWatch a1 a2 a3 s
  | .unwatch a1 => Sys2Proof.Machine.execUnwatch a1 s
  | .logm a1 a2 a3 a4 => Sys2Proof.Machine.execLogm a1 a2 a3 a4 s
  | .rgn a1 => Sys2Proof.Machine.execRgn a1 s
  | .ckst a1 a2 a3 => Sys2Proof.Machine.execCkst a1 a2 a3 s
  | .ckld a1 a2 a3 => Sys2Proof.Machine.execCkld a1 a2 a3 s
  | .vsp a1 a2 => Sys2Proof.Machine.execVsp a1 a2 s
  | .vfl a1 a2 => Sys2Proof.Machine.execVfl a1 a2 s
  | .rotWindow a1 a2 => Sys2Proof.Machine.execRotWindow a1 a2 s
  | .waitc a1 a2 a3 => Sys2Proof.Machine.execWaitc a1 a2 a3 s
  | .mvw a1 a2 => Sys2Proof.Machine.execMvw a1 a2 s
  | .mvz a1 a2 => Sys2Proof.Machine.execMvz a1 a2 s
  | .qpsh a1 a2 => Sys2Proof.Machine.execQpsh a1 a2 s
  | .qpop a1 a2 => Sys2Proof.Machine.execQpop a1 a2 s
  | .bundleStep a1 a2 a3 => Sys2Proof.Machine.execBundleStep a1 a2 a3 s
  | .loadComplete a1 a2 a3 => Sys2Proof.Machine.execLoadComplete a1 a2 a3 s
  | .schedulerIssue a1 a2 => Sys2Proof.Machine.execSchedulerIssue a1 a2 s
  | .firmwareCredit a1 a2 => Sys2Proof.Machine.execFirmwareCredit a1 a2 s
  | .fairnessTimerExpiry a1 a2 => Sys2Proof.Machine.execFairnessTimerExpiry a1 a2 s
  | .hang a1 a2 => Sys2Proof.Machine.execHang a1 a2 s
  | .sleepWake a1 a2 => Sys2Proof.Machine.execSleepWake a1 a2 s
  | .flagwRepoll a1 a2 => Sys2Proof.Machine.execFlagwRepoll a1 a2 s
  | .translationDemand a1 a2 => Sys2Proof.Machine.execTranslationDemand a1 a2 s
  | .translationServe a1 => Sys2Proof.Machine.execTranslationServe a1 s
  | .translationComplete a1 => Sys2Proof.Machine.execTranslationComplete a1 s
  | .hqDoorbell a1 a2 a3 a4 => Sys2Proof.Machine.execHqDoorbell a1 a2 a3 a4 s
  | .hqEnable a1 a2 a3 => Sys2Proof.Machine.execHqEnable a1 a2 a3 s
  | .hqDisable a1 a2 a3 => Sys2Proof.Machine.execHqDisable a1 a2 a3 s
  | .packetRead a1 => Sys2Proof.Machine.execPacketRead a1 s
  | .launchAccept a1 a2 => Sys2Proof.Machine.execLaunchAccept a1 a2 s
  | .launchCompletion a1 a2 => Sys2Proof.Machine.execLaunchCompletion a1 a2 s
  | .walkerDispatch a1 a2 => Sys2Proof.Machine.execWalkerDispatch a1 a2 s
  | .splitRequest a1 a2 a3 => Sys2Proof.Machine.execSplitRequest a1 a2 a3 s
  | .split a1 a2 => Sys2Proof.Machine.execSplit a1 a2 s
  | .drainNotice a1 a2 => Sys2Proof.Machine.execDrainNotice a1 a2 s
  | .unitBlocked a1 a2 => Sys2Proof.Machine.execUnitBlocked a1 a2 s
  | .priorityPreemption a1 a2 => Sys2Proof.Machine.execPriorityPreemption a1 a2 s
  | .timeSlice a1 a2 a3 => Sys2Proof.Machine.execTimeSlice a1 a2 a3 s
  | .preemption a1 a2 a3 => Sys2Proof.Machine.execPreemption a1 a2 a3 s
  | .resumePlacement a1 => Sys2Proof.Machine.execResumePlacement a1 s
  | .parkResume a1 => Sys2Proof.Machine.execParkResume a1 s
  | .landedWarpPlacement a1 a2 => Sys2Proof.Machine.execLandedWarpPlacement a1 a2 s
  | .warpRestart a1 a2 => Sys2Proof.Machine.execWarpRestart a1 a2 s
  | .workgroupRelease a1 a2 => Sys2Proof.Machine.execWorkgroupRelease a1 a2 s
  | .jobStart a1 a2 => Sys2Proof.Machine.execJobStart a1 a2 s
  | .jobComplete a1 a2 => Sys2Proof.Machine.execJobComplete a1 a2 s
  | .tileOpComplete a1 => Sys2Proof.Machine.execTileOpComplete a1 s
  | .scaleEntryArrival a1 a2 => Sys2Proof.Machine.execScaleEntryArrival a1 a2 s
  | .sliceWrite a1 a2 => Sys2Proof.Machine.execSliceWrite a1 a2 s
  | .lineFill a1 a2 => Sys2Proof.Machine.execLineFill a1 a2 s
  | .pageWalk a1 a2 a3 a4 a5 => Sys2Proof.Machine.execPageWalk a1 a2 a3 a4 a5 s
  | .faultRecordPost a1 a2 => Sys2Proof.Machine.execFaultRecordPost a1 a2 s
  | .faultRetry a1 a2 => Sys2Proof.Machine.execFaultRetry a1 a2 s
  | .faultFail a1 a2 => Sys2Proof.Machine.execFaultFail a1 a2 s
  | .tlbInvalidate a1 a2 => Sys2Proof.Machine.execTlbInvalidate a1 a2 s
  | .tlbInvalidateComplete a1 => Sys2Proof.Machine.execTlbInvalidateComplete a1 s
  | .detWindowRelease a1 a2 => Sys2Proof.Machine.execDetWindowRelease a1 a2 s
  | .snapshotArm a1 a2 => Sys2Proof.Machine.execSnapshotArm a1 a2 s
  | .snapshotBackgroundCopy a1 a2 a3 => Sys2Proof.Machine.execSnapshotBackgroundCopy a1 a2 a3 s
  | .faultFrame a1 a2 => Sys2Proof.Machine.execFaultFrame a1 a2 s
  | .disposition a1 a2 => Sys2Proof.Machine.execDisposition a1 a2 s
  | .handlerReturn a1 a2 => Sys2Proof.Machine.execHandlerReturn a1 a2 s
  | .coreDump a1 a2 => Sys2Proof.Machine.execCoreDump a1 a2 s
  | .dwReadValue a1 a2 => Sys2Proof.Machine.execDwReadValue a1 a2 s
  | .dwWriteValue a1 a2 => Sys2Proof.Machine.execDwWriteValue a1 a2 s
  | .dwReadControl a1 a2 => Sys2Proof.Machine.execDwReadControl a1 a2 s
  | .dwResume a1 a2 => Sys2Proof.Machine.execDwResume a1 a2 s
  | .debugDetach a1 a2 a3 => Sys2Proof.Machine.execDebugDetach a1 a2 a3 s
  | .uncorrectable a1 => Sys2Proof.Machine.execUncorrectable a1 s
  | .dieReset a1 => Sys2Proof.Machine.execDieReset a1 s
  | .dieEnable a1 => Sys2Proof.Machine.execDieEnable a1 s
  | .flrPf a1 => Sys2Proof.Machine.execFlrPf a1 s
  | .flrVf a1 a2 => Sys2Proof.Machine.execFlrVf a1 a2 s
  | .ctxLoad a1 a2 => Sys2Proof.Machine.execCtxLoad a1 a2 s
  | .ctxTeardown a1 a2 => Sys2Proof.Machine.execCtxTeardown a1 a2 s
  | .ctxSave a1 a2 => Sys2Proof.Machine.execCtxSave a1 a2 s
  | .ctxRestore a1 a2 => Sys2Proof.Machine.execCtxRestore a1 a2 s
  | .smpArm a1 a2 => Sys2Proof.Machine.execSmpArm a1 a2 s
  | .smpDisarm a1 a2 => Sys2Proof.Machine.execSmpDisarm a1 a2 s
  | .smpLimitRaise a1 a2 => Sys2Proof.Machine.execSmpLimitRaise a1 a2 s
  | .sampleTag a1 a2 => Sys2Proof.Machine.execSampleTag a1 a2 s
  | .sampleRecord a1 a2 => Sys2Proof.Machine.execSampleRecord a1 a2 s
  | .fwwdtKick a1 a2 => Sys2Proof.Machine.execFwwdtKick a1 a2 s
  | .fwwdtFire a1 => Sys2Proof.Machine.execFwwdtFire a1 s
  | .correctedError a1 => Sys2Proof.Machine.execCorrectedError a1 s
  | .shardRestore a1 a2 => Sys2Proof.Machine.execShardRestore a1 a2 s
  | .packageBoot a1 a2 => Sys2Proof.Machine.execPackageBoot a1 a2 s
  | .scrubComplete a1 => Sys2Proof.Machine.execScrubComplete a1 s
  | .backingStoreFetch a1 => Sys2Proof.Machine.execBackingStoreFetch a1 s
  | .xbsCfgWrite a1 a2 => Sys2Proof.Machine.execXbsCfgWrite a1 a2 s
  | .lockInterface a1 a2 => Sys2Proof.Machine.execLockInterface a1 a2 s
  | .startInterface a1 a2 => Sys2Proof.Machine.execStartInterface a1 a2 s
  | .stopInterface a1 a2 => Sys2Proof.Machine.execStopInterface a1 a2 s
  | .ideKmKey a1 a2 a3 => Sys2Proof.Machine.execIdeKmKey a1 a2 a3 s
  | .spdmGetMeasurements a1 => Sys2Proof.Machine.execSpdmGetMeasurements a1 s
  | .spdmGetCertificate a1 => Sys2Proof.Machine.execSpdmGetCertificate a1 s
  | .spdmChallenge a1 => Sys2Proof.Machine.execSpdmChallenge a1 s
  | .spdmKeyExchange a1 => Sys2Proof.Machine.execSpdmKeyExchange a1 s
  | .pldmPowerLimit a1 => Sys2Proof.Machine.execPldmPowerLimit a1 s
  | .pldmFirmwareUpdate a1 => Sys2Proof.Machine.execPldmFirmwareUpdate a1 s
  | .pldmSensorRead a1 => Sys2Proof.Machine.execPldmSensorRead a1 s
  | .hostPortTrain a1 => Sys2Proof.Machine.execHostPortTrain a1 s
  | .registerWrite a1 a2 a3 => Sys2Proof.Machine.execRegisterWrite a1 a2 a3 s
  | .coreReturnedToService a1 => Sys2Proof.Machine.execCoreReturnedToService a1 s

end Sys2Proof.Machine
end

