-- ==== Sys2Proof/Machine/Turn.lean ====
section
/-! DEFINITION. Sys2Proof/Machine/Turn.lean: what the machine does when nothing is issued (log 1): the agenda's head, which is how the
outside, and any choice the manual leaves open, is said; else the first of its own happenings that is due; else one core cycle passes. -/

namespace Sys2Proof.Machine

open Sys2Proof

/-- A happening is due when it changes something. -/
def State.due (s : State) (i : Instr) : Bool :=
  match exec i s with
  | .next t => t ≠ s
  | _ => false

/-! ## The machine's own happenings -/

/-- Of a resident warp: loads (R134), events (R375-R381), page faults (R315), restart (R128), waits (R201), turns (R182), demands (R108), hangs
(R250). -/
def warpTurns (key : Nat) (w : Warp) : List Instr :=
  let c := key / 16
  let k := key % 16
  (if w.native.outstanding.isEmpty then [] else [Instr.loadComplete c k 0]) ++
  [.faultFrame c k, .disposition c k, .handlerReturn c k, .coreDump c k, .faultRecordPost c k, .warpRestart c k, .sleepWake c k,
   .fairnessTimerExpiry c k, .hang c k, .translationDemand c k]

/-- Publications that may land, in the order of R304: by lower home slice, then lower TagSet. -/
def State.publishTurns (s : State) : List Instr :=
  let key (e : HoldEntry) : Nat :=
    if e.pl.host then 0 else homeSlice (e.pl.line * 128) * 4096 + (s.die (siteOfPa (e.pl.line * 128))).setOf e.pl.line
  let rec insert (x : Nat × Instr) : List (Nat × Instr) → List (Nat × Instr)
    | [] => [x]
    | y :: ys => if y.1 ≤ x.1 then y :: insert x ys else x :: y :: ys
  let all := (s.cores.map fun k => k.2.hold.zipIdx.map fun e => (key e.1, Instr.sliceWrite k.1 e.2)).flatten
  (all.foldl (fun acc x => insert x acc) []).map Prod.snd

/-- Of a core: jobs (R282), tile operations (R353), scales (R360), scrubs (R426), samples (R413). -/
def coreTurns (c : Nat) (k : Core) : List Instr :=
  (k.jobs.map fun j => if j.started then Instr.jobComplete c j.id else .jobStart c j.id) ++
  [.tileOpComplete c] ++ ((List.range k.scaleq.length).map fun i => Instr.scaleEntryArrival c i) ++
  (k.scrubScratch.map fun p => Instr.scrubComplete (.scratch c p.1)) ++ (k.scrubSlots.map fun i => Instr.scrubComplete (.warpSlot c i)) ++
  [.sampleRecord c 0, .sampleRecord c 1, .sampleRecord c 2, .sampleRecord c 3]

/-- A workgroup's pre-emption under way, or one that a replayed log asks for (R389, R410), and its release (R288). -/
def State.wgTurns (s : State) (gk : Nat) (g : Workgroup) : List Instr :=
  let c := gk / 16
  let ws := s.warpsOf (s.unitWgs gk)
  (match g.stop with
   | some cause => [Instr.preemption c (gk % 16) cause]
   | none => if !ws.isEmpty && ws.all fun p => s.replayHeld (siteOf c) p.2 then [.preemption c (gk % 16) .progress] else []) ++
  [.workgroupRelease c (gk % 16)]

/-- Of a cluster: translation (R108-R111). -/
def clusterTurns (cl : Nat) : List Instr := [.translationComplete cl, .backingStoreFetch cl, .translationServe cl]

/-- One happening of each walker. -/
def State.perWalker (s : State) (f : Nat → Nat → List Instr) : List Instr :=
  (s.clusters.map fun c => (c.2.walkers.map fun w => f c.1 w.1).flatten).flatten

/-- The contexts with a workgroup on a cluster. -/
def State.asidsOn (s : State) (cl : Nat) : List Nat := ((s.wgs.filter fun g => clusterOf (g.1 / 16) = cl).map fun g => g.2.asid).eraseDups

/-- The causes of pre-emption, then placement, in R248's order; what waits for a core (R227, R245, R252); then the walkers: a hand-off before all
else, a drain, a dispatch, then splits (R216-R218, R226). -/
def State.walkerTurns (s : State) : List Instr :=
  s.perWalker (fun cl wk => [.priorityPreemption cl wk]) ++ s.perWalker (fun cl wk => [.unitBlocked cl wk]) ++
  s.perWalker (fun cl wk => (s.asidsOn cl).map fun a => .timeSlice cl wk a) ++
  (s.dies.map fun d => [Instr.resumePlacement d.1, .parkResume d.1] ++ d.2.landings.map fun x => Instr.landedWarpPlacement d.1 x.1).flatten ++
  s.perWalker (fun cl wk => [.drainNotice cl wk, .walkerDispatch cl wk]) ++ s.perWalker (fun cl wk => [.split cl wk])

/-- Of a die: firmware's commands that wait (R423, R424), the window of R341, the snapshot's copies (R322), invalidation (R314). -/
def State.dieTurns (s : State) (site : Nat) (d : Die) : List Instr :=
  let slot := field d.ctxCmd.toNat 0 12
  (if d.scrubbing then [Instr.scrubComplete (.die site)] else if s.pkg.booted && !d.enabled then [.dieEnable site] else []) ++
  ((d.ctxs.filter fun c => c.2.closing).map fun c => Instr.ctxTeardown site c.1) ++
  (if d.ctxCmd.getLsbD 63 && field d.ctxCmd.toNat 32 3 = 3 then [.ctxSave site slot] else []) ++
  ((d.det.map fun h => homeSlice h.pa).eraseDups.map fun x => Instr.detWindowRelease site x) ++ [.tlbInvalidateComplete site] ++
  (match d.snap with
   | none => []
   | some sn =>
     match (List.range sn.frames.length).findSome? fun f => ((List.range 512).find? fun n => !sn.copied.contains (f, n)).map fun n => (f, n) with
     | some (f, n) => [Instr.snapshotBackgroundCopy site f n]
     | none => [])

/-- Of a die: packets read and accepted, in the order of R236, then the pool (R209, R224, R233). -/
def queueTurns (site : Nat) (d : Die) : List Instr :=
  [.packetRead site] ++ (d.packetOrder.map fun q => Instr.launchAccept site (some q)) ++ [.launchAccept site none]

/-- A core asks for work (R217): it can hold a unit, has received no dispatch for 16 cycles, and no request of its own is on its way
or has just been granted a range to be dispatched to it first (DEDUCED: the worked program of R217 makes one request; log 11). -/
def State.asksSplit (s : State) (l : Launch) (core : Nat) : Bool :=
  Nat.max l.acceptedAt ((s.core core).lastDispatch.getD 0) + 16 ≤ s.cycle && !(s.clusters.any fun c => (c.2.splitReqs.any fun r => r.core = core) || c.2.walkers.any fun w => w.2.state = .active && w.2.prefer = some core) &&
    s.holds core (s.demand l (siteOf core))

/-- The cores that ask for work of a launch one of whose walkers holds two indices, where their cluster has a free walker (R217). -/
def State.splitTurns (s : State) : List Instr :=
  (s.launches.map fun l =>
    if l.acceptedAt + 16 ≤ s.cycle && s.clusters.any fun c => c.2.walkers.any fun w => w.2.asid = l.asid && w.2.lseq = l.lseq && 2 ≤ w.2.left then
      (((List.range 16).filter fun cl => !s.ctxStopped (cl / 4) l.asid && (s.freeWalker cl).isSome).map fun cl =>
        ((coresOf cl).filter (s.asksSplit l)).map fun c => Instr.splitRequest c l.asid l.lseq).flatten
    else []).flatten

/-- Issue, at most one a scheduler and cycle (R243), with the credits of R244. -/
def State.issueTurns (s : State) : List Instr :=
  (((s.warps.map fun p => (p.1 / 16, p.1 % 4)).eraseDups).map fun (c, k) =>
    [Instr.firmwareCredit c k, .sampleTag c k] ++ if s.hasIssued c k then [] else [.schedulerIssue c k]).flatten

/-- Every happening that the machine may take by itself, in the model's order. -/
def State.ownTurns (s : State) : List Instr :=
  (s.warps.map fun p => warpTurns p.1 p.2).flatten ++ s.publishTurns ++ (s.cores.map fun k => coreTurns k.1 k.2).flatten ++
  (s.wgs.map fun g => s.wgTurns g.1 g.2).flatten ++ (s.launches.map fun l => Instr.launchCompletion l.asid l.lseq) ++
  (s.dies.map fun d => s.dieTurns d.1 d.2).flatten ++ (s.clusters.map fun c => clusterTurns c.1).flatten ++ s.walkerTurns ++
  (s.dies.map fun d => queueTurns d.1 d.2).flatten ++ s.splitTurns ++ s.issueTurns

/-- Slots with a thread that polls a flag: polled once a cycle (R202; log 11). -/
def State.polls (s : State) : List Turn :=
  (s.warps.filter fun p => p.2.threads.any fun t => t.live && t.atFlag).map fun p => .happen (.flagwRepoll (p.1 / 16) (p.1 % 16))

/-- The state after the choice, and the happening to execute, if one is. -/
def State.nextTurn (s : State) : State × Option Instr :=
  match s.agenda with
  | .cycle :: r => ({ s.passCycle with agenda := r }, none)
  | .happen i :: r => ({ s with agenda := r }, some i)
  | .hostWrite pa bs :: r => ({ s.hostStore pa bs with agenda := r }, none)
  | [] =>
    match s.ownTurns.find? s.due with
    | some i => (s, some i)
    | none => ({ s.passCycle with agenda := s.polls }, none)

end Sys2Proof.Machine
end

