-- ==== Sys2Proof/Machine/Step.lean ====
section
/-! DEFINITION. Sys2Proof/Machine/Step.lean: one step: the issued instruction, else the agenda's next happening, else what
the machine does by itself (log 1). -/

namespace Sys2Proof.Machine

open Sys2Proof

def step (s : State) : Host.Outcome State Fault Refusal :=
  match s.issue with
  | some _ =>
    match s.fetch? with
    | some (s', i) => exec i s'
    | none => .fault .undecodable
  | none =>
    match s.nextTurn with
    | (s', some i) => exec i s'
    | (s', none) => .next s'

/-- `s` with the given instruction placed as the only one of a kernel whose single thread is issued next (log 2). -/
def State.withFetchWord (s : State) (_nbits w : Nat) : State := s.placeWord w

end Sys2Proof.Machine
end

