-- ==== Sys2Proof/Machine/Registers.lean ====
section
/-! DEFINITION. Sys2Proof/Machine/Registers.lean: what a read of a register returns (R6), block by block. Reading has no effect on the
machine, so no step reads: this is the view that the registers' rules state. Reserved fields and write-only registers read 0. -/

namespace Sys2Proof.Machine

open Sys2Proof

/-- The registers of a host queue (R232). -/
def HostQueue.readReg (q : HostQueue) (off : Nat) : W64 :=
  match off with
  | 0x00 => q.base
  | 0x08 => BitVec.ofNat 64 (q.asid * 2 ^ 32 + (if q.en then 2 ^ 31 else 0) + q.log2n * 2 ^ 16 + q.pmax * 2 ^ 8 + q.shown)
  | 0x10 => q.widx.setWidth 64
  | 0x18 => BitVec.ofNat 64 (q.err * 2 ^ 32 + q.ridx.toNat)
  | _ => 0

/-- Tags of a domain whose entry has REF 2 or more (R309). -/
def Die.sharedTags (d : Die) (r : Nat) : Nat :=
  (d.tags.filter fun t => t.2.dom = r && (t.2.entry.bind d.entries.get?).any fun e => 2 ≤ e.ref).length

/-- The quota registers and counters of a domain (R309). -/
def Die.readDom (d : Die) (r off : Nat) : W64 :=
  match off with
  | 0x00 => BitVec.ofNat 64 (d.dom r).min
  | 0x08 => BitVec.ofNat 64 (d.dom r).max
  | 0x10 => BitVec.ofNat 64 (d.dataUsed r)
  | 0x18 => BitVec.ofNat 64 (d.tagsUsed r)
  | 0x20 => BitVec.ofNat 64 (d.sharedTags r)
  | 0x28 => BitVec.ofNat 64 (d.dom r).unsh
  | 0x30 => BitVec.ofNat 64 (d.dom r).coll
  | _ => 0

/-- The control block of a die's physical function. -/
def State.readPf (s : State) (site off : Nat) : W64 :=
  let d := s.die site
  match off with
  | 0x0000 => d.orient
  | 0x0300 => d.tlbVa
  | 0x0308 => d.tlbCtl
  | 0x0340 => d.fqBase
  | 0x0348 => d.fqCfg
  | 0x0350 => BitVec.ofNat 64 (d.fqHead % 2 ^ 32)
  | 0x0358 => BitVec.ofNat 64 (d.fqTail % 2 ^ 32)
  | 0x0480 => d.smpBase
  | 0x0488 => d.smpLimit
  | 0x0490 => d.smpHead
  | 0x0498 => setField (setField d.smpCtl 0 2 d.smpModeRead) 5 1 (if s.stalled site then 1 else 0)
  | 0x04A0 => d.smpScfg
  | 0x04A8 => d.smpDrop
  | 0x0500 => d.ctxBase
  | 0x0508 => d.ctxCmd
  | 0x0520 => d.shardRestore
  | _ =>
    if 0x0600 ≤ off && off < 0x0DF8 && off % 8 = 0 then
      let v := d.vfs.get {} ((off - 0x0600) / 8 + 1)
      BitVec.ofNat 64 ((if v.bound then 2 ^ 63 else 0) + v.slot)
    else if 0x1000 ≤ off && off < 0x1800 then (s.queue site ((off - 0x1000) / 32)).readReg ((off - 0x1000) % 32)
    else if 0x100000 ≤ off && off < 0x140000 then d.readDom ((off - 0x100000) / 64) ((off - 0x100000) % 64)
    else 0

/-- The control block of a virtual function: the windows of R234, the domain of the bound context (R309), R384's registers. -/
def State.readVf (s : State) (site vf off : Nat) : W64 :=
  let d := s.die site
  let v := d.vfs.get {} vf
  if vf = 0 || 255 < vf then 0
  else
    match off with
    | 0x2100 => v.dbgCtl
    | 0x2108 => v.haltSet
    | _ =>
      if 0x1000 ≤ off && off < 0x1800 then
        (if s.windowOpen site vf ((off - 0x1000) / 32) then (s.queue site ((off - 0x1000) / 32)).readReg ((off - 0x1000) % 32) else 0)
      else if 0x2000 ≤ off && off < 0x2040 then
        (match (if v.bound then d.ctxs.get? v.slot else none) with
         | some c => d.readDom (descDomain c.words) (off - 0x2000)
         | none => 0)
      else 0

/-- A die's firmware registers; DIE_ORIENT stands at the same place as in the control block (R12). -/
def State.readFw (s : State) (site off : Nat) : W64 :=
  let d := s.die site
  match off with
  | 0x0000 => d.orient
  | 0x0040 => d.xbscfg
  | 0x0048 => d.schedcfg
  | 0x00C0 => d.snapSft
  | 0x00C8 => d.snapCtl
  | 0x00D0 => d.snapStep
  | 0x00E0 => d.detcfg
  | 0x00F0 => d.fwwdt
  | 0x00F8 => d.cerrCfg
  | _ => 0

/-- TAGSTAT (R271). -/
def CopyTag.stat (t : CopyTag) : W64 :=
  BitVec.ofNat 64 (t.err * 2 ^ 48 + t.owner * 2 ^ 32 + t.name * 2 ^ 26 + t.cls * 2 ^ 16 + (if t.pend then 2 ^ 8 else 0) + t.count)

/-- TAGBM (R271). -/
def Core.tagBm (k : Core) : W64 :=
  BitVec.ofNat 64 (((List.range 64).map fun i => if 0 < (k.tags.get {} i).count || (k.tags.get {} i).pend then 2 ^ i else 0).foldl (· + ·) 0)

/-- The frame area of a warp slot: the resident warp's frame, else the last one taken there (R375). -/
def State.frameWord (s : State) (core slot i : Nat) : W64 :=
  match s.warps.get? (wkey core slot) with
  | some w => if w.frame.getD 0 0 ≠ 0 then w.frame.getD i 0 else ((s.core core).frames.get [] slot).getD i 0
  | none => ((s.core core).frames.get [] slot).getD i 0

/-- SLIPW of a warp (R133). -/
def Warp.slipReg (w : Warp) : W64 := BitVec.ofNat 64 ((if w.chk then 128 else 0) + w.slipw % 128)

/-- PROGWM of the launch whose warp stands in a slot (R221). -/
def State.progwm (s : State) (key : Nat) : W64 :=
  BitVec.ofNat 64 (((s.warps.get? key).bind fun w => s.launch? w.asid w.lseq).map Launch.wm |>.getD 0)

/-- A core's firmware register block. DESIGN CHOICE (log 36, unsafe): the manual has firmware read SLIPW, CVSTAT and PROGWM through the debug
window and gives none of them an offset or an OP of DW_SEL; here they stand in the block at 0x1000 + 8 × slot, 0x1100 + 8 × register and
0x1200 + 8 × slot. -/
def State.readCore (s : State) (core off : Nat) : W64 :=
  let k := s.core core
  match off with
  | 0x0080 => k.fairt
  | 0x0088 => k.fwshare
  | 0x0090 => k.hangcfg
  | 0x00A0 => k.tagBm
  | 0x0700 => k.dwSel
  | 0x0708 => k.dwData
  | 0x0710 => k.dwAux
  | 0x0718 => k.dwStat
  | _ =>
    if 0x0400 ≤ off && off < 0x0600 && off % 8 = 0 then (k.tags.get {} ((off - 0x0400) / 8)).stat
    else if 0x0800 ≤ off && off < 0x1000 && off % 8 = 0 then s.frameWord core ((off - 0x0800) / 128) ((off - 0x0800) % 128 / 8)
    else if 0x1000 ≤ off && off < 0x1080 && off % 8 = 0 then ((s.warps.get? (wkey core ((off - 0x1000) / 8))).map Warp.slipReg).getD 1
    else if 0x1100 ≤ off && off < 0x1180 && off % 8 = 0 then BitVec.ofNat 64 (cvstat (s.cv core ((off - 0x1100) / 8)))
    else if 0x1200 ≤ off && off < 0x1280 && off % 8 = 0 then s.progwm (wkey core ((off - 0x1200) / 8))
    else 0

/-- A register as it reads. -/
def State.readReg (s : State) (blk : RegBlock) (off : Nat) : W64 :=
  match blk with
  | .pf site => s.readPf site off
  | .vf site vf => s.readVf site vf off
  | .fw site => s.readFw site off
  | .core c => s.readCore c off

end Sys2Proof.Machine
end

