-- ==== Sys2Proof/Safety.lean ====
section
/-! DEFINITION. Sys2Proof/Safety.lean: the terms in which statements speak: a safe answer, canonical memory, what a program sees of
a thread, and what an instruction of one shape leaves. -/

namespace Sys2Proof.Machine

open Sys2Proof

/-- The instruction completes with a next state of which `P` holds. -/
def Answers (i : Instr) (s : State) (P : State → Prop) : Prop := ∃ t, exec i s = .next t ∧ P t

/-- Device memory and host memory are canonical. -/
def State.memOk (s : State) : Prop := Memory.wf s.mem = true ∧ Memory.wf s.hostMem = true

/-- The scratchpad of every member of a saved unit is canonical. -/
def SavedUnit.padOk (u : SavedUnit) : Prop := ∀ m ∈ u.members, Memory.wf m.wg.scratch = true

/-- Every scratchpad that a die keeps for a saved, parked or landed unit is canonical. -/
def Die.padOk (d : Die) : Prop :=
  (∀ u ∈ d.resume ++ d.parked, u.padOk) ∧ (∀ x ∈ d.landings, Memory.wf x.2.wg.scratch = true) ∧ (∀ x ∈ d.reland, Memory.wf x.wg.scratch = true) ∧
  ∀ c ∈ d.ctxs, (∀ u ∈ c.2.saveUnits, u.padOk) ∧ ∀ x ∈ c.2.savedLandings, Memory.wf x.2.wg.scratch = true

/-- THE CANONICAL FORM: device memory, host memory and every scratchpad list rising addresses and no zero byte; the tables of warps and
workgroups list rising keys. -/
def State.canonical (s : State) : Prop :=
  s.memOk ∧ (∀ g ∈ s.wgs, Memory.wf g.2.scratch = true) ∧ (∀ d ∈ s.dies, d.2.padOk) ∧
  (s.warps.map Prod.fst).Pairwise (· < ·) ∧ (s.wgs.map Prod.fst).Pairwise (· < ·)

/-! ## What an issued instruction leaves -/

/-- A thread as an instruction shows it: all but its committed heads, its group number, and the marks of its
region and its commits. -/
def Thread.view (t : Thread) : Thread :=
  { t with ck := {}, grp := 0, bank := 0, nat := { t.nat with ended := false }, home := none, cwait := none, consumed := false, idem := none }

/-- The next portable instruction. -/
def PC.succ (p : PC) : PC := { p with pix := p.pix + 1 }

/-- The thread of the turn-holding group in a lane. -/
def Cx.holder (c : Cx) (lane : Nat) : Option Thread := c.active.reverse.find? fun t => t.lane = lane

/-- A thread after a portable instruction with a result: the value defined in its lane, and the counter past the instruction. -/
def Cx.resulted (c : Cx) (f : Thread → Val) (u : Thread) : Thread :=
  { u with vals := (match c.holder u.lane with | some t => u.vals.set c.iss.n (f t) | none => u.vals)
           pc := if u.live && u.grp = c.w.turn then u.pc.succ else u.pc }

/-- A thread after a portable instruction without a result. -/
def Cx.passed (c : Cx) (u : Thread) : Thread := { u with pc := if u.live && u.grp = c.w.turn then u.pc.succ else u.pc }

/-- THE FRAME of an instruction that touches only its own warp: it answers a next state in which the issue is over, only that warp
differs, and of the warp `P` holds. -/
def Cx.Leaves (c : Cx) (s : State) (i : Instr) (P : Warp → Prop) : Prop :=
  ∃ w', exec i s = .next { s with warps := s.warps.set c.key w', issue := none } ∧ P w'

/-- Of the warp only the threads and the bookkeeping of commits differ. -/
def Cx.KeepsWarp (c : Cx) (w' : Warp) : Prop :=
  w' = { c.w with threads := w'.threads, ccnt := w'.ccnt, hangBase := w'.hangBase, regErr := w'.regErr }

/-- Of the warp only the paths of its threads differ: where they stand, which groups they form, which group holds the turn. -/
def Cx.KeepsPaths (c : Cx) (w' : Warp) : Prop :=
  w' = { c.w with threads := w'.threads, turn := w'.turn, turnStart := w'.turnStart, stamps := w'.stamps, stampClock := w'.stampClock
                  yielded := w'.yielded, nextGrp := w'.nextGrp, fairPin := w'.fairPin, slipw := w'.slipw, ccnt := w'.ccnt, hangBase := w'.hangBase, regErr := w'.regErr }

/-- What happens to the threads of the turn-holding group only. -/
def Cx.act (c : Cx) (g : Thread → Thread) (u : Thread) : Thread := if u.live && u.grp = c.w.turn then g u else u

/-- The threads of a warp become what `g` makes of them. -/
def Cx.Shows (c : Cx) (g : Thread → Thread) (w' : Warp) : Prop := w'.threads.map Thread.view = c.w.threads.map fun u => (g u).view

/-- The warp after an instruction with one result per thread (R139): portable, the result is the next value of its lane; native, the slot's
destination takes it. -/
def Cx.Took (c : Cx) (f : Thread → Val) (w' : Warp) : Prop :=
  match c.iss.mode with
  | .portable => c.KeepsWarp w' ∧ c.Shows (c.resulted f) w'
  | .native _ _ _ =>
    w' = { c.w.putAll c.iss f c.active with threads := w'.threads, ccnt := w'.ccnt, hangBase := w'.hangBase, regErr := w'.regErr } ∧ c.Shows c.passed w'

/-- The warp after an instruction without a result. -/
def Cx.Moved (c : Cx) (w' : Warp) : Prop := c.KeepsWarp w' ∧ c.Shows c.passed w'

/-- An instruction with one result per thread that touches only its own warp. -/
def LaneResult (s : State) (c : Cx) (i : Instr) (f : Thread → Val) : Prop := c.Leaves s i (c.Took f)

/-- An instruction without a result that only moves on. -/
def LanePass (s : State) (c : Cx) (i : Instr) : Prop := c.Leaves s i c.Moved

/-- The warp after an event (R375): the instruction takes effect in no thread, and only the warp's event is set. -/
def Cx.Stopped (c : Cx) (e : EvInfo) (lanes : List Nat) (w' : Warp) : Prop :=
  ∃ ev, w' = { c.w with event := some ev } ∧ ev.code = e.code ∧ ev.qual = e.qual ∧ ev.faddr = e.faddr ∧
    ev.flanes = lanesOf lanes ∧ ev.glanes = lanesOf c.w.activeLanes ∧ ev.precise = true

/-- An event stops the warp at the instruction. -/
def Stops (s : State) (c : Cx) (i : Instr) (e : EvInfo) (lanes : List Nat) : Prop := c.Leaves s i (c.Stopped e lanes)

/-- The value of a thread under a predicate (R139): a thread predicated off gets a zero of the result's type. -/
def Cx.under (c : Cx) (p : Pred) (ty : Ty) (f : Thread → W64) (t : Thread) : Val :=
  if c.off p t then { bits := 0, tag := ty.code } else { bits := f t, tag := ty.code }

/-- The lanes of the threads that raise an event and are not predicated off. -/
def Cx.raising (c : Cx) (p : Pred) (bad : Thread → Bool) : List Nat := (c.active.filter fun t => !c.off p t && bad t).map Thread.lane

/-- A lane instruction with a check (R94): an event where a thread that is not predicated off fails it, else the results. -/
def CheckedResult (s : State) (c : Cx) (i : Instr) (p : Pred) (bad : Thread → Bool) (code : Nat) (f : Thread → Val) : Prop :=
  if c.raising p bad = [] then LaneResult s c i f else Stops s c i { code := code } (c.raising p bad)

/-- A polymorphic instruction (R94, R95): each thread works in the common type `u` of its operands `vs`, and its result has the type
`res u`; a thread whose operands fail the check raises FORMAT. A thread predicated off gets a zero of its result's type, or of its first
operand's where the check fails (R139). -/
def PolyResult (s : State) (c : Cx) (i : Instr) (p : Pred) (ty : Ty) (accept : Ty → Bool) (vs : Thread → List Val) (res : Ty → Ty)
    (f : Ty → Thread → W64) : Prop :=
  CheckedResult s c i p (fun t => (laneTy ty accept (vs t)).isNone) evFormat fun t =>
    match laneTy ty accept (vs t) with
    | some u => if c.off p t then { bits := 0, tag := (res u).code } else { bits := f u t, tag := (res u).code }
    | none => { bits := 0, tag := ((vs t).head?.map Val.tag).getD 0 }

/-! ## Memory -/

/-- The byte at a place's offset as an ordinary load of the core reads it (R325-R327): the newest held byte, else the L1's, else the
home's. -/
def State.seenByte (s : State) (c : Cx) (pl : Place) (i : Nat) : Byte :=
  match pl with
  | .mem x =>
    match (s.core c.iss.core).heldByte x.line (x.pa % 128 + i), x.host, (s.core c.iss.core).l1.get? (x.pa / 128) with
    | some b, _, _ => b
    | none, true, _ => cellGet s.hostMem (x.pa + i)
    | none, false, some l => l.bytes.getD (x.pa % 128 + i) 0
    | none, false, none => s.byte (x.pa + i)
  | .pad k off => cellGet (s.wg k).scratch (off + i)
  | .image off => dataByte c.ws (off + i)
  | .param off => (s.wg c.w.wg).params.getD (off + i) 0

/-- The byte at a place's offset at its home (R324). -/
def State.homeByte (s : State) (c : Cx) (pl : Place) (i : Nat) : Byte :=
  match pl with
  | .mem x => if x.host then cellGet s.hostMem (x.pa + i) else s.byte (x.pa + i)
  | .pad k off => cellGet (s.wg k).scratch (off + i)
  | .image off => dataByte c.ws (off + i)
  | .param off => (s.wg c.w.wg).params.getD (off + i) 0

/-- A little-endian value of `n` bytes. -/
def leOf : Nat → (Nat → Byte) → Nat
  | 0, _ => 0
  | n + 1, b => (b 0).toNat + 256 * leOf n fun i => b (i + 1)

/-- Two states hold the same bytes in every space, in memory and in the hold buffers. -/
def State.SameBytes (s t : State) : Prop :=
  t.mem = s.mem ∧ t.hostMem = s.hostMem ∧ t.wgs = s.wgs ∧ ∀ k pl o, (t.core k).heldByte pl o = (s.core k).heldByte pl o

/-- An ordinary load of `n` bytes at an address reads `v` in some state with the same bytes as `s`, whose L1 holds besides only copies of
lines as they stand at home. -/
def State.ReadsAs (s : State) (c : Cx) (sp : Space) (a n : Nat) (v : W64) (s' : State) : Prop :=
  ∃ pl : Place, s.place c.iss.core c.w.asid c.w.wg sp a n false = .ok pl ∧ s.SameBytes s' ∧
    (∀ ln l, (s'.core c.iss.core).l1.get? ln = some l →
      l.bytes = s.lineBytes ln ∨ ∃ l0, (s.core c.iss.core).l1.get? ln = some l0 ∧ l.bytes = l0.bytes) ∧
    v = BitVec.ofNat 64 (leOf n (s'.seenByte c pl))

/-- The issued warp after a phase boundary, numbered `b` next (R328). -/
def Cx.bounded (c : Cx) (b : Nat) : Cx := { c with w := { c.w with boundary := b } }

/-- Every line that the warp holds is to be published (R328). -/
def Cx.Publishes (c : Cx) (t : State) : Prop := ∀ e ∈ (t.core c.iss.core).hold, e.owner = c.w.name → e.phase.isSome = true

/-- The byte that the last of some stores, in lane order, leaves where `hit` says, by the place of each (R259). -/
def State.lastStored (s : State) (c : Cx) (sp : Space) (rs : List StoreReq) (hit : Place → Nat → Bool) : Option Byte :=
  rs.reverse.findSome? fun r =>
    match s.place c.iss.core c.w.asid c.w.wg sp r.addr r.bytes.length true with
    | .ok pl => ((List.range r.bytes.length).find? (hit pl)).bind fun i => r.bytes[i]?
    | .error _ => none

/-- The byte at an offset of the line that a warp holds and has not begun to publish (R325). -/
def State.heldOf (s : State) (core : Nat) (o : WarpName) (pl : PLine) (off : Nat) : Option Byte :=
  (((s.core core).hold.find? fun e => e.openFor o pl).bind fun e => e.bytes.get? off).map Prod.fst

/-- What a group's stores leave, made in state `s1` (R259, R325): in global and host space the warp's own held lines, and the core drops
its copies of device lines; in the other spaces the grants' bytes; nothing else. -/
def Cx.Stored (c : Cx) (s1 : State) (sp : Space) (rs : List StoreReq) (t : State) : Prop :=
  t = { s1 with warps := t.warps, cores := t.cores, wgs := t.wgs, issue := none } ∧
  (∀ k, k ≠ c.iss.core → t.core k = s1.core k) ∧
  t.core c.iss.core = { s1.core c.iss.core with hold := (t.core c.iss.core).hold, holdSeq := (t.core c.iss.core).holdSeq, l1 := (t.core c.iss.core).l1, roomFor := 0 } ∧
  (∀ pl o, t.heldOf c.iss.core c.w.name pl o =
    ((s1.lastStored c sp rs fun p i => match p with | .mem x => x.line = pl && x.pa % 128 + i = o | _ => false).or (s1.heldOf c.iss.core c.w.name pl o))) ∧
  ((t.core c.iss.core).hold.filter fun e => !(e.owner = c.w.name && e.phase.isNone)) =
    ((s1.core c.iss.core).hold.filter fun e => !(e.owner = c.w.name && e.phase.isNone)) ∧
  ∀ g, t.wg g = { s1.wg g with scratch := (t.wg g).scratch } ∧
    ∀ o, cellGet (t.wg g).scratch o =
      (s1.lastStored c sp rs fun p i => match p with | .pad k off => k = g && off + i = o | _ => false).getD (cellGet (s1.wg g).scratch o)

/-- R158: node `i` of level `j` of the tree over lane positions, absent nodes left out. -/
def treeSum (f : W64 → W64 → W64) (leaf : Nat → Option W64) : Nat → Nat → Option W64
  | 0, i => leaf i
  | j + 1, i =>
    match treeSum f leaf j (2 * i), treeSum f leaf j (2 * i + 1) with
    | none, v => v
    | u, none => u
    | some u, some v => some (f u v)

end Sys2Proof.Machine
end

