-- ==== Sys2Proof/Certificates/Slice0/Obligations.lean ====
section
/-! DEFINITION. Sys2Proof/Certificates/Slice0/Obligations.lean: the statements about the model, each with the rules it rests on. -/

open Sys2Proof Sys2Proof.Machine

/-! ## Integer instructions -/

/-- R143, R144: Wrap or Clamp of the exact value, element by element (R141); a thread predicated off gets zero (R139). -/
def Obligations.IntegerArithmetic : Prop :=
  ∀ (s : State) (c : Cx), s.cx? = some c → ∀ (ty : Ty) (sgn sat : Bool) (p : Pred) (a b d : Opnd), ty ≠ tyDyn →
    let w := ty.width
    let r := readInt sgn w
    let fit := fitInt sgn sat w
    LaneResult s c (.add ty sgn sat p a b) (c.under p ty fun t => map2 ty (fun x y => fit (r x + r y)) (c.rd ty t a) (c.rd ty t b)) ∧
    LaneResult s c (.sub ty sgn sat p a b) (c.under p ty fun t => map2 ty (fun x y => fit (r x - r y)) (c.rd ty t a) (c.rd ty t b)) ∧
    LaneResult s c (.mul ty sgn sat p a b) (c.under p ty fun t => map2 ty (fun x y => fit (r x * r y)) (c.rd ty t a) (c.rd ty t b)) ∧
    LaneResult s c (.mulhi ty sgn p a b)
      (c.under p ty fun t => map2 ty (fun x y => wrapInt w ((r x * r y).fdiv (2 ^ w))) (c.rd ty t a) (c.rd ty t b)) ∧
    LaneResult s c (.mad ty sgn sat p a b d)
      (c.under p ty fun t => map3 ty (fun x y z => fit (r x * r y + r z)) (c.rd ty t a) (c.rd ty t b) (c.rd ty t d)) ∧
    LaneResult s c (.min ty sgn p a b) (c.under p ty fun t => map2 ty (fun x y => wrapInt w (min (r x) (r y))) (c.rd ty t a) (c.rd ty t b)) ∧
    LaneResult s c (.max ty sgn p a b) (c.under p ty fun t => map2 ty (fun x y => wrapInt w (max (r x) (r y))) (c.rd ty t a) (c.rd ty t b)) ∧
    LaneResult s c (.neg ty sgn sat p a) (c.under p ty fun t => map1 ty (fun x => fit (-(r x))) (c.rd ty t a)) ∧
    LaneResult s c (.abs ty sat p a) (c.under p ty fun t => map1 ty (fun x => fitInt true sat w ((toSigned w x).natAbs : Int)) (c.rd ty t a))

/-- R144: without SAT, the sum, difference and product of one b8, b16, b32 or b64 element are those of the BitVec of its width, signed or
not, and the sum in a container of several never carries from one element into the next.
R339: the new value of each operation on one b32 element, for old value o and operand v. -/
def Obligations.ModularArithmeticAndAtomicOperations : Prop :=
  (∀ (w : Nat) (sgn : Bool) (x y : BitVec w), 0 < w →
    fitInt sgn false w (readInt sgn w x.toNat + readInt sgn w y.toNat) = (x + y).toNat ∧
    fitInt sgn false w (readInt sgn w x.toNat - readInt sgn w y.toNat) = (x - y).toNat ∧
    fitInt sgn false w (readInt sgn w x.toNat * readInt sgn w y.toNat) = (x * y).toNat ∧
    fitInt sgn false w (-(readInt sgn w x.toNat)) = (-x).toNat ∧
    ∀ (ty : Ty) (es : List Nat), es.length = ty.count → ty.count * ty.width ≤ 64 → (∀ e ∈ es, e < 2 ^ ty.width) → elems ty (packElems ty es) = es) ∧
  ∀ (o v : BitVec 32),
    let new (op : AtomOp) (sgn : Bool) : W64 := atomNew op sgn tyB32 (o.setWidth 64) (v.setWidth 64)
    (∀ sgn, new .add sgn = (o + v).setWidth 64 ∧ new .and sgn = (o &&& v).setWidth 64 ∧ new .or sgn = (o ||| v).setWidth 64 ∧
      new .xor sgn = (o ^^^ v).setWidth 64 ∧ new .exch sgn = v.setWidth 64 ∧
      new .inc sgn = (if v.ule o then 0 else o + 1 : BitVec 32).setWidth 64 ∧ new .dec sgn = (if o = 0 ∨ v.ult o then v else o - 1 : BitVec 32).setWidth 64) ∧
    new .min false = (if o.ule v then o else v).setWidth 64 ∧ new .max false = (if o.ule v then v else o).setWidth 64 ∧
    new .min true = (if o.sle v then o else v).setWidth 64 ∧ new .max true = (if o.sle v then v else o).setWidth 64

/-- R145: the quotient toward zero, the remainder with the sign of a, the edge cases, and DIVZERO before any effect. -/
def Obligations.Division : Prop :=
  ∀ (s : State) (c : Cx), s.cx? = some c → ∀ (ty : Ty) (sgn sat trapz : Bool) (p : Pred) (a b : Opnd), ty ≠ tyDyn →
    let w := ty.width
    let r := readInt sgn w
    let zero (t : Thread) : Bool := (elems ty (c.rd ty t b)).any (· = 0)
    let raises (t : Thread) : Bool := trapz && !c.off p t && zero t
    if c.active.any raises then
      let ls := (c.active.filter raises).map Thread.lane
      Stops s c (.div ty sgn sat trapz p a b) { code := evDivZero } ls ∧ Stops s c (.rem ty sgn trapz p a b) { code := evDivZero } ls
    else
      LaneResult s c (.div ty sgn sat trapz p a b)
        (c.under p ty fun t => map2 ty (fun x y => if y = 0 then 2 ^ w - 1 else fitInt sgn sat w ((r x).tdiv (r y))) (c.rd ty t a) (c.rd ty t b)) ∧
      LaneResult s c (.rem ty sgn trapz p a b)
        (c.under p ty fun t => map2 ty (fun x y => if y = 0 then x else wrapInt w (r x - r y * (r x).tdiv (r y))) (c.rd ty t a) (c.rd ty t b))

/-- R146: a shift by n, element i of b read unsigned. -/
def Obligations.Shifts : Prop :=
  ∀ (s : State) (c : Cx), s.cx? = some c → ∀ (ty : Ty) (p : Pred) (a b : Opnd), ty ≠ tyDyn → 0 < ty.width →
    let w := ty.width
    LaneResult s c (.shl ty p a b) (c.under p ty fun t => map2 ty (fun x n => if w ≤ n then 0 else x * 2 ^ n % 2 ^ w) (c.rd ty t a) (c.rd ty t b)) ∧
    LaneResult s c (.shr ty false p a b) (c.under p ty fun t => map2 ty (fun x n => if w ≤ n then 0 else x / 2 ^ n) (c.rd ty t a) (c.rd ty t b)) ∧
    LaneResult s c (.shr ty true p a b)
      (c.under p ty fun t => map2 ty (fun x n => if w ≤ n then (if x.testBit (w - 1) then 2 ^ w - 1 else 0) else wrapInt w ((toSigned w x).fdiv (2 ^ n)))
        (c.rd ty t a) (c.rd ty t b)) ∧
    ∃ rot : Nat → Nat → Nat, (∀ x n, x < 2 ^ w → rot x n < 2 ^ w ∧ ∀ j < w, (rot x n).testBit ((j + n) % w) = x.testBit j) ∧
      LaneResult s c (.rot ty p a b) (c.under p ty fun t => map2 ty rot (c.rd ty t a) (c.rd ty t b))

/-- R144, R147, R148: logical operations, counts, reversal and bit fields, said bit by bit. -/
def Obligations.BitOperations : Prop :=
  ∀ (s : State) (c : Cx), s.cx? = some c → ∀ (ty : Ty) (sgn : Bool) (p : Pred) (a b x ins off len : Opnd), ty ≠ tyDyn → 0 < ty.width →
    let w := ty.width
    let two (i : Instr) (f : Bool → Bool → Bool) : Prop := ∃ g : Nat → Nat → Nat,
      (∀ u v, u < 2 ^ w → v < 2 ^ w → g u v < 2 ^ w ∧ ∀ j < w, (g u v).testBit j = f (u.testBit j) (v.testBit j)) ∧
      LaneResult s c i (c.under p ty fun t => map2 ty g (c.rd ty t a) (c.rd ty t b))
    let one (i : Instr) (spec : Nat → Nat → Prop) : Prop := ∃ g : Nat → Nat, (∀ u, u < 2 ^ w → spec u (g u)) ∧
      LaneResult s c i (c.under p ty fun t => map1 ty g (c.rd ty t a))
    two (.and ty p a b) (· && ·) ∧ two (.or ty p a b) (· || ·) ∧ two (.xor ty p a b) Bool.xor ∧
    one (.not ty p a) (fun u v => v < 2 ^ w ∧ ∀ j < w, v.testBit j = !u.testBit j) ∧
    one (.brev ty p a) (fun u v => v < 2 ^ w ∧ ∀ j < w, v.testBit (w - 1 - j) = u.testBit j) ∧
    one (.clz ty p a) (fun u v => v ≤ w ∧ (∀ j < w, w - v ≤ j → u.testBit j = false) ∧ (v < w → u.testBit (w - 1 - v) = true)) ∧
    one (.popc ty p a) (fun u v => v = ((List.range w).filter u.testBit).length) ∧
    (∃ g : Nat → Nat → Nat → Nat,
      (∀ u o l, let o' := min o w; let l' := min l (w - o'); u < 2 ^ w → g u o l < 2 ^ w ∧ ∀ j < w, (g u o l).testBit j =
        if j < l' then u.testBit (o' + j) else sgn && 0 < l' && u.testBit (o' + l' - 1)) ∧
      LaneResult s c (.bfx ty sgn p x off len)
        (c.under p ty fun t => BitVec.ofNat 64 (g ((c.rd ty t x).toNat % 2 ^ w) (c.rd32 t off) (c.rd32 t len)))) ∧
    ∃ g : Nat → Nat → Nat → Nat → Nat,
      (∀ u v o l, let o' := min o w; let l' := min l (w - o'); u < 2 ^ w → g u v o l < 2 ^ w ∧ ∀ j < w, (g u v o l).testBit j =
        if o' ≤ j ∧ j < o' + l' then v.testBit (j - o') else u.testBit j) ∧
      (ty.bits = w → w ≤ 64 → LaneResult s c (.bfi ty p x ins off len)
        (c.under p ty fun t => BitVec.ofNat 64 (g (c.rd ty t x).toNat (c.rd ty t ins).toNat (c.rd32 t off) (c.rd32 t len))))

/-- R149-R153, R29: comparison, address, conversion and constants. -/
def Obligations.CompareAddressConvert : Prop :=
  ∀ (s : State) (c : Cx), s.cx? = some c → ∀ (ty : Ty) (cond : Cond) (sgn sat : Bool) (p : Pred) (a b : Opnd) (shift : Fin 8), ty ≠ tyDyn →
    let w := ty.width
    LaneResult s c (.cmp ty cond sgn p a b) (c.under p tyP fun t =>
      let x := readInt sgn w (c.rd ty t a).toNat
      let y := readInt sgn w (c.rd ty t b).toNat
      boolBits (match cond with
        | .eq => decide (x = y) | .ne => decide (x ≠ y) | .lt => decide (x < y) | .le => decide (x ≤ y) | .gt => decide (y < x) | .ge => decide (y ≤ x))) ∧
    LaneResult s c (.lea sgn p a b shift) (c.under p tyB64 fun t =>
      let i := c.val tyB64 t b
      let e : Int := if Ty.ofCode i.tag = tyB64 then i.bits.toNat else readInt sgn 32 i.bits.toNat
      BitVec.ofInt 64 ((c.rd tyB64 t a).toNat + e * 2 ^ shift.val)) ∧
    LaneResult s c (.cvti ty sgn sat p a) (c.under p ty fun t =>
      let u := c.tagOf t a
      packElems ty ((elems u (c.rd u t a)).map fun e => fitInt sgn sat w (readInt (sgn || u.fmt = .i4) u.width e))) ∧
    LaneResult s c (.cst ty a) (c.under none ty fun t => packElems ty (elems ty (c.rd ty t a)))

/-- R42: the value each selector reads. -/
def Obligations.SpecialValues : Prop :=
  ∀ (s : State) (c : Cx) (l : Launch), s.cx? = some c → s.launch? c.w.asid c.w.lseq = some l → ∀ (ty : Ty), ty ≠ tyDyn →
    let read (sel : Fin 14) (f : Thread → W64) : Prop := LaneResult s c (.sreg ty sel) (c.under none ty f)
    let widths := (List.range 6).map fun i => field (l.word 1) (6 * i) 6
    read 0 (fun t => BitVec.ofNat 64 t.lane) ∧ read 1 (fun _ => BitVec.ofNat 64 c.w.widx) ∧ read 2 (fun t => t.wid) ∧
    (∀ i : Fin 6, read ⟨3 + i.val, by omega⟩ fun t =>
      BitVec.ofNat 64 (field t.wid.toNat ((widths.take i.val).foldl (· + ·) 0) (widths.getD i.val 0) % 2 ^ 32)) ∧
    read 9 (fun _ => if siteOf c.iss.core % 2 = 1 then 1 else 0) ∧ read 10 (fun _ => BitVec.ofNat 64 (c.iss.core % 192)) ∧
    read 11 (fun _ => BitVec.ofNat 64 (c.iss.core / 192)) ∧ read 12 (fun _ => BitVec.ofNat 64 (s.wg c.w.wg).nwarps) ∧
    read 13 (fun _ => BitVec.ofNat 64 c.w.gmember)

/-- R189, R194: select takes one of two values; mrd reads a mask. -/
def Obligations.SelectAndMaskRead : Prop :=
  ∀ (s : State) (c : Cx), s.cx? = some c → ∀ (ty : Ty) (p : Pred) (x a b : Opnd) (k : Fin 12) (h : Fin 2),
    (ty ≠ tyDyn → LaneResult s c (.select ty p x a b) (c.under p ty fun t => if c.rdP t x then c.rd ty t a else c.rd ty t b)) ∧
    PolyResult s c (.select tyDyn p x a b) p tyDyn (fun _ => true) (fun t => [c.val tyDyn t a, c.val tyDyn t b]) id
      (fun _ t => if c.rdP t x then (c.val tyDyn t a).bits else (c.val tyDyn t b).bits) ∧
    LaneResult s c (.mrdP k) (c.under none tyP fun t => if (c.w.mask k).getLsbD t.lane then 1 else 0) ∧
    LaneResult s c (.mrdB64 k h) (c.under none tyB64 fun _ => (c.w.mask k).extractLsb' (64 * h.val) 64)

/-! ## Floating-point instructions -/

/-- R94, R95, R159-R161: the exact value rounded once, each thread in its own format; FORMAT where the tags fail the check. -/
def Obligations.FloatArithmetic : Prop :=
  ∀ (s : State) (c : Cx), s.cx? = some c → ∀ (ty : Ty) (sat rz : Bool) (p : Pred) (a b d : Opnd),
    let v (o : Opnd) (t : Thread) : Val := c.val ty t o
    let two (i : Instr) (op : XR → XR → XR) : Prop :=
      PolyResult s c i p ty Ty.float (fun t => [v a t, v b t]) id fun u t =>
        map2 u (fun x y => fround u.fmt sat rz (op (fdec u.fmt x) (fdec u.fmt y))) (c.rd u t a) (c.rd u t b)
    two (.fadd ty sat rz p a b) XR.add ∧ two (.fsub ty sat rz p a b) (fun x y => x.add y.neg) ∧ two (.fmul ty sat rz p a b) XR.mul ∧
    (PolyResult s c (.fma ty sat rz p a b d) p ty Ty.float (fun t => [v a t, v b t, v d t]) id fun u t =>
      map3 u (fun x y z => fround u.fmt sat rz (((fdec u.fmt x).mul (fdec u.fmt y)).add (fdec u.fmt z))) (c.rd u t a) (c.rd u t b) (c.rd u t d)) ∧
    (ty ≠ tyDyn →
      LaneResult s c (.fdiv ty sat rz p a b)
        (c.under p ty fun t => map2 ty (fun x y => fround ty.fmt sat rz ((fdec ty.fmt x).div (fdec ty.fmt y))) (c.rd ty t a) (c.rd ty t b)) ∧
      LaneResult s c (.fsqrt ty sat rz p a) (c.under p ty fun t => map1 ty (fun x => fround ty.fmt sat rz (fdec ty.fmt x).sqrt) (c.rd ty t a)) ∧
      LaneResult s c (.frcp ty sat rz p a)
        (c.under p ty fun t => map1 ty (fun x => fround ty.fmt sat rz (XR.one.div (fdec ty.fmt x))) (c.rd ty t a)))

/-- R161, R86, R89: what the exact arithmetic gives for special values and zeros, and that a NaN rounds to the format's one NaN; for every
float format. -/
def Obligations.FloatSpecialValues : Prop :=
  (∀ (x : XR), XR.nan.add x = .nan ∧ x.add .nan = .nan ∧ XR.nan.mul x = .nan ∧ x.mul .nan = .nan ∧ XR.nan.div x = .nan ∧ x.div .nan = .nan) ∧
  (XR.inf false).add (.inf true) = .nan ∧ (∀ n d e g, (XR.fin g 0 d e).mul (.inf n) = .nan) ∧ (∀ m n, (XR.inf m).div (.inf n) = .nan) ∧
  (∀ g h d d' e e', (XR.fin g 0 d e).div (.fin h 0 d' e') = .nan) ∧
  (∀ g h n d d' e e', 0 < n → (XR.fin g n d e).div (.fin h 0 d' e') = .inf (Bool.xor g h)) ∧
  (∀ n d e, 0 < n → (XR.fin true n d e).sqrt = .nan) ∧ (XR.inf true).sqrt = .nan ∧ (∀ d e, (XR.fin true 0 d e).sqrt.isNeg = true) ∧
  (∀ (f : Fmt) (sat rz : Bool), f.isFloat = true → fround f sat rz .nan = (ffOf f).qnan)

/-- R162, R163, R165, R166: the lesser and the greater operand, the sign operations, rounding to an integral value, and scaling.
R164, R170: comparison and class of single elements. -/
def Obligations.FloatSelectionCompareClass : Prop :=
  (∀ (s : State) (c : Cx), s.cx? = some c → ∀ (ty : Ty) (sat rz : Bool) (mode : RndMode) (p : Pred) (a b : Opnd),
    let v (o : Opnd) (t : Thread) : Val := c.val ty t o
    let two (i : Instr) (g : Fmt → Nat → Nat → Nat) : Prop :=
      PolyResult s c i p ty Ty.float (fun t => [v a t, v b t]) id fun u t => map2 u (g u.fmt) (c.rd u t a) (c.rd u t b)
    let one (i : Instr) (g : Fmt → Thread → Nat → Nat) : Prop :=
      PolyResult s c i p ty Ty.float (fun t => [v a t]) id fun u t => map1 u (g u.fmt t) (c.rd u t a)
    let below (x y : XR) : Bool := x.lt y || (x.eq y && x.isNeg)
    two (.fmin ty p a b) (fun f x y =>
      match (fdec f x).isNan, (fdec f y).isNan with
      | true, true => (ffOf f).qnan | true, false => y | false, true => x
      | false, false => if below (fdec f x) (fdec f y) then x else y) ∧
    two (.fmax ty p a b) (fun f x y =>
      match (fdec f x).isNan, (fdec f y).isNan with
      | true, true => (ffOf f).qnan | true, false => y | false, true => x
      | false, false => if below (fdec f x) (fdec f y) then y else x) ∧
    one (.fabs ty p a) (fun f _ x => x % 2 ^ (f.width - 1)) ∧
    one (.fneg ty p a) (fun f _ x => if x < 2 ^ (f.width - 1) then x + 2 ^ (f.width - 1) else x - 2 ^ (f.width - 1)) ∧
    one (.frnd ty mode p a) (fun f _ x => match fdec f x with
      | .fin neg num den e =>
        let k : Nat := match mode with | .ne => 0 | .rz => 1 | .rp => 2 | .rm => 3
        fround f false false (.fin neg (roundInt k neg num den e).natAbs 1 0)
      | .inf _ => x
      | .nan => (ffOf f).qnan) ∧
    one (.fldx ty sat rz p a b) (fun f t x => match fdec f x with
      | .fin neg num den e =>
        if num = 0 then x else fround f sat rz (.fin neg num den (e + max (-5000) (min 5000 (toSigned 32 (c.rd32 t b)))))
      | .inf _ => x
      | .nan => (ffOf f).qnan)) ∧
  ∀ (s : State) (c : Cx), s.cx? = some c → ∀ (ty : Ty) (cond : FCond) (p : Pred) (a b : Opnd),
    (CheckedResult s c (.fcmp ty cond p a b) p (fun t => (laneTy ty Ty.floatX1 [c.val ty t a, c.val ty t b]).isNone) evFormat
      (c.under p tyP fun t =>
        let u := (laneTy ty Ty.floatX1 [c.val ty t a, c.val ty t b]).getD ty
        let x := fdec u.fmt (c.rd u t a).toNat
        let y := fdec u.fmt (c.rd u t b).toNat
        let nan := x.isNan || y.isNan
        boolBits (match cond with
          | .eq => !nan && x.eq y | .ne => nan || !x.eq y | .lt => !nan && x.lt y | .le => !nan && (x.lt y || x.eq y)
          | .gt => !nan && y.lt x | .ge => !nan && (y.lt x || x.eq y) | .ord => !nan | .uno => nan))) ∧
    CheckedResult s c (.fclass ty p a) p (fun t => (laneTy ty Ty.floatX1 [c.val ty t a]).isNone) evFormat
      (c.under p tyB32 fun t =>
        let u := (laneTy ty Ty.floatX1 [c.val ty t a]).getD ty
        BitVec.ofNat 64 (fclassElem u.fmt (c.rd u t a).toNat))

/-- R167: the element is converted exactly to f32, one fixed function of that f32 gives an f32, and that f32 is rounded into the format. The
values of the table's last column are exact, each rounded once. Elsewhere the f32 lies within the table's bound of the true value, up to
the bound's 2^-40th part, or is the true value rounded once; the true value is taken in units of 2^-256, and for frsq it is the root's
integer part in these units. Which f32 within the bound it is stays free (log 7). -/
def Obligations.ApproximateFunctions : Prop :=
  (∀ (s : State) (c : Cx), s.cx? = some c → ∀ (ty : Ty) (sat rz : Bool) (p : Pred) (a : Opnd), ty ≠ tyDyn →
    let fn1 (i : Instr) (fn : ApproxFn) : Prop :=
      LaneResult s c i (c.under p ty fun t => map1 ty (fun x => fround ty.fmt sat rz (decodeF (ffOf .f32) (approxF32 fn (fdec ty.fmt x)))) (c.rd ty t a))
    fn1 (.frsq ty sat rz p a) .rsq ∧ fn1 (.fexp2 ty sat rz p a) .exp2 ∧ fn1 (.flog2 ty sat rz p a) .log2 ∧ fn1 (.fsin ty sat rz p a) .sin ∧
    fn1 (.fcos ty sat rz p a) .cos ∧ fn1 (.ftanh ty sat rz p a) .tanh ∧ fn1 (.fsig ty sat rz p a) .sig) ∧
  (∀ fn, approxF32 fn .nan = (ffOf .f32).qnan) ∧
  (∀ g d e, approxF32 .rsq (.fin g 0 d e) = f32Of (.inf g)) ∧ approxF32 .rsq (.inf false) = f32Of (.fin false 0 1 0) ∧
  (∀ n d e, 0 < n → approxF32 .rsq (.fin true n d e) = (ffOf .f32).qnan) ∧ approxF32 .rsq (.inf true) = (ffOf .f32).qnan ∧
  (∀ (m : Nat) (e k : Int), (m : Int) + e = 2 * k → approxF32 .rsq (.fin false (2 ^ m) 1 e) = f32Of (.fin false 1 1 (-k))) ∧
  approxF32 .exp2 (.inf true) = f32Of (.fin false 0 1 0) ∧ approxF32 .exp2 (.inf false) = f32Of (.inf false) ∧
  (∀ g n d e, (XR.fin g n d e).lt (.fin false 128 1 0) = false → approxF32 .exp2 (.fin g n d e) = f32Of (.inf false)) ∧
  (∀ (g : Bool) (n j : Nat),
    let k : Int := if g then -(n : Int) else n
    approxF32 .exp2 (.fin g (n * 2 ^ j) 1 (-(j : Int))) =
      if 128 ≤ k then f32Of (.inf false) else if k ≤ -150 then f32Of (.fin false 0 1 0) else f32Of (.fin false 1 1 k)) ∧
  (∀ (m : Nat) (e : Int), approxF32 .log2 (.fin false (2 ^ m) 1 e) = f32Of (XR.ofInt ((m : Int) + e))) ∧
  (∀ g d e, approxF32 .log2 (.fin g 0 d e) = f32Of (.inf true)) ∧ approxF32 .log2 (.inf false) = f32Of (.inf false) ∧
  (∀ n d e, 0 < n → approxF32 .log2 (.fin true n d e) = (ffOf .f32).qnan) ∧ approxF32 .log2 (.inf true) = (ffOf .f32).qnan ∧
  (∀ g d e, approxF32 .sin (.fin g 0 d e) = f32Of (.fin g 0 1 0) ∧ approxF32 .cos (.fin g 0 d e) = f32Of (.fin false 1 1 0) ∧
    approxF32 .tanh (.fin g 0 d e) = f32Of (.fin g 0 1 0) ∧ approxF32 .sig (.fin g 0 d e) = f32Of (.fin false 1 1 (-1))) ∧
  (∀ g, approxF32 .sin (.inf g) = (ffOf .f32).qnan ∧ approxF32 .cos (.inf g) = (ffOf .f32).qnan ∧
    approxF32 .tanh (.inf g) = f32Of (.fin g 1 1 0) ∧ approxF32 .sig (.inf g) = f32Of (if g then .fin false 0 1 0 else .fin false 1 1 0)) ∧
  (∀ g n d e, 0 < n → (XR.fin false n d e).lt (.fin false 73 8 0) = false → approxF32 .tanh (.fin g n d e) = f32Of (.fin g 1 1 0)) ∧
  (∀ g n d e,
    let y : Int := approxTrue .rsq g n d e
    let (q, r) := scaled d n (512 - e)
    0 ≤ y ∧ y * y ≤ ((q / r : Nat) : Int) ∧ ((q / r : Nat) : Int) < (y + 1) * (y + 1)) ∧
  ∀ (fn : ApproxFn) (g : Bool) (n d : Nat) (e : Int), approxExact fn (.fin g n d e) = none →
    let y := approxTrue fn g n d e
    let r := approxF32 fn (.fin g n d e)
    let b : Int := match fn with
      | .rsq => fxUlp y | .exp2 | .log2 => 2 * fxUlp y | .sin | .cos | .tanh => 2 ^ (256 - 21) | .sig => 2 ^ (256 - 22)
    r = f32Of (.fin (decide (y < 0)) y.natAbs 1 (-256)) ∨
    ∃ g' n' d' e', decodeF (ffOf .f32) r = .fin g' n' d' e' ∧
      unitsOf 256 g' n' d' e' - y ≤ b + b / 2 ^ 40 ∧ y - unitsOf 256 g' n' d' e' ≤ b + b / 2 ^ 40

/-- R168, R169: conversions between float formats and between floats and integers; FORMAT where a dyn source's tag does not fit. -/
def Obligations.Conversions : Prop :=
  ∀ (s : State) (c : Cx), s.cx? = some c → ∀ (ty : Ty) (sgn sat rz : Bool) (p : Pred) (x : Opnd), ty ≠ tyDyn →
    let conv (i : Instr) (ok : Ty → Bool) (g : Ty → Nat → Nat) : Prop :=
      CheckedResult s c i p (fun t => !((c.tagOf t x).dynTag && ok (c.tagOf t x) && (c.tagOf t x).count = ty.count)) evFormat
        (c.under p ty fun t => packElems ty ((elems (c.tagOf t x) (c.rd (c.tagOf t x) t x)).map (g (c.tagOf t x))))
    conv (.fcvt ty sat rz p x) Ty.float (fun u e =>
      if u.fmt = ty.fmt then (if (fdec u.fmt e).isNan then (ffOf u.fmt).qnan else e) else fround ty.fmt sat rz (fdec u.fmt e)) ∧
    conv (.f2i ty sgn sat rz p x) Ty.float (fun u e => floatToInt sgn sat rz ty.width (fdec u.fmt e)) ∧
    conv (.i2f ty sgn sat rz p x) Ty.intI4 (fun u e => fround ty.fmt sat rz (XR.ofInt (readInt sgn u.width e)))

/-- R171-R173: dot product, widening, narrowing. (The sign of an exactly zero float `pdot` sum is the model's choice, log 35.) -/
def Obligations.PackedConversions : Prop :=
  ∀ (s : State) (c : Cx), s.cx? = some c → ∀ (ty : Ty) (df : Fmt) (sgn sat rz il : Bool) (part : Fin 4) (p : Pred) (a b d : Opnd) (xs : List Opnd),
    (let vs (t : Thread) : List Val := [c.val ty t a, c.val ty t b]
     let res (u : Ty) : Ty := if u.isFloat then tyF32 else tyB32
     let misfit (u : Ty) (t : Thread) : Bool := ty = tyDyn && (c.val ty t d).tag ≠ (res u).code
     let sum (u : Ty) (t : Thread) : Nat :=
       let es := elems u (c.rd u t a)
       let fs := elems u (c.rd u t b)
       if u.isFloat then
         fround .f32 sat rz (groupSum (List.zipWith (fun x y => (fdec u.fmt x).mul (fdec u.fmt y)) es fs ++ [fdec .f32 (c.rd tyF32 t d).toNat]))
       else
         let g := sgn || u.fmt = .i4
         fitInt g sat 32 ((List.zipWith (fun x y => readInt g u.width x * readInt g u.width y) es fs).foldl (· + ·) 0 + readInt g 32 (c.rd tyB32 t d).toNat)
     CheckedResult s c (.pdot ty sgn sat rz p a b d) p
       (fun t => match laneTy ty Ty.pdot (vs t) with | some u => misfit u t | none => true) evFormat fun t =>
         match laneTy ty Ty.pdot (vs t) with
         | some u =>
           if c.off p t then { bits := 0, tag := if misfit u t then (c.val ty t a).tag else (res u).code }
           else { bits := BitVec.ofNat 64 (sum u t), tag := (res u).code }
         | none => { bits := 0, tag := (c.val ty t a).tag }) ∧
    PolyResult s c (.pwid ty df sgn il part p a) p ty (fun u => widePair u.fmt df && part.val < u.count / min u.count (64 / df.width)) (fun t => [c.val ty t a])
      (fun u => { fmt := df, pack := Pack.ofCount (min u.count (64 / df.width)) }) (fun u t =>
        let m := min u.count (64 / df.width)
        let es := elems u (c.rd u t a)
        packElems { fmt := df, pack := Pack.ofCount m } ((List.range m).map fun i =>
          let e := es.getD (if il then i * (u.count / m) + part.val else part.val * m + i) 0
          if u.fmt.isFloat then fround df false false (fdec u.fmt e) else wrapInt df.width (readInt (sgn || u.fmt = .i4) u.fmt.width e))) ∧
    (ty ≠ tyDyn → ∀ x, xs.head? = some x → LaneResult s c (.pnar ty sgn sat rz il p xs) (c.under p ty fun t =>
      let st := c.tagOf t x
      let k := xs.length
      let q := st.count
      packElems ty ((List.range ty.count).map fun n =>
        let e := if il then (elems st (c.rd st t (xs.getD (n % k) x))).getD (n / k) 0 else (elems st (c.rd st t (xs.getD (n / q) x))).getD (n % q) 0
        if ty.fmt.isFloat then fround ty.fmt sat rz (fdec st.fmt e)
        else fitInt (sgn || ty.fmt = .i4) sat ty.fmt.width (readInt (sgn || ty.fmt = .i4) st.fmt.width e))))

/-- R96-R98, R174, R175: codes through a codebook slot; FORMAT where the slot is empty or of the other kind.
R92, R93, R176: setting and reading a format tag. -/
def Obligations.CodebooksAndFormatTags : Prop :=
  (∀ (s : State) (c : Cx), s.cx? = some c → ∀ (ty : Ty) (hi : Bool) (p : Pred) (x : Opnd) (slot : Fin 8), ty ≠ tyDyn →
    let cb := ((s.wg c.w.wg).cbs.get? slot.val).bind fun ph => (s.core c.iss.core).cbslots.get? ph
    let kind : CbState := if ty.fmt = .cb6 then .cb6 else .cb4
    let rty : Ty := { fmt := .bf16, pack := if ty.pack = .x8 then .x4 else ty.pack }
    match cb with
    | some b =>
      if b.state = kind then
        let es := b.entries.take (if ty.fmt = .cb6 then 64 else 16)
        LaneResult s c (.cbdec ty hi p x slot) (c.under p rty fun t =>
          let codes := elems ty (c.rd ty t x)
          let half := if ty.pack = .x8 then (if hi then codes.drop 4 else codes.take 4) else codes
          packElems rty (half.map fun k => (cbIndex es k).toNat)) ∧
        LaneResult s c (.cbenc ty p x slot) (c.under p ty fun t =>
          let st := c.tagOf t x
          packElems ty ((elems st (c.rd st t x)).map fun e => cbNearest es (fdec st.fmt e)))
      else
        CheckedResult s c (.cbdec ty hi p x slot) p (fun _ => true) evFormat (c.under p rty fun _ => 0) ∧
        CheckedResult s c (.cbenc ty p x slot) p (fun _ => true) evFormat (c.under p ty fun _ => 0)
    | none =>
      CheckedResult s c (.cbdec ty hi p x slot) p (fun _ => true) evFormat (c.under p rty fun _ => 0) ∧
      CheckedResult s c (.cbenc ty p x slot) p (fun _ => true) evFormat (c.under p ty fun _ => 0)) ∧
  ∀ (s : State) (c : Cx), s.cx? = some c → ∀ (p : Pred) (x tag : Opnd),
    let legal (v : Nat) : Bool := v < 64 && (Ty.ofCode (BitVec.ofNat 6 v)).dynTag
    CheckedResult s c (.ftag p x tag) p (fun t => !legal (c.rd32 t tag)) evFormat (fun t =>
      let u := Ty.ofCode (BitVec.ofNat 6 (c.rd32 t tag))
      if c.off p t then { bits := 0, tag := 0 } else { bits := normBits u (c.rd (c.tagOf t x) t x), tag := u.code }) ∧
    LaneResult s c (.ftagGet p x) (c.under p tyB32 fun t => (c.val tyB64 t x).tag.setWidth 64)

/-! ## Control -/

/-- R187, R38: every thread of the group continues at the target it chooses, with that edge's arguments, all read before any is written;
a region head there commits. R179: threads of one target stay together, and with a hint the likely (unlikely) target's path, where some
thread takes it, else the lowest lane's path, keeps the turn. Nothing but the warp's paths changes. -/
def Obligations.Branches : Prop :=
  ∀ (s : State) (c : Cx) (f : FuncInfo), s.cx? = some c → (c.active.head?.bind fun t => moduleFunc c.ws t.pc.fsym) = some f →
    let goes (i : Instr) (pick : Thread → Target) (kept : Option Target) : Prop :=
      (∀ u ∈ c.active, (f.blocks[(pick u).block.toNat]?).isSome) →
      c.Leaves s i fun w' =>
        c.KeepsPaths w' ∧ w'.turn = c.w.turn ∧
        c.Shows (c.act fun u => match f.blocks[(pick u).block.toNat]? with
          | some b => u.enter b (edgeVals c u b.args (pick u).args)
          | none => u) w' ∧
        ∀ (j : Nat) (u u' : Thread), c.w.threads[j]? = some u → w'.threads[j]? = some u' → u.live = true → u.grp = c.w.turn →
          (u.native = false → ((f.blocks[(pick u).block.toNat]?).any fun b => (c.plan c.lead.pc.fsym).isHead b.pix) →
            u'.ck.pc = u'.pc ∧ u'.ck.vals = u'.vals ∧ u'.ck.stack = u'.stack) ∧
          (∀ k, kept = some k → (pick u).block = k.block → u'.grp = c.w.turn) ∧
          ∀ (m : Nat) (v v' : Thread), c.w.threads[m]? = some v → w'.threads[m]? = some v' → v.live = true → v.grp = c.w.turn →
            (pick u).block = (pick v).block → u'.grp = v'.grp
    ∀ (pipe uniform : Bool) (hint : Hint) (p i : Opnd) (t e : Target) (cases : List Target),
      let ofBrc (u : Thread) : Target := if c.rdP u p then t else e
      let ofSwitch (u : Thread) : Target := (cases[c.rd32 u i]?).getD e
      goes (.br pipe t) (fun _ => t) (some t) ∧
      goes (.brc hint pipe p t e) ofBrc
        (if hint = .none then none
         else if hint = .likely ∧ (c.active.any fun u => (ofBrc u).block = t.block) then some t
         else if hint = .unlikely ∧ (c.active.any fun u => (ofBrc u).block = e.block) then some e
         else c.active.head?.map ofBrc) ∧
      goes (.switch uniform i e cases) ofSwitch (c.active.head?.map ofSwitch)

/-- R188, R441: `call` pushes each thread's return point and raises its spill base, and the callee begins with the arguments as its first
values; `ret` returns each thread to the point it pushed, the value defined there where the call defines one. A return at a handler's
first frame ends the handler with its action (R381). -/
def Obligations.CallsAndReturns : Prop :=
  ∀ (s : State) (c : Cx), s.cx? = some c → ∀ (ty : Ty) (f : BitVec 29) (args : List Opnd) (v : Opnd) (fn : FuncInfo),
    let back (val : Thread → Option Val) (u : Thread) : Thread :=
      match u.stack, u.handler with
      | fr :: rest, _ =>
        { u with pc := fr.ret, stack := rest, sb := u.sb - fr.sbInc
                 vals := (match fr.dest, val u with | some d, some x => fr.vals.set d x | _, _ => fr.vals) }
      | [], some h => { u with handler := some { h with action := (val u).map Val.bits }, wait := .none, halted := true }
      | [], none => u
    (moduleFunc c.ws f.toNat = some fn → (∀ u ∈ c.active, u.sb + c.nspill u.pc.fsym + c.nspill f.toNat ≤ s.spillSlots c) →
      c.Leaves s (.call ty f args) fun w' =>
        c.KeepsPaths w' ∧ w'.ccnt = c.w.ccnt + 1 ∧
        c.Shows (c.act fun u =>
          { u with stack := { ret := u.pc.succ, dest := if ty = tyVoid then none else some c.iss.n, vals := u.vals, sbInc := c.nspill u.pc.fsym } :: u.stack
                   sb := u.sb + c.nspill u.pc.fsym, vals := setVals 0 (edgeVals c u fn.params args) [], pc := { fsym := f.toNat, pix := 0 } }) w') ∧
    (c.Leaves s .ret fun w' => c.KeepsPaths w' ∧ w'.ccnt = c.w.ccnt + 1 ∧ c.Shows (c.act (back fun _ => none)) w') ∧
    c.Leaves s (.retValue v) fun w' => c.KeepsPaths w' ∧ w'.ccnt = c.w.ccnt + 1 ∧ c.Shows (c.act (back fun u => some (c.val c.retTy u v))) w'

/-- R190: `nop` only moves on; after `regn` a region begins at the next instruction, whose head the threads commit; `yield` moves on and
another ready group that has not yielded, and does not now stand where the yielding group stands, takes the turn (R181). -/
def Obligations.NopRegnYield : Prop :=
  ∀ (s : State) (c : Cx), s.cx? = some c →
    LanePass s c .nop ∧
    (c.Leaves s .regn fun w' => c.Moved w' ∧ (c.iss.mode = .portable →
      w'.ccnt = c.w.ccnt + 1 ∧ ∀ u ∈ c.active, u.native = false → ∃ u' ∈ w'.threads, u'.lane = u.lane ∧ u'.pc = u.pc.succ ∧ u'.ck.pc = u.pc.succ ∧ u'.ck.vals = u.vals)) ∧
    c.Leaves s .yield fun w' => c.KeepsPaths w' ∧ c.Shows c.passed w' ∧
      ∀ g, g ≠ c.w.turn → c.w.ready g = true → g ∉ c.w.yielded →
        (∀ t ∈ c.w.threads, t.live = true → t.grp = g → ∀ u ∈ c.active, t.pc ≠ u.pc.succ) → w'.turn ≠ c.w.turn ∧ w'.turn ∉ c.w.yielded

/-- R188: where the launch writes no log, `exit` completes: every line the warp holds is to be published (a phase boundary), the group's
threads are gone and members of no mask; with no live thread left the warp's slot is free. -/
def Obligations.ExitEndsThreads : Prop :=
  ∀ (s : State) (c : Cx), s.cx? = some c → s.logMode c.site c.w.asid c.w.lseq ≠ 1 →
    Answers .exit s fun t =>
      t.issue = none ∧ t.mem = s.mem ∧ t.hostMem = s.hostMem ∧
      (∀ e ∈ (t.core c.iss.core).hold, e.owner = c.w.name → e.phase.isSome = true) ∧
      if c.w.threads.any (fun u => u.live && !c.w.activeLanes.contains u.lane) then
        ∃ w', t.warps.get? c.key = some w' ∧
          (∀ u ∈ w'.threads, u.lane ∈ c.w.activeLanes → u.live = false) ∧
          ∀ (k : Fin 12) (l : Nat), l ∈ c.w.activeLanes → laneIn (w'.mask k) l = false
      else t.warps.get? c.key = none

/-! ## Lane masks -/

/-- R192: `join` and `leave` change the bits of the group's threads (those whose condition holds), and no other bit of any mask, where no
thread waits on the mask. R193: where every other live member already waits at one `waitm` of the mask, leaving it releases them.
R193: `waitm` completes at once where the group holds every live member; where another live member does not wait on the mask, the group
waits where it stands; a thread that is no member raises MASK_MISUSE before any effect. -/
def Obligations.LaneMasks : Prop :=
  (∀ (s : State) (c : Cx), s.cx? = some c → ∀ (k : Fin 12) (p : Opnd),
    let changes (i : Instr) (pick : Thread → Bool) (set : Bool) : Prop :=
      (∀ u ∈ c.w.threads, u.live = true → u.wait.onMask k = false) →
      c.Leaves s i fun w' => ∃ m : LaneSet,
        (∀ l < 128, m.getLsbD l = if c.active.any (fun u => u.lane = l && pick u) then set else laneIn (c.w.mask k) l) ∧
        w' = { c.w with masks := c.w.masks.set k.val m, threads := w'.threads, ccnt := w'.ccnt, hangBase := w'.hangBase, regErr := w'.regErr } ∧
        c.Shows c.passed w'
    changes (.join k) (fun _ => true) true ∧ changes (.joinCond k p) (fun u => c.rdP u p) true ∧
    changes (.leave k) (fun _ => true) false ∧ changes (.leaveCond k p) (fun u => c.rdP u p) false ∧
    ∀ (at_ : PC) (rest : List Thread), rest ≠ [] → c.w.event = none → c.iss.mode = .portable → c.w.masks.length = 12 →
      rest = (c.w.threads.filter fun u => u.live && laneIn (c.w.mask k) u.lane && !c.w.activeLanes.contains u.lane) →
      (∀ u ∈ c.w.threads, u.lane < 128) → (∀ u ∈ rest, u.wait = .mask k ∧ u.pc = at_) →
      Answers (.leave k) s fun t => ∃ w', t.warps.get? c.key = some w' ∧
        ∀ u' ∈ w'.threads, u'.live = true → u'.lane ∈ rest.map Thread.lane → u'.wait = .none ∧ u'.pc = at_.succ) ∧
  ∀ (s : State) (c : Cx), s.cx? = some c → ∀ (k : Fin 12), c.w.event = none → c.w.ready c.w.turn = true →
    let out := c.active.filter fun u => !laneIn (c.w.mask k) u.lane
    if out ≠ [] then Stops s c (.waitm k) { code := evMaskMisuse, qual := k.val } (out.map Thread.lane)
    else
      (c.w.members k = c.active → (∀ u ∈ c.active, u.pc = c.lead.pc ∧ u.nat = c.lead.nat) →
        c.Leaves s (.waitm k) fun w' => w' = { c.w with threads := w'.threads } ∧
          (w'.threads.filter Thread.live).map Thread.view = (c.w.threads.filter Thread.live).map fun u => (c.passed u).view) ∧
      ((∃ u ∈ c.w.members k, u.grp ≠ c.w.turn ∧ u.wait.onMask k = false) →
        c.Leaves s (.waitm k) fun w' => c.KeepsPaths w' ∧ c.Shows (c.act fun u => { u with wait := .mask k }) w')

/-- R154: where the group that reaches a collective holds every live member of the mask, the instruction takes effect for all of them
together, and each participant receives: R155 its source lane's value, R156 one lane's value, R157 a prefix in lane order, R158 the
reduction (for fadd the root of the fixed tree over lanes), R195 the vote. Operands of dyn that do not all carry one float tag raise
FORMAT in every participant of `scan` and `wred`; a thread that is no member raises MASK_MISUSE. (That a dyn value of tag 0 travels
without FORMAT through `shfl` and `bcast` is the model's choice, log 25.) -/
def Obligations.Collectives : Prop :=
  ∀ (s : State) (c : Cx), s.cx? = some c → c.w.event = none → c.w.ready c.w.turn = true →
    ∀ (k : Fin 12) (ty : Ty) (mode : ShflMode) (seg : Fin 7) (x sel : Opnd) (op : ScanOp) (sgn excl : Bool) (vm : VoteMode) (h : Fin 2),
      let ps := c.active
      let value (u : Thread) : Val := if ty = tyDyn then c.val ty u x else mkVal ty (c.rd ty u x)
      let at_ (l : Nat) (d : Thread) : Thread := (ps.find? fun u => u.lane = l).getD d
      let out := ps.filter fun u => !laneIn (c.w.mask k) u.lane
      let met : Prop := c.w.members k = ps ∧ ∀ u ∈ ps, u.pc = c.lead.pc ∧ u.nat = c.lead.nat
      let done (i : Instr) (f : Thread → Val) : Prop :=
        if out ≠ [] then Stops s c i { code := evMaskMisuse, qual := k.val } (out.map Thread.lane)
        else met →
          c.Leaves s i fun w' =>
            match c.iss.mode with
            | .portable => w' = { c.w with threads := w'.threads } ∧
                (w'.threads.filter Thread.live).map Thread.view = (c.w.threads.filter Thread.live).map fun u => (c.resulted f u).view
            | .native _ _ _ => w' = { c.w.putAll c.iss f ps with threads := w'.threads } ∧
                (w'.threads.filter Thread.live).map Thread.view = (c.w.threads.filter Thread.live).map fun u => (c.passed u).view
      let misfit (i : Instr) : Prop := out = [] → met → c.Leaves s i fun w' =>
        ∃ ev, w' = { c.w with threads := w'.threads, event := some ev } ∧ ev.code = evFormat ∧ ev.flanes = lanesOf (ps.map Thread.lane) ∧
          c.Shows (c.act fun u => { u with wait := .coll k c.iss i }) w'
      let S := 128 / 2 ^ seg.val
      let comb (u : Ty) (a b : W64) : W64 := map2 u (scanElem op sgn u) a b
      let fold (u : Ty) (us : List Thread) : W64 :=
        match us.map fun v => c.rd u v x with
        | [] => packElems u (List.replicate u.count (scanIdent op sgn u))
        | a :: as => as.foldl (comb u) a
      done (.shfl ty mode seg x sel k) (fun u =>
        let l := u.lane
        let l0 := l - l % S
        let n := c.rd32 u sel
        value (at_ (match mode with
          | .idx => l0 + n % S | .up => if l0 + n ≤ l then l - n else l | .down => if l + n < l0 + S then l + n else l
          | .xor => l0 + Nat.xor (l - l0) (n % S)) u)) ∧
      done (.bcast ty x sel k) (fun _ => value (at_ (c.rd32 c.lead sel % 128) c.lead)) ∧
      done (.bcastFirst ty x k) (fun _ => value c.lead) ∧
      (match if ty = tyDyn then commonTag Ty.float (ps.map fun u => c.val ty u x) else some ty with
       | some u =>
         done (.scan ty op sgn excl x k) (fun t => mkVal u (fold u (ps.filter fun v => if excl then v.lane < t.lane else v.lane ≤ t.lane))) ∧
         done (.wred ty op sgn x k) (fun _ => mkVal u (if op = .fadd then (treeSum (comb u) (fun l => (ps.find? fun v => v.lane = l).map fun v => c.rd u v x) 7 0).getD 0
           else fold u ps))
       | none => misfit (.scan ty op sgn excl x k) ∧ misfit (.wred ty op sgn x k)) ∧
      done (.vote vm x k) (fun _ => mkVal tyP (boolBits (match vm with
        | .any => ps.any fun u => c.rdP u x
        | .all => ps.all fun u => c.rdP u x
        | .uni => (ps.all fun u => c.rdP u x) || !ps.any fun u => c.rdP u x))) ∧
      ∃ m : W64, (∀ j < 64, m.getLsbD j = ps.any fun u => u.lane = 64 * h.val + j && c.rdP u x) ∧ done (.voteBallot x h k) (fun _ => mkVal tyB64 m)

/-! ## Memory -/

/-- R258, R255, R260: an `ld` or `st` of scratch space is checked in every thread that is not predicated off before any thread accesses
memory. The lowest failing thread's event stops the warp: ADDR_ALIGN (0x12) where its address is no multiple of Min(W, 8), else
SCRATCH_BOUNDS (0x14) where its W bytes do not end within the grant; FADDR is its address. -/
def Obligations.ScratchChecks : Prop :=
  ∀ (s : State) (c : Cx), s.cx? = some c → ∀ (ty : Ty) (na : Bool) (p : Pred) (addr v : Opnd) (off : Option (BitVec 30)), ty.dynTag = true →
    let n := Nat.max 1 ty.bytes
    let a (u : Thread) : Nat := (c.rd tyB64 u addr + (match off with | some o => o.signExtend 64 | none => 0)).toNat
    let fails (u : Thread) : Option Nat :=
      if a u % Nat.min n 8 ≠ 0 then some evAddrAlign else if (s.wg c.w.wg).grant * 256 < a u + n then some evScratchBounds else none
    let on := c.active.filter fun u => !c.off p u
    ∀ (u : Thread) (code : Nat), on.find? (fun u => (fails u).isSome) = some u → fails u = some code →
      let e : EvInfo := { code := code, qual := if code = evAddrAlign then 4 else 0, faddr := BitVec.ofNat 64 (a u) }
      let ls := (on.filter fun u => fails u = some code).map Thread.lane
      Stops s c (.ld ty .scratch na p addr off) e ls ∧ Stops s c (.st ty .scratch na p addr v off) e ls

/-- R311, R313, R315, R305, R260: with demand paging off, an `ld` or `st` of global space by one thread whose address lies beyond 57 bits, or which
no translation of the core's micro-TLB or the cluster's TLB serves and whose walk ends at an absent or malformed entry, stops with ADDR_UNMAPPED (kind 0 for a read, 1 for a write); a
store through a translation without W, or of a published page, stops with ADDR_PERM (kind 2). FADDR is the address. -/
def Obligations.TranslationFaults : Prop :=
  ∀ (s : State) (c : Cx), s.cx? = some c → ∀ (ty : Ty) (na : Bool) (p : Pred) (addr v : Opnd) (off : Option (BitVec 30)) (u : Thread) (d : Nat × CtxDesc),
    ty.dynTag = true → (c.active.filter fun u => !c.off p u) = [u] →
    let a := c.addr u addr off
    let s1 (wr : Bool) := s.walks c.iss.core c.w.asid [(.global, a, wr)]
    (∀ wr, (s1 wr).dpage c.site c.w.asid = false ∧ ((s1 wr).die c.site).ctx? c.w.asid = some d) →
    let held (wr : Bool) : Option TlbEntry := 
      (((s1 wr).core c.iss.core).utlb ++ ((s1 wr).cluster (clusterOf c.iss.core)).tlb).find? fun e => e.holds c.w.asid false a && (!wr || !e.w || e.dirtySet)
    let stops (i : Instr) (wr : Bool) (code kind : Nat) : Prop :=
      ∃ w', exec i s = .next { s1 wr with warps := s.warps.set c.key w', issue := none } ∧
        c.Stopped { code := code, qual := kind, faddr := BitVec.ofNat 64 a } [u.lane] w'
    let ld : Instr := .ld ty .global na p addr off
    let st : Instr := .st ty .global na p addr v off
    let lost (wr : Bool) : Prop := 2 ^ 57 ≤ a ∨ (held wr = none ∧ (((s1 wr).walk c.site c.w.asid false a).2 = .absent ∨ ∃ q, ((s1 wr).walk c.site c.w.asid false a).2 = .malformed q))
    (lost false → stops ld false evAddrUnmapped 0) ∧ (lost true → stops st true evAddrUnmapped 1) ∧
    ∀ e, a < 2 ^ 57 → held true = some e → (e.w = false ∨ e.pub = true) → stops st true evAddrPerm 2

/-- R258, R259, R325, R327: where no check raises an event, `ld` completes, whatever the space: each thread that is not predicated off
receives the W bytes at its place, little-endian, each byte the newest held one of the core, else the L1's, else the home's; the first
thread reads in the state after the page walks, each later one in a state with the same bytes whose L1 holds besides only copies of
lines as they stand at home. A thread predicated off gets zero. Nothing but the core's L1 and the homes' bookkeeping differs. -/
def Obligations.OrdinaryLoad : Prop :=
  ∀ (s : State) (c : Cx), s.cx? = some c → ∀ (ty : Ty) (sp : Space) (na : Bool) (p : Pred) (addr : Opnd) (off : Option (BitVec 30)),
    let n := Nat.max 1 ty.bytes
    let on := c.active.filter fun u => !c.off p u
    let a (u : Thread) : Nat := c.addr u addr off
    let s1 := s.walks c.iss.core c.w.asid (on.map fun u => (sp, a u, false))
    (∀ u ∈ on, c.events s1 u false { space := sp, addr := a u, n := n, align := Nat.min n 8, read := true, write := false, ord := true } = []) →
    Answers (.ld ty sp na p addr off) s fun t => ∃ (w' : Warp) (got : Thread → W64),
      t = { s1 with warps := s.warps.set c.key w', cores := t.cores, dies := t.dies, issue := none } ∧ s1.SameBytes t ∧
      (∀ k, k ≠ c.iss.core → t.core k = s1.core k) ∧
      t.core c.iss.core = { s1.core c.iss.core with l1 := (t.core c.iss.core).l1, l1Clock := (t.core c.iss.core).l1Clock } ∧
      c.Took (fun u => { bits := if c.off p u then 0 else normBits ty (got u), tag := ty.code }) w' ∧
      ∀ u ∈ on, ∃ s', s1.ReadsAs c sp (a u) n (got u) s' ∧ (on.head? = some u → s' = s1)

/-- R258, R259, R325: where no check raises an event, the held lines fit and nothing is watched, `st` completes: in global and host space the W
bytes of each thread's value are held for the warp (no byte of device or host memory changes), in scratch and cluster space they are in
the grant; where threads meet, the highest prevails. R319: `cctl.zero` stores 128 zero bytes in the same way. -/
def Obligations.OrdinaryStore : Prop :=
  ∀ (s : State) (c : Cx), s.cx? = some c → s.canonical → ∀ (ty : Ty) (sp : Space) (na : Bool) (p : Pred) (addr v : Opnd) (off : Option (BitVec 30)),
    let tyOf (u : Thread) : Ty := if ty = tyDyn then c.tagOf u v else ty
    let n (u : Thread) : Nat := Nat.max 1 (tyOf u).bytes
    let a (u : Thread) : Nat := c.addr u addr off
    let fits (s1 : State) (sp : Space) (rs : List StoreReq) : Prop :=
      (s1.core c.iss.core).hold.length + newLines (s1.core c.iss.core) c.w.name (rs.filterMap (reqPlace s1 c sp)) ≤ 512 ∧
      (sp = .global → s1.smpFor c.site c.w.asid ≠ 1)
    let leaves (i : Instr) (s1 : State) (sp : Space) (rs : List StoreReq) : Prop :=
      Answers i s fun t => c.Stored s1 sp rs t ∧ ∃ w', t.warps = s.warps.set c.key w' ∧ c.KeepsWarp w' ∧
        c.Shows (fun u => c.passed (c.act Thread.useExempt u)) w'
    (let on := c.active.filter fun u => !c.off p u
     let s1 := s.walks c.iss.core c.w.asid (on.map fun u => (sp, a u, true))
     let rs : List StoreReq := on.map fun u => { t := u, addr := a u, bytes := leBytes (n u) (normBits (tyOf u) (c.rd (tyOf u) u v)).toNat }
     (∀ u ∈ on, (tyOf u).dynTag = true) →
     (∀ u ∈ on, c.events s1 u (sp = .global) { space := sp, addr := a u, n := n u, align := Nat.min (n u) 8, read := false, write := true } = []) →
     fits s1 sp rs → leaves (.st ty sp na p addr v off) s1 sp rs) ∧
    (let s1 := s.walks c.iss.core c.w.asid (c.active.map fun u => (.global, a u, true))
     let rs : List StoreReq := c.active.map fun u => { t := u, addr := a u, bytes := List.replicate 128 0 }
     (∀ u ∈ c.active, c.events s1 u true { space := .global, addr := a u, n := 128, align := 128, read := false, write := true } = []) →
     fits s1 .global rs → leaves (.cctl .zero addr off) s1 .global rs)

/-- R336, R339: a strong access of one thread completes at once where nothing of its warp is held or under way, no check raises an
event, and its launch is neither logged nor replayed nor ordered by DET. The value read is the W bytes at the home; `stb` writes the
operand, `atom` and `red` the operation's result, `atomc` the new value where the value read equals the comparand; every other byte of
memory and of the grant is unchanged. `ldb`, `atom` and `atomc` define the value read. An acquire beyond core scope drops the L1. -/
def Obligations.StrongAccess : Prop :=
  ∀ (s : State) (c : Cx), s.cx? = some c → s.canonical →
    ∀ (ty : Ty) (sp : Space) (ord : Ord) (op : AtomOp) (sgn : Bool) (p : Pred) (addr v w : Opnd) (off : Option (BitVec 30)) (u : Thread) (pl : Place),
    let n := Nat.max 1 ty.bytes
    let a := c.addr u addr off
    let access (i : Instr) (wr atomic defines : Bool) (det : Nat) (new : W64 → Option W64) : Prop :=
      let s1 := s.walks c.iss.core c.w.asid [(sp, a, wr)]
      let old : W64 := BitVec.ofNat 64 (leOf n (s1.homeByte c pl))
      (c.active.filter fun u => !c.off p u) = [u] → u.home = none → s1.place c.iss.core c.w.asid c.w.wg sp a n wr = .ok pl →
      c.events s1 u (sp = .global && wr && (new old).isSome) 
        { space := sp, addr := a, n := n, align := if atomic then n else Nat.min n 8, read := !wr || atomic, write := wr } = [] →
      (∀ e ∈ (s1.core c.iss.core).hold, e.owner ≠ c.w.name) → (∀ i < 4, (s1.die i).det = [] ∧ (s1.die i).snap = none) → c.site < 4 →
      s1.logMode c.site c.w.asid c.w.lseq = 0 → s1.smpFor c.site c.w.asid ≠ 1 → (det = 1 → s1.detFlag c = false) →
      Answers i s fun t => ∃ w',
        t = { s1 with warps := s.warps.set c.key w', cores := t.cores, dies := t.dies, wgs := t.wgs, mem := t.mem, hostMem := t.hostMem
                      poison := t.poison, issue := none } ∧
        w' = { c.w with threads := w'.threads, native := w'.native, masks := w'.masks, ccnt := w'.ccnt, hangBase := w'.hangBase, regErr := w'.regErr } ∧
        (c.iss.mode = .portable → c.Shows (fun x =>
          let y := if defines then c.resulted (fun z => { bits := if c.off p z then 0 else normBits ty old, tag := ty.code }) x else c.passed x
          if x.live && x.grp = c.w.turn then { y with exempt := x.useExempt.exempt, detN := if c.off p x then x.detN else x.detN + det } else y) w') ∧
        (∀ x, t.byte x = match pl with
          | .mem q => if q.host || x < q.pa || q.pa + n ≤ x || !deviceByte x then s1.byte x
            else (match new old with | some y => BitVec.ofNat 8 (y.toNat / 256 ^ (x - q.pa)) | none => s1.byte x)
          | _ => s1.byte x) ∧
        (∀ x, cellGet t.hostMem x = match pl with
          | .mem q => if !q.host || x < q.pa || q.pa + n ≤ x then cellGet s1.hostMem x
            else (match new old with | some y => BitVec.ofNat 8 (y.toNat / 256 ^ (x - q.pa)) | none => cellGet s1.hostMem x)
          | _ => cellGet s1.hostMem x) ∧
        (∀ g x, cellGet (t.wg g).scratch x = match pl with
          | .pad k o => if g ≠ k || x < o || o + n ≤ x then cellGet (s1.wg g).scratch x
            else (match new old with | some y => BitVec.ofNat 8 (y.toNat / 256 ^ (x - o)) | none => cellGet (s1.wg g).scratch x)
          | _ => cellGet (s1.wg g).scratch x) ∧
        ∀ sc, (ord = .acq sc ∨ ord = .acqrel sc) → sc ≠ .core → (t.core c.iss.core).l1 = []
    let val : W64 := normBits ty (c.rd ty u v)
    access (.ldb ty ord sp p addr off) false false true 0 (fun _ => none) ∧
    access (.stb ty ord sp p addr v off) true false false 0 (fun _ => some val) ∧
    access (.atom ty op sgn ord sp p addr v off) true true true 1 (fun o => some (atomNew op sgn ty o val)) ∧
    access (.atomc ty ord sp p addr w v off) true true true 1 (fun o => if o = c.rd ty u w then some val else none) ∧
    (¬(op = .fadd ∧ sp = .global ∧ imageGen c.ws = 3 ∧ s.detFlag c = true) →
      access (.red ty op sgn ord sp p addr v off) true true false 0 (fun o => some (atomNew op sgn ty o val)))

/-- R342: in a DET launch of a ZPF-3 module a `red.fadd` to global space does not change memory: where its warp holds nothing, no check raises an
event, no log is written and the home has room, the reduction is appended to those the home's die keeps, named by the thread's work
identifier and its count, which rises by one. -/
def Obligations.BufferedReduction : Prop :=
  ∀ (s : State) (c : Cx), s.cx? = some c → ∀ (ty : Ty) (sgn : Bool) (p : Pred) (addr v : Opnd) (off : Option (BitVec 30)) (u : Thread) (x : Xlat),
    let n := Nat.max 1 ty.bytes
    let a := c.addr u addr off
    let s1 := s.walks c.iss.core c.w.asid [(.global, a, true)]
    imageGen c.ws = 3 → s.detFlag c = true → (c.active.filter fun u => !c.off p u) = [u] →
    s1.place c.iss.core c.w.asid c.w.wg .global a n true = .ok (.mem x) →
    c.events s1 u false { space := .global, addr := a, n := n, align := n, read := true, write := true } = [] →
    s1.openLines c = 0 → s1.logMode c.site c.w.asid c.w.lseq ≠ 1 → s1.redRoom c.w.asid [] [x] = true →
    Answers (.red ty .fadd sgn .none .global p addr v off) s fun t => ∃ w' e,
      t = { s1 with warps := s.warps.set c.key w', dies := t.dies, issue := none } ∧
      t.die (siteOfPa x.pa) = { s1.die (siteOfPa x.pa) with reds := (s1.die (siteOfPa x.pa)).reds ++ [e] } ∧
      e.asid = c.w.asid ∧ e.lseq = c.w.lseq ∧ e.wid = u.wid.toNat ∧ e.n = u.redN ∧ e.pa = x.pa ∧ e.v = normBits ty (c.rd ty u v) ∧ c.KeepsWarp w' ∧
      c.Shows (fun y => { c.passed y with redN := if y.live && y.grp = c.w.turn && !c.off p y then y.redN + 1 else y.redN }) w'

/-- R337, R338, R329: `fence.acq` drops every line of the core's L1 beyond core scope and moves on. R328, R331: in a launch that writes no
log, `phase` and a releasing fence make a phase boundary, by which every line the warp holds is to be published; `phase` moves on at once, a releasing fence when
the release has completed, and until then the warp stands at it. No byte of memory changes. -/
def Obligations.FencesAndPhases : Prop :=
  ∀ (s : State) (c : Cx), s.cx? = some c → ∀ (sc : Scope),
    let dropped (t : State) : Prop := sc ≠ .core → (t.core c.iss.core).l1 = []
    let moved (t : State) (w' : Warp) : Prop := t.warps = s.warps.set c.key w' ∧ c.Shows c.passed w' ∧ (c.iss.mode = .portable → w'.ccnt = c.w.ccnt + 1)
    let kept (t : State) : Prop := t = { s with warps := t.warps, cores := t.cores, issue := none } ∧ ∀ k, k ≠ c.iss.core → t.core k = s.core k
    (Answers (.fence .acq sc) s fun t => kept t ∧ dropped t ∧ (t.core c.iss.core).hold = (s.core c.iss.core).hold ∧ ∃ w', moved t w' ∧ c.KeepsWarp w') ∧
    (s.logMode c.site c.w.asid c.w.lseq ≠ 1 →
      (Answers .phase s fun t => kept t ∧ c.Publishes t ∧ ∃ w', moved t w') ∧
      ∀ (fo : FenceOrd), fo ≠ .acq →
        let held := (s.core c.iss.core).hold.any fun e => e.owner = c.w.name && (!e.pl.host || sc = .domain || sc = .system)
        let under := s.dies.any fun d => d.2.det.any fun h => h.owner = c.w.name
        Answers (.fence fo sc) s fun t => kept t ∧ c.Publishes t ∧
          if sc = .core ∨ (held = false ∧ under = false) then (fo = .acqrel → dropped t) ∧ ∃ w', moved t w'
          else ∃ w', t.warps.get? c.key = some w' ∧ w'.threads = c.w.threads)

/-- R261, R319: `prefetch` and `cctl.wb`, `cctl.evict` and `cctl.cold` complete whatever their addresses are (a thread whose address cannot be reached
is skipped), and no byte of any space differs from what it is after the page walks. -/
def Obligations.PrefetchAndCacheControl : Prop :=
  ∀ (s : State) (c : Cx), s.cx? = some c → ∀ (csc : Bool) (sp : Space) (addr : Opnd) (off : Option (BitVec 30)) (op : CctlOp),
    let a := c.active.map fun u => c.addr u addr off
    let done (i : Instr) (s1 : State) : Prop := Answers i s fun t => ∃ w',
      t = { s1 with warps := s.warps.set c.key w', cores := t.cores, dies := t.dies, issue := none } ∧ c.Moved w' ∧ s1.SameBytes t
    done (.prefetch csc sp addr off) (s.walks c.iss.core c.w.asid (a.map fun x => (sp, x, false))) ∧
    (op ≠ .zero → done (.cctl op addr off) (s.walks c.iss.core c.w.asid (a.map fun x => (.global, x, false))))

/-! ## Shapes, groups and copies -/

/-- R276, R275: `shp` reads the 21 words of the descriptor as ordinary loads of the lowest thread; a valid one takes the lowest free slot from 1, and the handle is
slot x 4096 + generation; an invalid one, or no free slot, gives 0 and changes no slot. `shp.free` of a live handle empties its slot and
advances its generation (or retires the slot), so that the handle names nothing; of any other handle it raises HANDLE_STALE.
R277: the address of a tensor element is the base plus the sum of each signed coordinate times the stride of its dimension. R278: `ldt` loads
one element of the element type of the handle's descriptor, and the value carries that type's tag. A stale handle raises HANDLE_STALE in the threads that
name it, before any access. -/
def Obligations.ShapesAndTensors : Prop :=
  (∀ (s : State) (c : Cx), s.cx? = some c → ∀ (o : Opnd), s.logMode c.site c.w.asid c.w.lseq ≠ 1 →
    let a := c.rd64 c.lead o
    let h := c.rd32 c.lead o
    let s1 := s.walks c.iss.core c.w.asid ((List.range 21).map fun i => (.global, a + 8 * i, false))
    let slots (x : State) (i : Nat) : Option ShapeSlot := (x.info c.w.asid).shapes.get? i
    let free (i : Nat) : Prop := ∀ sl, slots s i = some sl → sl.shape = none ∧ sl.retired = false
    ((∀ i < 21, c.events s1 c.lead false { space := .global, addr := a + 8 * i, n := 8, align := 8, read := true, write := false, ord := true } = []) →
      s1.logMode c.site c.w.asid c.w.lseq ≠ 1 →
      Answers (.shp o) s fun t => ∃ w' b ws hd,
        t = { s1 with warps := s.warps.set c.key w', cores := t.cores, dies := t.dies, infos := t.infos, issue := none } ∧ s1.SameBytes t ∧
        c.Publishes t ∧ (c.bounded b).Took (fun _ => { bits := BitVec.ofNat 64 hd, tag := tyB32.code }) w' ∧
        ws.length = 21 ∧ (∀ i < 21, ∃ s', s1.ReadsAs c .global (a + 8 * i) 8 (ws.getD i 0) s') ∧
        ((shapeOf ws = none ∧ hd = 0 ∧ t.infos = s1.infos) ∨
         ∃ sh, shapeOf ws = some sh ∧
          ((hd = 0 ∧ t.infos = s1.infos ∧ ∀ i, 1 ≤ i → i < s1.shapeSlots c.site c.w.asid → ¬ free i) ∨
           ∃ i, 1 ≤ i ∧ i < s1.shapeSlots c.site c.w.asid ∧ free i ∧ (∀ j, 1 ≤ j → j < i → ¬ free j) ∧
            (slots t i).bind ShapeSlot.shape = some sh ∧ hd = i * 4096 + ((slots t i).map ShapeSlot.gen).getD 0 ∧
            ((slots t i).map ShapeSlot.gen) = some (((slots s i).map ShapeSlot.gen).getD 1) ∧ ∀ j, j ≠ i → slots t j = slots s j))) ∧
    (s.shape? c.w.asid h = none → Stops s c (.shpFree o) { code := evHandleStale } c.w.activeLanes) ∧
    (s.shape? c.w.asid h ≠ none →
      Answers (.shpFree o) s fun t => ∃ w' b,
        t = { s with warps := s.warps.set c.key w', cores := t.cores, infos := t.infos, issue := none } ∧ c.Publishes t ∧
        (c.bounded b).Moved w' ∧ (∃ sl, slots t (h / 4096) = some sl ∧ sl.shape = none ∧ (sl.retired = true ∨ sl.gen = h % 4096 + 1)) ∧
        t.shape? c.w.asid h = none ∧ ∀ j, j ≠ h / 4096 → slots t j = slots s j)) ∧
  ∀ (s : State) (c : Cx), s.cx? = some c → ∀ (base h : Opnd) (cs : List Opnd) (sp : Space) (na : Bool) (p : Pred) (addr : Opnd),
    let sh? (u : Thread) : Option Shape := s.shape? c.w.asid (c.rd32 u h)
    let on := c.active.filter fun u => !c.off p u
    ((∀ u ∈ c.active, ∃ sh, sh? u = some sh ∧ sh.strides.length = cs.length) →
      LaneResult s c (.taddr base h cs) (c.under none tyB64 fun u =>
        BitVec.ofInt 64 ((c.rd64 u base : Int) + (List.zipWith (fun x (k : Nat) => toSigned 32 (c.rd32 u x) * k) cs (((sh? u).map Shape.strides).getD [])).foldl (· + ·) 0))) ∧
    (c.active ≠ [] → (∀ u ∈ c.active, sh? u = none) → Stops s c (.taddr base h cs) { code := evHandleStale } c.w.activeLanes) ∧
    (on.any (fun u => (sh? u).isNone) = true → Stops s c (.ldt sp na p h addr) { code := evHandleStale } ((on.filter fun u => (sh? u).isNone).map Thread.lane)) ∧
    (let ety (u : Thread) : Ty := ((sh? u).map Shape.ety).getD tyVoid
     let n (u : Thread) : Nat := Nat.max 1 (ety u).bytes
     let a (u : Thread) : Nat := c.addr u addr none
     let s1 := s.walks c.iss.core c.w.asid (on.map fun u => (sp, a u, false))
     (∀ u ∈ on, (sh? u).isSome) →
     (∀ u ∈ on, c.events s1 u false { space := sp, addr := a u, n := n u, align := Nat.min (n u) 8, read := true, write := false, ord := true } = []) →
     Answers (.ldt sp na p h addr) s fun t => ∃ (w' : Warp) (got : Thread → W64),
       t = { s1 with warps := s.warps.set c.key w', cores := t.cores, dies := t.dies, issue := none } ∧ s1.SameBytes t ∧
       c.Took (fun u => if c.off p u then { bits := 0, tag := tyVoid.code } else { bits := normBits (ety u) (got u), tag := (ety u).code }) w' ∧
       ∀ u ∈ on, ∃ s', s1.ReadsAs c sp (a u) (n u) (got u) s')

/-- R279, R283: where the checks of R281 raise nothing and the tracker and the tag have room, a copy instruction appends its job to the core's and
raises its tag's COUNT; the job carries the operation of its operands as the lowest thread reads them, its footprints (the declared ones
with `.fp`), and an edge to each earlier job of its context that it conflicts with: one writes what the other reads or writes. A linear copy or fill of length 0 completes at once. No byte of memory changes yet. -/
def Obligations.CopyInstructionsIssueJobs : Prop :=
  ∀ (s : State) (c : Cx), s.cx? = some c → s.logMode c.site c.w.asid c.w.lseq ≠ 1 →
    ∀ (sc : Scope) (ss ds : Space) (dst src x h : Opnd) (cs : List Opnd) (ty : Ty) (op : CpyqOp) (sgn sat scatter idx : Bool) (tag : Fin 64) (fp : Option (BitVec 29)),
    let core := c.iss.core
    let i := s.tagOf c.w.wg tag.val
    let d := c.rd64 c.lead dst
    let a := c.rd64 c.lead src
    let n := c.rd64 c.lead x
    let issues (ins : Instr) (js : JobSpec) : Prop :=
      let decl := (fp.map fun f => c.declared f.toNat).getD []
      let rd := if fp.isSome then (decl.filter fun q => !q.1).map Prod.snd else js.reads
      let wr := if fp.isSome then (decl.filter Prod.fst).map Prod.snd else js.writes
      js.tooBig = none → (∀ q ∈ js.aligned, q.2.1 % q.2.2 = 0) → (∀ r ∈ js.reads ++ js.writes, s.rangeEvent c r = []) →
      (fp.isSome → ∀ r ∈ rd ++ wr, s.rangeEvent c r = []) → (s.core core).jobs.length < 128 → (s.tag core i).count < 255 →
      Answers ins s fun t => ∃ w', c.Shows c.passed w' ∧
        if js.empty then
          t.warps.get? c.key = some w' ∧ t.mem = s.mem ∧ t.hostMem = s.hostMem ∧ (t.core core).jobs = (s.core core).jobs ∧
          (t.tag core i).count = (s.tag core i).count ∧
          ((s.tag core i).count = 0 → (∀ q ∈ s.warps, ∀ u ∈ q.2.threads, stalledOn i u = false) → (t.tag core i).pend = true)
        else t = { s with warps := s.warps.set c.key w', cores := t.cores, issue := none } ∧ c.KeepsWarp w' ∧
          (t.tag core i).count = (s.tag core i).count + 1 ∧ ∃ job, (t.core core).jobs = (s.core core).jobs ++ [job] ∧
          job.op = js.op ∧ job.tag = i ∧ job.asid = c.w.asid ∧ job.owner = c.w.name ∧ job.scope = sc ∧ job.started = false ∧
          job.reads = rd.map (s.fpRange c) ∧ job.writes = wr.map (s.fpRange c) ∧
          ∀ j ∈ (s.core core).jobs, j.asid = c.w.asid →
            (anyMeet job.reads j.writes = true ∨ anyMeet job.writes j.reads = true ∨ anyMeet job.writes j.writes = true) → j.id ∈ job.edges
    let rng (sp : Space) (lo len : Nat) : Rng := { space := sp, lo := lo, len := len }
    issues (.cpy sc ss ds dst src x tag fp)
      { op := .copy (s.jloc c ds d) (s.jloc c ss a) n, reads := [rng ss a n], writes := [rng ds d n], tooBig := tooLong ds d n (2 ^ 40), empty := n = 0 } ∧
    issues (.cpyf ty sc ds dst x src tag fp)
      { op := .fill (s.jloc c ds d) n (Nat.max 1 ty.bytes) (c.rd ty c.lead src), reads := [], writes := [rng ds d n],
        aligned := [(ds, d, Nat.max 1 ty.bytes)], tooBig := tooLong ds d n (2 ^ 40), empty := n = 0 } ∧
    (let w := Nat.max 1 ty.bytes
     issues (.cpyq ty op sgn sat sc ss ds dst src x tag fp)
      { op := .reduce ty op sgn sat (s.jloc c ds d) (s.jloc c ss a) n, reads := [rng ss a (n * w), rng ds d (n * w)], writes := [rng ds d (n * w)]
        aligned := [(ds, d, Nat.min w 8), (ss, a, Nat.min w 8)], tooBig := tooLong ds d n (2 ^ 32) }) ∧
    match s.shape? c.w.asid (c.rd32 c.lead h) with
    | none =>
      Stops s c (.cpyShape scatter sc ss ds dst src h tag fp) { code := evHandleStale } c.w.activeLanes ∧
      Stops s c (.gld idx sc ss ds dst src h cs tag fp) { code := evHandleStale } c.w.activeLanes ∧
      Stops s c (.gst idx sc ss ds dst src h cs tag fp) { code := evHandleStale } c.w.activeLanes
    | some sh =>
      (if sh.strides.length ≤ 4 then
        let dense := sh.boxBytes
        let strided := spanOf sh sh.boxes
        issues (.cpyShape scatter sc ss ds dst src h tag fp)
          { op := .shaped scatter (s.jloc c ds d) (s.jloc c ss a) sh, reads := [rng ss a (if scatter then dense else strided)]
            writes := [rng ds d (if scatter then strided else dense)], aligned := [(ds, d, Nat.min sh.esize 8), (ss, a, Nat.min sh.esize 8)] }
       else Stops s c (.cpyShape scatter sc ss ds dst src h tag fp) { code := evFormat } c.w.activeLanes) ∧
      (if sh.strides.length = cs.length then
        (∀ js, boxSpec s c true idx ss ds a d h cs = .ok js → issues (.gld idx sc ss ds dst src h cs tag fp) js) ∧
        (∀ js, boxSpec s c false idx ds ss a d h cs = .ok js → issues (.gst idx sc ss ds dst src h cs tag fp) js)
       else Stops s c (.gld idx sc ss ds dst src h cs tag fp) { code := evFormat } c.w.activeLanes ∧
        Stops s c (.gst idx sc ss ds dst src h cs tag fp) { code := evFormat } c.w.activeLanes)

/-- R272: `cpyw` on a tag whose COUNT is 0 and PEND clear raises WAIT_ORPHAN; with PEND set it returns the code that the tag's first failed
job left, and clears the code and PEND, and with `.trap` a code other than 0 is raised as the event; with COUNT not 0 the group stands at
it until the jobs have completed, and then returns their code. R273: `colr` sets the tag's class. -/
def Obligations.CopyWaitAndClass : Prop :=
  ∀ (s : State) (c : Cx), s.cx? = some c → s.logMode c.site c.w.asid c.w.lseq ≠ 1 → ∀ (trap : Bool) (tag : Fin 64) (cl : Fin 4),
    let core := c.iss.core
    let i := s.tagOf c.w.wg tag.val
    let g := s.tag core i
    (c.lead.cwait = none → g.count = 0 → g.pend = false → Stops s c (.cpyw trap tag) { code := evWaitOrphan, qual := tag.val } c.w.activeLanes) ∧
    (c.lead.cwait = none → g.count = 0 → g.pend = true → (trap = false ∨ g.err = 0) →
      Answers (.cpyw trap tag) s fun t => ∃ w' b, t = { s with warps := s.warps.set c.key w', cores := t.cores, issue := none } ∧ c.Publishes t ∧
        (c.bounded b).Took (fun _ => { bits := BitVec.ofNat 64 g.err, tag := tyB32.code }) w' ∧
        t.tag core i = { g with err := 0, pend := false, lines := [] } ∧ ∀ ln ∈ g.lines, (t.core core).l1.get? ln = none) ∧
    (c.lead.cwait = none → g.count = 0 → g.pend = true → trap = true → g.err ≠ 0 →
      Answers (.cpyw trap tag) s fun t => ∃ w' ev, t.warps.get? c.key = some w' ∧ w'.event = some ev ∧ ev.code = g.err ∧ ev.qual = g.errQual ∧
        (g.err ≠ evAddrUnmapped → g.err ≠ evAddrPerm → ev.faddr = 0) ∧ ev.glanes = lanesOf c.w.activeLanes) ∧
    (c.lead.cwait = none → g.count ≠ 0 →
      Answers (.cpyw trap tag) s fun t => ∃ w', t = { s with warps := s.warps.set c.key w', cores := t.cores, issue := none } ∧ c.Publishes t ∧
        t.tag core i = g ∧ c.Shows id w' ∧ ∀ u ∈ w'.threads, u.live = true → u.grp = c.w.turn → u.cwait = some (i, none)) ∧
    (∀ j e, c.lead.cwait = some (j, some e) → (trap = false ∨ e = 0) →
      LaneResult s c (.cpyw trap tag) fun _ => { bits := BitVec.ofNat 64 e, tag := tyB32.code }) ∧
    Answers (.colr tag cl) s fun t => ∃ w', t = { s with warps := s.warps.set c.key w', cores := t.cores, issue := none } ∧ c.Moved w' ∧
      t.core core = { s.core core with tags := (t.core core).tags } ∧ t.tag core i = { g with cls := cl.val } ∧ ∀ j, j ≠ i → t.tag core j = s.tag core j

/-- R263: `cjoin` by one thread: 4 for a bad key or index, 3 in a gang or in another group, 0 where the workgroup already is that member, 2 where the index is taken, 1
with no free entry, else 0 and the workgroup is that member. R265: `cmap` gives 0 for no such member, the base of the open window onto
it, or of a closed one, which opens. R264: `cleave`, once no job uses the group and its release has completed, ends the membership and
revokes the windows onto the workgroup and its own; in no member of a group, and in a gang's, it only moves on. -/
def Obligations.SharingGroups : Prop :=
  ∀ (s : State) (c : Cx), s.cx? = some c → s.logMode c.site c.w.asid c.w.lseq ≠ 1 → ∀ (key m : Opnd) (u : Thread), c.active = [u] →
    let k := c.rd32 u key
    let i := c.rd32 u m
    let cl := clusterOf c.iss.core
    let me := s.wg c.w.wg
    let groups := (s.cluster cl).groups
    let kept (t : State) : Prop := t = { s with warps := t.warps, cores := t.cores, clusters := t.clusters, wgs := t.wgs, issue := none } ∧ c.Publishes t
    (s.wgs.get? c.w.wg = some me →
      Answers (.cjoin key m) s fun t => kept t ∧ ∃ w' b st, t.warps = s.warps.set c.key w' ∧
        (c.bounded b).Took (fun _ => { bits := BitVec.ofNat 64 st, tag := tyB32.code }) w' ∧
        if k = 0 ∨ 127 < i then st = 4 ∧ t.wgs = s.wgs
        else if me.isGang = true then st = 3 ∧ t.wgs = s.wgs
        else match me.group with
          | some (e, j) => t.wgs = s.wgs ∧ st = if (groups.get? e).any (fun x => x.key = k) ∧ j = i then 0 else 3
          | none =>
            match groups.find? (fun q => q.2.asid = me.asid && q.2.key = k && q.2.gang.isNone) with
            | some (e, x) =>
              if (x.members.get? i).isSome then st = 2 ∧ t.wgs = s.wgs
              else st = 0 ∧ (t.wg c.w.wg).group = some (e, i) ∧ ((t.cluster cl).groups.get? e).bind (fun y => y.members.get? i) = some c.w.wg
            | none =>
              if (List.range 64).all (fun e => (groups.get? e).isSome) then st = 1 ∧ t.wgs = s.wgs
              else st = 0 ∧ ∃ e < 64, (groups.get? e) = none ∧ (∀ e' < e, (groups.get? e').isSome) ∧ (t.wg c.w.wg).group = some (e, i) ∧
                (t.cluster cl).groups.get? e = some { asid := me.asid, key := k, members := [(i, c.w.wg)] }) ∧
    (s.wgs.get? c.w.wg = some me →
      Answers (.cmap m) s fun t => kept t ∧ ∃ w' b base, t.warps = s.warps.set c.key w' ∧ (c.bounded b).Took (fun _ => { bits := base, tag := tyB64.code }) w' ∧
        let win (j : Nat) : Window := me.windows.getD j {}
        let baseOf (j : Nat) : W64 := BitVec.ofNat 64 (j * 2 ^ 32 + (win j).gen * 2 ^ 20)
        match (me.group.bind fun q => (groups.get? q.1).bind fun e => e.members.get? i) with
        | none => base = 0 ∧ t.wgs = s.wgs
        | some _ =>
          match me.windows.findIdx? (fun w => w.open_ && w.target = i) with
          | some j => base = baseOf j ∧ t.wgs = s.wgs
          | none =>
            match me.windows.findIdx? (fun w => !w.open_) with
            | none => base = 0 ∧ t.wgs = s.wgs
            | some j => base = baseOf j ∧ (t.wg c.w.wg).windows = me.windows.set j { win j with open_ := true, target := i }) ∧
    (me.group = none ∨ me.isGang = true → c.Leaves s .cleave c.Moved) ∧
    ((∀ e ∈ (s.core c.iss.core).hold, e.owner ≠ c.w.name) → (∀ d ∈ s.dies, ∀ h ∈ d.2.det, h.owner ≠ c.w.name) →
      ∀ e j x, me.group = some (e, j) → me.isGang = false → groups.get? e = some x → s.wgs.get? c.w.wg = some me → x.members.get? j = some c.w.wg →
        (∀ q ∈ x.members, ∀ o ∈ (s.core (q.2 / 16)).jobs, o.touches c.w.wg = false) →
        Answers .cleave s fun t => kept t ∧ (t.wg c.w.wg).group = none ∧ (∀ w ∈ (t.wg c.w.wg).windows, w.open_ = false) ∧
          ((t.cluster cl).groups.get? e).bind (fun y => y.members.get? j) = none ∧
          (∀ q ∈ x.members, ∀ w ∈ (t.wg q.2).windows, w.open_ = true → w.target ≠ j) ∧ ∃ w' b, t.warps = s.warps.set c.key w' ∧ (c.bounded b).Moved w')

/-! ## Stopping, and the matrix engine -/

/-- R188, R386, R387, R374, R375: `unreachable` raises UNREACHABLE (0x0A); `trap` raises USER_TRAP (0x0B) with its number in the threads that are not predicated off, and
moves on where there is none; `brkpt` raises BREAK (0x0C) with its number where the debugger of the context's function has enabled breakpoints, and else has no effect. An
event changes nothing of the warp but its pending event. -/
def Obligations.StoppingInstructions : Prop :=
  ∀ (s : State) (c : Cx), s.cx? = some c → ∀ (n : BitVec 16) (p : Pred),
    let on := c.active.filter fun u => !c.off p u
    let enabled : Bool := match (s.die c.site).ctx? c.w.asid with
      | some d => (((s.die c.site).vfs.find? fun v => v.2.bound && v.2.slot = d.1).map fun v => v.2.dbgCtl.getLsbD 1).getD false
      | none => false
    Stops s c .unreachable { code := 0x0A } c.w.activeLanes ∧
    (if on = [] then LanePass s c (.trap n p) else Stops s c (.trap n p) { code := 0x0B, qual := n.toNat } (on.map Thread.lane)) ∧
    (if enabled then Stops s c (.brkpt n) { code := 0x0C, qual := n.toNat } c.w.activeLanes else LanePass s c (.brkpt n))

/-- R355, R356: `orsv` raises MATRIX_SHAPE for a K that R355 does not allow; it takes the lowest free record and the lowest free run of units of its store,
and the handle holds the generation, the side and the record; without room it raises RESERVE_FULL. R358: `orel` of a stale handle raises
HANDLE_STALE, waits while a tile operation touches the reservation, and else frees the record with its generation advanced and drops its scale
entries. R362: `aacq` takes the lowest free unit for 32 rows, and for 64 rows the lowest free pair (W2-E: the two lowest free units), else it raises ACC_EXHAUST; `arel` frees as `orel` does. -/
def Obligations.MatrixReservations : Prop :=
  ∀ (s : State) (c : Cx), s.cx? = some c →
    ∀ (side : Bool) (fmt : MFmt) (blk : Blk) (rows32 : Bool) (sp : Sparsity) (k h : Opnd) (cbs : Fin 8) (soff : BitVec 12),
    let core := c.iss.core
    let x := s.core core
    let w2e := w2eCore core
    let n := c.rd32 c.lead k
    let hd := c.rd32 c.lead h
    let only (t : State) (w' : Warp) : Prop := t = { s with warps := s.warps.set c.key w', cores := t.cores, issue := none } ∧ ∀ j, j ≠ core → t.core j = s.core j
    let next (g : Nat) : Nat := if 4095 ≤ g then 1 else g + 1
    let r0 : Resv := { held := some c.w.wg, side := side, fmt := fmt, blk := blk, rows32 := rows32, sp := sp, k := n, cbs := cbs.val, soff := soff.toNat }
    let kGood : Prop := n % 16 = 0 ∧ 16 ≤ n ∧ n ≤ 8192 ∧ (blkLen blk ≠ 0 → n % blkLen blk = 0) ∧ n % (spNM sp).2 = 0
    let total := if side then Config.bstageUnits w2e else Config.operandUnits
    let room (b : Nat) : Prop := b + r0.need ≤ total ∧ ∀ q ∈ x.resv, q.2.held = none ∨ q.2.side ≠ side ∨ b + r0.need ≤ q.2.base ∨ q.2.base + q.2.units ≤ b
    let freeRec (i : Nat) : Prop := (x.resv.get {} i).held = none
    let freeUnit (u : Nat) : Prop := u < Config.accUnits w2e ∧ (x.acc.get {} u).held = none
    (¬ kGood → Stops s c (.orsv side fmt blk rows32 sp k cbs soff) { code := evMatrixShape } c.w.activeLanes) ∧
    (kGood → (∀ i < 32, ¬ freeRec i) ∨ (∀ b < total, ¬ room b) → Stops s c (.orsv side fmt blk rows32 sp k cbs soff) { code := evReserveFull } c.w.activeLanes) ∧
    (∀ i b, kGood → i < 32 → freeRec i → (∀ j < i, ¬ freeRec j) → b < total → room b → (∀ j < b, ¬ room j) →
      Answers (.orsv side fmt blk rows32 sp k cbs soff) s fun t => ∃ w', only t w' ∧
        c.Took (fun _ => mkVal tyB32 (BitVec.ofNat 64 ((x.resv.get {} i).gen * 2 ^ 20 + (if side then 32 else 0) + i))) w' ∧
        t.core core = { x with resv := x.resv.set i { r0 with gen := (x.resv.get {} i).gen, base := b, units := r0.need } }) ∧
    (match s.resv? core c.w.wg hd with
     | none => Stops s c (.orel h) { code := evHandleStale } c.w.activeLanes
     | some (i, r) =>
       if x.tileOps.any (fun o => o.items.contains i) then exec (.orel h) s = .next { s with issue := none }
       else Answers (.orel h) s fun t => ∃ w', only t w' ∧ c.Moved w' ∧ s.resv? core c.w.wg hd = some (i, r) ∧ t.resv? core c.w.wg hd = none ∧
         t.core core = { x with resv := x.resv.set i { gen := next r.gen }, scaleq := x.scaleq.filter fun e => !(e.resv = i && e.gen = r.gen) }) ∧
    (∀ (u : Nat) (v : Option Nat),
      (match v with
       | none => rows32 = true ∧ freeUnit u ∧ ∀ j < u, ¬ freeUnit j
       | some v => rows32 = false ∧ freeUnit u ∧ freeUnit v ∧
         if w2e then u < v ∧ ∀ j < v, j ≠ u → ¬ freeUnit j else u % 2 = 0 ∧ v = u + 1 ∧ ∀ j < u, j % 2 = 0 → ¬ (freeUnit j ∧ freeUnit (j + 1))) →
      Answers (.aacq rows32) s fun t => ∃ w', only t w' ∧
        c.Took (fun _ => mkVal tyB32 (BitVec.ofNat 64 ((x.acc.get {} u).gen * 2 ^ 20 + (if rows32 then 8 else 0) + u))) w' ∧
        t.core core = { x with acc := (t.core core).acc } ∧
        ∀ j, (t.core core).acc.get? j =
          if j = u then some { held := some c.w.wg, gen := (x.acc.get {} u).gen, first := true, second := v }
          else if some j = v then some { held := some c.w.wg, gen := (x.acc.get {} j).gen } else x.acc.get? j) ∧
    ((∀ u, freeUnit u → rows32 = false ∧ ∀ v, freeUnit v → v = u) → Stops s c (.aacq rows32) { code := evAccExhaust } c.w.activeLanes) ∧
    match s.acc? core c.w.wg hd with
    | none => Stops s c (.arel h) { code := evHandleStale } c.w.activeLanes
    | some (u, a) =>
      if x.tileOps.any (fun o => o.items.contains (32 + u)) then exec (.arel h) s = .next { s with issue := none }
      else Answers (.arel h) s fun t => ∃ w', only t w' ∧ c.Moved w' ∧ t.acc? core c.w.wg hd = none ∧
        t.core core = { x with acc := (t.core core).acc } ∧
        ∀ j, (t.core core).acc.get? j =
          if j = u then some { gen := next a.gen } else if some j = a.second then some { gen := next (x.acc.get {} j).gen } else x.acc.get? j

/-- R357, R359, R360: a fill, `sclq` or `cbld` whose handle lives, whose shape fits and whose accesses raise nothing completes, and of the core's matrix
state only the named record, slot or queue changes; from scratch space the record holds the packed elements (R88) of the grant's bytes, the scale entry and
the slot their 16-bit values. `cbld` of a symbol takes its entries from the data section. A stale handle raises HANDLE_STALE, a misfit
MATRIX_SHAPE, and a full scale queue stalls. -/
def Obligations.MatrixOperands : Prop :=
  ∀ (s : State) (c : Cx), s.cx? = some c →
    ∀ (meta_ cb6 : Bool) (sp : Space) (h addr x : Opnd) (slot : Fin 8) (sym : BitVec 29),
    let core := c.iss.core
    let a := c.rd64 c.lead addr
    let kept (s1 t : State) (w' : Warp) : Prop :=
      t = { s1 with warps := s.warps.set c.key w', cores := t.cores, dies := t.dies, issue := none } ∧ s1.SameBytes t ∧ c.Moved w' ∧
      (∀ j, j ≠ core → t.core j = s1.core j) ∧
      ∃ o, t.core core = { s1.core core with
             resv := (t.core core).resv, cbslots := (t.core core).cbslots, scaleq := (t.core core).scaleq, tileOps := (s1.core core).tileOps ++ [o]
             l1 := (t.core core).l1, l1Clock := (t.core core).l1Clock } ∧ o.wg = c.w.wg
    let pad (s1 : State) (o : Nat) : Byte := cellGet (s1.wg c.w.wg).scratch o
    let s1 (rs : List (Nat × Nat)) := s.walks c.iss.core c.w.asid (((rs.map fun r => pieces r.1 r.2).flatten).map fun q => (sp, q.1, false))
    let bf (m : Nat) (at_ : Nat → Byte) : List (BitVec 16) := (List.range m).map fun j => BitVec.ofNat 16 (leOf 2 fun i => at_ (2 * j + i))
    let fill (i : Instr) (bSide m : Bool) : Prop :=
      match s.resv? core c.w.wg (c.rd32 c.lead h) with
      | none => Stops s c i { code := evHandleStale } c.w.activeLanes
      | some (j, r) =>
        let bits := if m then 4 else mfBits r.fmt
        let count := if bSide then 64 else r.vals
        let rows := if bSide then r.k else r.rows
        let len := if m then (count + 1) / 2 else packedLen r.fmt count
        let st := c.rd32 c.lead x
        let step := if bSide then 64 else 8192
        let rs := (List.range rows).map fun q => (a + q * st, len)
        let k := (s1 rs).core core
        if r.side ≠ bSide ∨ (m = true ∧ r.sp = .dense) ∨ st < len then Stops s c i { code := evMatrixShape } c.w.activeLanes
        else a % 16 = 0 → st % 16 = 0 → c.rangeEvents (s1 rs) sp rs = [] →
          Answers i s fun t => ∃ w' r', kept (s1 rs) t w' ∧ (t.core core).resv = k.resv.set j r' ∧ (t.core core).cbslots = k.cbslots ∧ (t.core core).scaleq = k.scaleq ∧
            r' = { r with data := if m then r.data else r'.data, index := if m then r'.index else r.index, poison := if m then r.poison else r'.poison, indexPoison := if m then r'.indexPoison else r.indexPoison } ∧
            (sp = .scratch → r.k ≤ 8192 → ∀ q < rows, ∀ e < count,
              (if m then r'.index else r'.data).get 0 (q * step + e) = leOf len (fun i => pad (s1 rs) (a + q * st + i)) / 2 ^ (bits * e) % 2 ^ bits)
    fill (.ofill meta_ sp h addr x) false meta_ ∧ fill (.bfill sp h addr x) true false ∧
    (let ph := s.cbOf c.w.wg slot.val
     let m := if cb6 then 64 else 16
     let done (i : Instr) (s1 : State) (es : List (BitVec 16) → Prop) : Prop :=
       let k := s1.core core
       Answers i s fun t => ∃ w' cb, kept s1 t w' ∧ (t.core core).cbslots = k.cbslots.set ph cb ∧ (t.core core).resv = k.resv ∧ (t.core core).scaleq = k.scaleq ∧
         cb.owner = some c.w.wg ∧ cb.state = (if cb6 then .cb6 else .cb4) ∧ es cb.entries
     done (.cbld cb6 slot sym) s (fun es => es = bf m fun i => dataByte c.ws ((symAddr c.ws sym.toNat).toNat + i)) ∧
     (a % 32 = 0 → c.rangeEvents (s1 [(a, 2 * m)]) sp [(a, 2 * m)] = [] → (s1 [(a, 2 * m)]).cbOf c.w.wg slot.val = ph →
       done (.cbldAddr cb6 sp slot addr) (s1 [(a, 2 * m)]) fun es => sp = .scratch → es = bf m fun i => pad (s1 [(a, 2 * m)]) (a + i))) ∧
    (match s.resv? core c.w.wg (c.rd32 c.lead h) with
     | none => Stops s c (.sclq sp h addr x) { code := evHandleStale } c.w.activeLanes
     | some (j, r) =>
       let m := if r.side then 64 else r.rows
       let s2 := s1 [(a, 2 * m)]
       let k := s2.core core
       if r.blk = .none then Stops s c (.sclq sp h addr x) { code := evMatrixShape } c.w.activeLanes
       else a % 16 = 0 → c.rangeEvents s2 sp [(a, 2 * m)] = [] →
         if 64 ≤ k.scaleq.length then exec (.sclq sp h addr x) s = .next { s2 with issue := none }
         else Answers (.sclq sp h addr x) s fun t => ∃ w' e, kept s2 t w' ∧ (t.core core).scaleq = k.scaleq ++ [e] ∧
           (t.core core).resv = k.resv ∧ (t.core core).cbslots = k.cbslots ∧ e.wg = c.w.wg ∧ e.resv = j ∧ e.gen = r.gen ∧ e.bi = c.rd32 c.lead x ∧ e.arrived = false ∧
           (sp = .scratch → e.scales = bf m fun i => pad s2 (a + i)))

/-- R364: a multiply whose operands fit, whose codebook slots hold the code formats, whose convergence register is READY and whose scale entries stand at the head of the
queue updates every element of its accumulator by MatrixCell of R101 and no other unit, takes its scale entries and adds the data errors to
the status (R367). Before any effect: a stale handle raises HANDLE_STALE, a misfit MATRIX_SHAPE, a slot of another format FORMAT, an IDLE or BROKEN register
CONVERGENCE_MISMATCH; an OPEN register stalls. R363: `acrd` reads an element's FA48 value as the type, `acwr` stores a value as FA48 and no other
element changes, `acwr.zero` clears the accumulator; a bad index raises MATRIX_SHAPE. R367: `mstat`, once no tile operation of the workgroup is under way,
gives the status and with `.clr` clears it. -/
def Obligations.MatrixMultipliesAndElements : Prop :=
  ∀ (s : State) (c : Cx), s.cx? = some c →
    ∀ (sparse sat rz clr : Bool) (h x y v ra rb : Opnd) (cv : Option (Fin 16)) (ty : Ty) (p : Pred), ty ≠ tyDyn →
    let core := c.iss.core
    let k := s.core core
    let wgk := c.w.wg
    let mul : Instr := if sparse then .mmsp h ra rb cv else .mma h ra rb cv
    let only (t : State) (w' : Warp) : Prop := t = { s with warps := s.warps.set c.key w', cores := t.cores, wgs := t.wgs, issue := none } ∧ ∀ j, j ≠ core → t.core j = s.core j
    let consumed : Prop := c.lead.consumed = true
    let cvState (w : Fin 16) : CvState := (s.cv core (s.cvOf wgk w.val)).state
    (match s.acc? core wgk (c.rd32 c.lead h), s.resv? core wgk (c.rd32 c.lead ra), s.resv? core wgk (c.rd32 c.lead rb) with
     | some (u, X), some (ia, A), some (ib, B) =>
       let fits : Prop := A.side = false ∧ B.side = true ∧ A.k = B.k ∧ A.rows = X.rows ∧ (sparse = true ↔ A.sp ≠ .dense) ∧ (sparse = true → A.mapOk = true)
       let cb (r : Resv) : CbSlot := k.cbslots.get {} (s.cbOf wgk r.cbs)
       let coded : Prop := ∀ r ∈ [A, B], (r.fmt = .cb4 → (cb r).state = .cb4) ∧ (r.fmt = .cb6 → (cb r).state = .cb6)
       let na := scaleNeeds ia A
       let need := na ++ scaleNeeds ib B
       let sideA : Side := { idx := ia, r := A, slot := s.cbOf wgk A.cbs, cb := cb A, scales := k.scaleq.take na.length }
       let sideB : Side := { idx := ib, r := B, slot := s.cbOf wgk B.cbs, cb := cb B, scales := (k.scaleq.take need.length).drop na.length }
       (¬ fits → Stops s c mul { code := evMatrixShape } c.w.activeLanes) ∧
       (fits → ¬ coded → Stops s c mul { code := evFormat } c.w.activeLanes) ∧
       (fits → coded → ¬ consumed → ∀ w, cv = some w →
         ((cvState w = .idle ∨ cvState w = .broken) → Stops s c mul { code := evConvergenceMismatch, qual := w.val } c.w.activeLanes) ∧
         (cvState w = .open_ → exec mul s = .next { s with issue := none })) ∧
       (fits → coded → cv = none ∨ consumed →
         (64 < need.length → Stops s c mul { code := evMatrixShape } c.w.activeLanes) ∧
         (takeScales wgk k.scaleq need = .stall → exec mul s = .next { s with issue := none }) ∧
         (takeScales wgk k.scaleq need = .imbalance → Stops s c mul { code := evQueueImbalance } c.w.activeLanes)) ∧
       (fits → coded → (cv = none ∨ consumed ∨ ∃ w, cv = some w ∧ cvState w = .ready) → takeScales wgk k.scaleq need = .ok →
         (s.wgs.get? wgk).isSome → (∀ j, X.second = some j → j ≠ u ∧ (k.acc.get? j).isSome) →
         Answers mul s fun t =>
           (∀ m < X.rows, ∀ n < 64, (t.core core).accElem (X.place u m n) = matrixCell sideA sideB (k.accElem (X.place u m n)) m n) ∧
           (∀ j, j ≠ u → X.second ≠ some j → (t.core core).acc.get? j = k.acc.get? j) ∧
           (t.core core).resv = k.resv ∧ (t.core core).cbslots = k.cbslots ∧ (t.core core).scaleq = k.scaleq.drop need.length ∧
           (t.wg wgk).mstat = statusWith (s.wg wgk).mstat ((List.range A.k).map (dataErrsAt sideA sideB)).flatten ∧
           t.mem = s.mem ∧ t.hostMem = s.hostMem ∧ ((cv = none ∨ consumed) → ∃ w', only t w' ∧ c.Moved w'))
     | _, _, _ => Stops s c mul { code := evHandleStale } c.w.activeLanes) ∧
    (let on := c.active.filter fun u => !c.off p u
     let at_ (u : Thread) : Option (Nat × Nat) := (s.acc? core wgk (c.rd32 u h)).bind fun q =>
       if c.rd32 u x < q.2.rows ∧ c.rd32 u y < 64 then
         some (if c.rd32 u x < 32 then q.1 else q.2.second.getD q.1, c.rd32 u x % 32 * 64 + c.rd32 u y)
       else none
     let off (u : Thread) : Prop := (s.acc? core wgk (c.rd32 u h)).isSome = true ∧ at_ u = none
     ((∀ u ∈ on, (at_ u).isSome) →
       LaneResult s c (.acrd ty sat rz p h x y) fun u =>
         if c.off p u then { bits := 0, tag := ty.code }
         else mkVal ty (BitVec.ofNat 64 (fround ty.fmt sat rz (decodeF ffFa48 (((at_ u).map k.accElem).getD 0).toNat)))) ∧
     (on ≠ [] → (∀ u ∈ on, off u) →
       Stops s c (.acrd ty sat rz p h x y) { code := evMatrixShape } (on.map Thread.lane) ∧ Stops s c (.acwr ty p h x y v) { code := evMatrixShape } (on.map Thread.lane)) ∧
     (∀ u q, on = [u] → at_ u = some q → (k.acc.get? q.1).isSome →
       Answers (.acwr ty p h x y v) s fun t => ∃ w', only t w' ∧ c.Moved w' ∧ t.wgs = s.wgs ∧ t.core core = { k with acc := (t.core core).acc } ∧
         (t.core core).accElem q = BitVec.ofNat 48 (roundF ffFa48 false false (fdec ty.fmt (c.rd ty u v).toNat)) ∧
         ∀ q', q' ≠ q → (t.core core).accElem q' = k.accElem q')) ∧
    (match s.acc? core wgk (c.rd32 c.lead h) with
     | none => Stops s c (.acwrZero h) { code := evHandleStale } c.w.activeLanes
     | some (u, X) =>
       Answers (.acwrZero h) s fun t => ∃ w', only t w' ∧ c.Moved w' ∧ t.wgs = s.wgs ∧ t.core core = { k with acc := (t.core core).acc } ∧
         ∀ j e, (t.core core).accElem (j, e) = if j = u ∨ some j = X.second then 0 else k.accElem (j, e)) ∧
    if k.tileOps.any (fun o => o.wg = wgk) then exec (.mstat clr) s = .next { s with issue := none }
    else Answers (.mstat clr) s fun t => ∃ w', t = { s with warps := s.warps.set c.key w', wgs := t.wgs, issue := none } ∧
      c.Took (fun _ => mkVal tyB64 (s.wg wgk).mstat) w' ∧ (clr = false → t.wgs = s.wgs) ∧ (clr = true → (t.wg wgk).mstat = 0) ∧
      ∀ g, t.wg g = { s.wg g with mstat := (t.wg g).mstat } ∧ (g ≠ wgk → (t.wg g).mstat = (s.wg g).mstat)

/-! ## Convergence, barriers, waiting -/

/-- R198, R199: `cvset n` opens an IDLE register, changes the count of an OPEN one that nobody has signed, and has no effect where the count is the same; else, and for
n out of range, CONVERGENCE_MISMATCH. `sign` of an OPEN register by a thread that has not signed counts it, and the last signature makes it READY;
at a READY register the thread waits; at an IDLE or BROKEN one, and a second time, CONVERGENCE_MISMATCH. R371: `gsync` waits until every
live thread of the gang has arrived; the last arrival advances the generation and nobody waits. -/
def Obligations.ConvergenceAndGang : Prop :=
  ∀ (s : State) (c : Cx), s.cx? = some c → ∀ (cv : Fin 16) (n : Opnd) (u : Thread), c.active = [u] → s.logMode c.site c.w.asid c.w.lseq ≠ 1 →
    let core := c.iss.core
    let phys := s.cvOf c.w.wg cv.val
    let v := s.cv core phys
    let m := c.rd32 u n
    let mism : EvInfo := { code := evConvergenceMismatch, qual := cv.val }
    let me := c.w.widx * 128 + u.lane
    let sets (t : State) (v' : CvReg) : Prop := t.cv core phys = v' ∧ ∀ j, j ≠ phys → t.cv core j = s.cv core j
    let kept (t : State) (w' : Warp) : Prop := t = { s with warps := s.warps.set c.key w', cores := t.cores, issue := none } ∧ ∀ j, j ≠ core → t.core j = s.core j
    (let done (v' : CvReg) : Prop := Answers (.cvset cv n) s fun t => ∃ w', kept t w' ∧ c.Moved w' ∧ sets t v'
     if m = 0 ∨ 2048 < m ∨ v.state = .broken ∨ (v.state = .open_ ∧ m ≠ v.cnt ∧ v.sig ≠ 0) ∨ (v.state = .ready ∧ m ≠ v.cnt) then
       Stops s c (.cvset cv n) mism c.w.activeLanes
     else done (if v.state = .idle then { v with state := .open_, cnt := m, sig := 0, signed := [] } else { v with cnt := m })) ∧
    (if v.state = .idle ∨ v.state = .broken ∨ (v.state = .open_ ∧ me ∈ v.signed) then Stops s c (.sign cv) mism [u.lane]
     else Answers (.sign cv) s fun t => ∃ w' b, kept t w' ∧ c.Publishes t ∧
       if v.state = .ready then (c.bounded b).KeepsPaths w' ∧ sets t v ∧ c.Shows (fun x => if x.live && x.lane = u.lane && x.grp = c.w.turn then { x with wait := .sign phys } else x) w'
       else (c.bounded b).Moved w' ∧ (c.iss.mode = .portable → w'.ccnt = c.w.ccnt + 1) ∧
         sets t { v with signed := me :: v.signed, sig := v.sig + 1, state := if v.sig + 1 = v.cnt then .ready else .open_ }) ∧
    (let wgs := s.ownerWgs c.w.wg
     let gen := (s.wg c.w.wg).gangGen
     (∀ k w x, s.warps.get? k = some w → w.wg ∈ wgs → x ∈ w.threads → x.live = true → k ≠ c.key ∨ x.grp ≠ c.w.turn → waitsGang gen x = false →
       Answers .gsync s fun t => ∃ w' b, kept t w' ∧ c.Publishes t ∧ (c.bounded b).KeepsPaths w' ∧
         c.Shows (c.act fun x => { x with pc := x.pc.succ, wait := .gang gen }) w') ∧
     (c.w.wg ∈ wgs → s.canonical → (∀ k w x, (k, w) ∈ s.warps → w.wg ∈ wgs → x ∈ w.threads → x.live = true → (k = c.key ∧ w = c.w ∧ x = u) ∨ (k ≠ c.key ∧ waitsGang gen x = true)) →
       Answers .gsync s fun t => c.Publishes t ∧ t.mem = s.mem ∧ t.hostMem = s.hostMem ∧
         (∀ k ∈ wgs, (s.wgs.get? k).isSome → (t.wg k).gangGen = gen + 1) ∧
         (∀ k w x, t.warps.get? k = some w → w.wg ∈ wgs → x ∈ w.threads → x.live = true → x.wait = .none) ∧
         ∃ w', t.warps.get? c.key = some w' ∧ ∃ x ∈ w'.threads, x.lane = u.lane ∧ x.pc = u.pc.succ ∧ x.vals = u.vals))

/-- R346, R348: the arrival of one thread opens the generation with its count (the owner's live threads where none is given), counts, and with the last arrival completes it: the generation
advances and every thread that waits in it goes on. `barv` and `bmem` wait where it has not completed; `bars` goes on with the generation's number. A count that
differs, or out of 1 to 2^18, raises BARRIER_MISMATCH. `bmem` first waits for its release. `barw` waits where its token names the current generation, goes on
where it does not, and raises BARRIER_ORPHAN for the abandoned one. `bcnt` gives generation, ALL, count and arrivals. -/
def Obligations.NamedBarriers : Prop :=
  ∀ (s : State) (c : Cx), s.cx? = some c → ∀ (nb : Fin 64) (cnt : Option Opnd) (g : Opnd) (sc : Scope) (u : Thread),
    let cl := clusterOf c.iss.core
    let phys := s.nbOf c.w.wg nb.val
    let b := s.nbar cl phys
    let wgs := s.ownerWgs c.w.wg
    let n? : Option Nat := cnt.map fun o => c.rd32 u o
    let bad : Prop := n?.any (fun n => n = 0 || 262144 < n) = true ∨ ∃ m, b.cnt = some m ∧ (if b.all = true then n? ≠ none else n? ≠ some m)
    let count := b.cnt.getD (n?.getD (s.liveNames wgs).length)
    let all := if b.cnt.isSome then b.all else n?.isNone
    let done : NBar := { b with gen := (b.gen + 1) % 65536, arr := 0, cnt := none, all := false, arrived := [] }
    let sets (t : State) (b' : NBar) : Prop := t.nbar cl phys = b' ∧ ∀ j, j ≠ phys → t.nbar cl j = s.nbar cl j
    let mine (x : Thread) : Bool := x.live && x.lane = u.lane
    let arrives (i : Instr) (waits : Bool) (acq : Option Scope) : Prop :=
      (¬ bad → b.arr + 1 ≠ count →
        Answers i s fun t => ∃ w' bd, c.Publishes t ∧
          t = { s with warps := s.warps.set c.key w', cores := t.cores, clusters := t.clusters, issue := none } ∧
          sets t { b with cnt := some count, all := all, arr := b.arr + 1, arrived := threadName c.w u :: b.arrived } ∧
          if waits then (c.bounded bd).KeepsPaths w' ∧ c.Shows (fun x => if mine x then { x with pc := x.pc.succ, wait := .barrier phys b.gen acq } else x) w'
          else c.w.ready c.w.turn = true → (c.bounded bd).Took (fun _ => mkVal tyB32 (BitVec.ofNat 64 b.gen)) w') ∧
      (¬ bad → b.arr + 1 = count → s.canonical →
        Answers i s fun t => ∃ w' x, c.Publishes t ∧ t.mem = s.mem ∧ t.hostMem = s.hostMem ∧ t.wgs = s.wgs ∧ sets t done ∧
          t.warps.get? c.key = some w' ∧ x ∈ w'.threads ∧ mine x = true ∧ x.pc = u.pc.succ ∧ x.wait = .none ∧
          (waits = false → c.iss.mode = .portable → x.vals.get? c.iss.n = some (mkVal tyB32 (BitVec.ofNat 64 b.gen))) ∧
          (∀ k w y, t.warps.get? k = some w → w.wg ∈ wgs → y ∈ w.threads → y.live = true →
            waitsOn phys b.gen y = false) ∧
          ∀ a, acq = some a → a ≠ .core → (t.core c.iss.core).l1 = []) ∧
      (bad → Answers i s fun t => ∃ w' ev, c.Publishes t ∧ t.warps.get? c.key = some w' ∧ t.clusters = s.clusters ∧ w'.event = some ev ∧ ev.code = evBarrierMismatch ∧
        ev.qual = nb.val ∧ ev.flanes = lanesOf [u.lane] ∧ (w'.threads.filter Thread.live).map Thread.pc = (c.w.threads.filter Thread.live).map Thread.pc)
    let free : Prop := s.logMode c.site c.w.asid c.w.lseq ≠ 1
    let apart : Prop := c.active = [u] ∧ ∀ x ∈ c.w.threads, x.live = true → x.lane = u.lane → x = u
    (free → apart → arrives (.barv nb cnt) true none ∧ arrives (.bars nb cnt) false none ∧
      (sc = .core ∨ ((∀ e ∈ (s.core c.iss.core).hold, e.owner ≠ c.w.name) ∧ ∀ d ∈ s.dies, ∀ h ∈ d.2.det, h.owner ≠ c.w.name) → arrives (.bmem sc nb cnt) true (some sc))) ∧
    (let tok (x : Thread) : Nat := c.rd32 x g % 65536
     let lost := c.active.filter fun x => b.abv && tok x = b.abg
     if lost ≠ [] then Stops s c (.barw nb g) { code := evBarrierOrphan, qual := nb.val } (lost.map Thread.lane)
     else free → Answers (.barw nb g) s fun t => ∃ w' bd, c.Publishes t ∧ t = { s with warps := s.warps.set c.key w', cores := t.cores, issue := none } ∧
       (c.bounded bd).KeepsPaths w' ∧ c.Shows (c.act fun x => { x with pc := x.pc.succ, wait := if tok x = b.gen then .barrier phys b.gen none else .none }) w') ∧
    LaneResult s c (.bcnt nb) fun _ => mkVal tyB64 (BitVec.ofNat 64 (b.gen * 2 ^ 48 + (if b.all then 2 ^ 47 else 0) + b.cnt.getD 0 * 2 ^ 19 + b.arr))

/-- R201: `sleep` moves on and waits for the largest n of the group; n of 0 has no effect. R202: where no check raises an event and the launch is neither logged nor
replayed, a `flagw` of one thread has what its warp holds of the word's line published first, and reads the word at its home: if nothing of the line is held and
the word satisfies the comparison, the word is the result and the thread goes on, else it waits at the instruction. R222: `prgq` gives the launch's watermark, or whether the thread's unit is promised. R228: `lquery` gives its fact. -/
def Obligations.WaitingAndQueries : Prop :=
  ∀ (s : State) (c : Cx), s.cx? = some c → ∀ (isVal sgn : Bool) (n addr v : Opnd) (ty : Ty) (cond : Cond) (sel : Fin 5) (u : Thread) (x : Xlat),
    let l? : Option Launch := s.launch? c.w.asid c.w.lseq
    (let m := (c.active.map fun y => if isVal then Nat.min (c.rd32 y n) 1048575 else c.rd32 y n % 2 ^ 20).foldl Nat.max 0
     if m = 0 then LanePass s c (.sleep isVal n)
     else c.Leaves s (.sleep isVal n) fun w' => c.KeepsPaths w' ∧ c.Shows (c.act fun y => { y with pc := y.pc.succ, wait := .sleep (s.cycle + m) }) w') ∧
    (let a := c.addr u addr none
     let s1 := s.walks c.iss.core c.w.asid [(.global, a, false)]
     let w := BitVec.ofNat 64 (leOf ty.bytes (s1.homeByte c (.mem x)))
     c.active = [u] → u.halted = false → (∀ y ∈ c.w.threads, y.live = true → y.lane = u.lane → y = u) → c.w.event = none →
     c.events s1 u false { space := .global, addr := a, n := ty.bytes, align := Nat.min ty.bytes 8, read := true, write := false } = [] →
     s1.place c.iss.core c.w.asid c.w.wg .global a ty.bytes false = .ok (.mem x) → s1.logMode c.site c.w.asid c.w.lseq = 0 →
     Answers (.flagw ty cond sgn addr v) s fun t => ∃ w', t = { s1 with warps := s.warps.set c.key w', cores := t.cores, dies := t.dies, issue := none } ∧
       s1.SameBytes t ∧ (∀ e ∈ (t.core c.iss.core).hold, e.owner = c.w.name → e.pl = x.line → e.phase.isSome = true) ∧
       if (∀ e ∈ (s1.core c.iss.core).hold, e.owner = c.w.name → e.pl ≠ x.line) ∧
         condHolds cond (readInt sgn ty.width w.toNat) (readInt sgn ty.width (c.rd ty u v).toNat) = true then c.Took (fun _ => mkVal ty w) w'
       else c.KeepsPaths w' ∧ c.Shows (c.act fun y => { y with wait := .flag none c.iss (.flagw ty cond sgn addr v) }) w') ∧
    LaneResult s c .prgqB64 (fun _ => mkVal tyB64 (BitVec.ofNat 64 ((l?.map Launch.wm).getD 0))) ∧
    LaneResult s c .prgqP (fun _ => mkVal tyP (boolBits (l?.any fun l => l.promised c.w.tidx))) ∧
    LaneResult s c (.lquery sel) fun _ => mkVal tyB64 (BitVec.ofNat 64 (match sel.val with
      | 0 => c.w.lseq | 1 => c.w.tidx | 2 => (l?.map Launch.n).getD 0 | 3 => (s.wg c.w.wg).joined | _ => Config.poolEntries - (s.die c.site).pool.length))

/-! ## Launch instructions -/

/-- R225: `launch` by one thread reads its record at its home: status 1 (POOL_FULL with `.trapfull`) where the pool is full, 2 with the reason where a check of R209 fails, else 0, and the record with its
PLINK enters the pool; the workgroup remembers a child it named (R208). R227: `ljoin` with no joined child outstanding gives the failures, once every live thread of the workgroup stands at it. R229: `wsplit` gives the upper
part of its walker's interval to a free walker, where there is one. R230: `migrate` raises MIGRATE_DENIED where the warp may not leave, gives 1 on its own die and 2 without a landing slot (with `.trap` MIGRATE_DENIED), and else the warp leaves its
core for the landing slot, where it stands after the instruction with result 0. R226: `wdone` begins the launch's drain. -/
def Obligations.LaunchInstructions : Prop :=
  ∀ (s : State) (c : Cx), s.cx? = some c →
    (∀ e ∈ (s.core c.iss.core).hold, e.owner ≠ c.w.name) → (∀ d ∈ s.dies, ∀ h ∈ d.2.det, h.owner ≠ c.w.name) → s.canonical →
    ∀ (trap : Bool) (o : Opnd) (u : Thread),
    let core := c.iss.core
    let cl := clusterOf core
    let g := s.wg c.w.wg
    let l? : Option Launch := s.launch? c.w.asid c.w.lseq
    let whole : Prop := (∀ x ∈ c.w.threads, x.live = true → x.grp = c.w.turn ∧ x.pc = u.pc) ∧ c.active.head? = some u ∧ u.halted = false
    let ends (v : Nat) (w' : Warp) : Prop :=
      let f (_ : Thread) : Val := mkVal tyB32 (BitVec.ofNat 64 v)
      match c.iss.mode with
      | .portable => c.KeepsPaths w' ∧ c.Shows (c.resulted f) w'
      | .native _ _ _ => w'.native = (c.w.putAll c.iss f c.active).native ∧ c.Shows c.passed w'
    (let a := c.rd64 u o
     let s1 := s.walks core c.w.asid [(.global, a, false), (.global, a + 127, false)]
     let d := s1.die c.site
     let r : LRec := (List.range 16).map fun i => match s1.place core c.w.asid c.w.wg .global (a + 8 * i) 8 false with
       | .ok (.mem x) => s1.word64 x.pa
       | _ => 0
     c.active = [u] → a % 8 = 0 →
     (∀ i < 16, c.events s1 u false { space := .global, addr := a + 8 * i, n := 8, align := 8, read := true, write := false } = []) →
     if trap = true ∧ Config.poolEntries ≤ d.pool.length then
       ∃ w', exec (.launch trap o) s = .next { s1 with warps := s.warps.set c.key w', issue := none } ∧ c.Stopped { code := evPoolFull } c.w.activeLanes w'
     else Answers (.launch trap o) s fun t => ∃ s2 w' st,
       s2 = { s1 with dies := s2.dies } ∧ s1.SameBytes s2 ∧ (s2.die c.site).pool = d.pool ∧ (s2.die c.site).poolOrder = d.poolOrder ∧
       t = { s2 with warps := s.warps.set c.key w', dies := t.dies, wgs := t.wgs, issue := none } ∧ c.Took (fun _ => mkVal tyB32 (BitVec.ofNat 64 st)) w' ∧
       let reason := s2.launchReason c.site c.w.asid r true false
       let parent (n : Nat) : Prop := ∀ g, s2.wgs.get? c.w.wg = some g →
         t.wg c.w.wg = { g with childLaunched := g.childLaunched || recChild r, joined := g.joined + n }
       (∀ k, k ≠ c.w.wg → t.wg k = s2.wg k) ∧
       if Config.poolEntries ≤ d.pool.length then st = 1 ∧ t.dies = s2.dies ∧ parent 0
       else if reason ≠ 0 then st = 2 + reason * 256 ∧ t.dies = s2.dies ∧ parent 0
       else st = 0 ∧ parent (if recChild r then 1 else 0) ∧ ∃ e, (t.die c.site).pool = d.pool ++ [e] ∧ e.record = r.set 10 (plink c.w.lseq c.w.tidx (recChild r)) ∧ e.asid = c.w.asid ∧
         e.prio = Nat.min (recPrio r) g.prio) ∧
    (whole → g.stop = none → c.w.event = none → c.w.framed = false → g.joined = 0 → s.wgWarps c.w.wg = [(c.key, c.w)] →
      Answers .ljoin s fun t => ∃ w', t = { s with warps := s.warps.set c.key w', wgs := t.wgs, issue := none } ∧ ends (Nat.min g.failed 65535) w' ∧ (t.wg c.w.wg).failed = 0) ∧
    (∀ k w x, s.warps.get? k = some w → w.wg = c.w.wg → x ∈ w.threads → x.live = true → x.atLjoin = false → (k ≠ c.key ∨ x.grp ≠ c.w.turn) →
      c.Leaves s .ljoin fun w' => c.KeepsPaths w' ∧ c.Shows (c.act fun y => { y with wait := .ljoin c.iss }) w') ∧
    (let q := g.walker
     let w := s.walker q.1 q.2
     let mine : Prop := l?.isSome = true ∧ s.logMode c.site c.w.asid c.w.lseq ≠ 2 ∧ w.state = .active ∧ w.asid = c.w.asid ∧ w.lseq = c.w.lseq ∧ 2 ≤ w.tend - w.tcur
     (¬ mine → LanePass s c .wsplit) ∧
     (mine → ∀ l k nw, l? = some l → s.logMode (q.1 / 4) w.asid w.lseq ≠ 1 →
       ((s.stealOrder cl).find? fun k => (s.ctxDies c.site c.w.asid).contains (k / 4) && (s.freeWalker k).isSome && (coresOf k).any fun x => s.holds x (s.demand l (k / 4))) = some k →
       s.freeWalker k = some nw →
       Answers .wsplit s fun t => ∃ w', t = { s with warps := s.warps.set c.key w', clusters := t.clusters, issue := none } ∧ c.Moved w' ∧
         let mid := w.tcur + (w.tend - w.tcur + 1) / 2
         t.walker q.1 q.2 = { w with tend := mid, nsplit := w.nsplit + 1 } ∧
         (t.walker k nw).state = .active ∧ (t.walker k nw).asid = w.asid ∧ (t.walker k nw).lseq = w.lseq ∧ (t.walker k nw).tcur = mid ∧ (t.walker k nw).tend = w.tend)) ∧
    (let a := c.rd64 u o
     ∀ x, whole → c.w.event = none → c.w.framed = false → g.stop = none → g.parking = false →
       (s.core core).utlb.any (fun e => e.serves c.w.asid false a false) = true → s.place core c.w.asid c.w.wg .global a 1 false = .ok (.mem x) →
       let site := siteOfPa x.pa
       let slot := (List.range 64).find? fun i => ((s.die site).landings.get? i).isNone
       if s.migrateDenied c then ∃ w' ev, (∃ t, exec (.migrate trap o) s = .next t ∧ t = { s with warps := s.warps.set c.key w', issue := none }) ∧ w'.event = some ev ∧ ev.code = evMigrateDenied
       else if site = c.site then Answers (.migrate trap o) s fun t => ∃ w', t = { s with warps := s.warps.set c.key w', issue := none } ∧ ends 1 w'
       else s.logMode c.site c.w.asid c.w.lseq = 0 →
         match slot with
         | none => if trap then ∃ w' ev, (∃ t, exec (.migrate trap o) s = .next t ∧ t = { s with warps := s.warps.set c.key w', issue := none }) ∧ w'.event = some ev ∧ ev.code = evMigrateDenied
           else Answers (.migrate trap o) s fun t => ∃ w', t = { s with warps := s.warps.set c.key w', issue := none } ∧ ends 2 w'
         | some i => Answers (.migrate trap o) s fun t => t.mem = s.mem ∧ t.hostMem = s.hostMem ∧ (∀ q ∈ t.warps, q.2.wg ≠ c.w.wg) ∧
           ∃ y, (t.die site).landings.get? i = some y ∧ y.warp.masks = (c.w.putAll c.iss (fun _ => mkVal tyB32 0) c.active).masks ∧
             y.warp.threads.map Thread.pc = c.w.threads.map (fun z => (c.passed z).pc) ∧
             (c.iss.mode = .portable → ∀ z ∈ y.warp.threads, z.live = true → z.wait = .none ∧ z.vals.get? c.iss.n = some (mkVal tyB32 0))) ∧
    Answers .wdone s fun t => ∃ w', t = { s with warps := s.warps.set c.key w', launches := t.launches, issue := none } ∧ c.Moved w' ∧
      t.launch? c.w.asid c.w.lseq = l?.map fun l => if l.draining then l else { l with draining := true, early := true, wm := l.n }

/-! ## Prefetch of code, time, samples, marks, watches -/

/-- R138: `tprf` queues the named function's unit, at the warp's budget or the one given, for each die kind named, where the unit is neither translated nor being
translated nor queued and the queue of 64 has room; a handle that names no kernel has no effect. R415: `clock` gives the core cycles since the die's reset, with `.pkg` the nanoseconds since
package boot (600 MHz); in replay it gives the logged value.
R108: a warp's demand joins its cluster's list once; the oldest that can be served is fetched where the store holds its unit, and else translated. R109: a
completed unit that fits its limits and the store enters it, and its demanded region the translation cache. R111: a fetched unit's region enters the cache, and a unit gone from the store
is demanded again. R112: XBS_CFG takes its fields until it is locked. -/
def Obligations.TranslationPrefetchClockAndHappenings : Prop :=
  (∀ (s : State) (c : Cx), s.cx? = some c → ∀ (kinds : TprfKind) (sym : BitVec 29) (h : Opnd) (b : Fin 16) (pkg : Bool),
    let own := w2eCore c.iss.core
    let cl := clusterOf c.iss.core
    let at_ (w2e : Bool) : Nat := if w2eSite (cl / 4) = w2e then cl else if w2e then 4 + cl % 4 else cl % 4
    let named (w2e : Bool) : Prop := match kinds with | .own => w2e = own | .other => w2e ≠ own | .both => True
    let queues (i : Instr) (mi f budget : Nat) : Prop :=
      Answers i s fun t => ∃ w', t = { s with warps := s.warps.set c.key w', clusters := t.clusters, issue := none } ∧ c.Moved w' ∧
        ∀ w2e, let k := at_ w2e
          let x := s.cluster k
          let u : UnitKey := { asid := c.w.asid, modIdx := mi, fsym := f, w2e := w2e, budget := if w2e then Nat.min budget 96 else budget }
          let queued : Prop := named w2e ∧ (s.die (k / 4)).unit? u = none ∧ s.inTranslation (k / 4) u = false ∧ u ∉ x.prefetch ∧ x.prefetch.length < 64
          (queued → t.cluster k = { x with prefetch := x.prefetch ++ [u] }) ∧ (¬ queued → t.cluster k = x)
    queues (.tprf kinds sym) c.w.modIdx sym.toNat c.w.budget ∧
    (match s.kernel? c.w.asid (c.rd32 c.lead h) with
     | some q => queues (.tprfHandle kinds h b) q.1 q.2 (8 * (b.val + 1))
     | none => LanePass s c (.tprfHandle kinds h b)) ∧
    (s.logMode c.site c.w.asid c.w.lseq = 0 →
      LaneResult s c (.clock pkg) fun _ => mkVal tyB64 (BitVec.ofNat 64 (if pkg then s.cycle * 5 / 3 else s.cycle - (s.die c.site).resetAt))) ∧
    (s.logMode c.site c.w.asid c.w.lseq = 1 → if (s.die c.site).smpFree = 0 then Stops s c (.clock pkg) { code := evLogFull, qual := 1 } c.w.activeLanes
      else Answers (.clock pkg) s fun t => ∃ w', t.warps = s.warps.set c.key w' ∧ c.Took (fun _ => mkVal tyB64 (BitVec.ofNat 64 (if pkg then s.cycle * 5 / 3 else s.cycle - (s.die c.site).resetAt))) w') ∧
    ∀ pa r, s.logMode c.site c.w.asid c.w.lseq = 2 → s.threadRec c.site 0x14 c.w.lseq c.w.tidx c.w.widx none = some (pa, r) →
      Answers (.clock pkg) s fun t => ∃ w', t.warps.get? c.key = some w' ∧ c.Took (fun _ => mkVal tyB64 (r.getD 2 0)) w') ∧
  ∀ (s : State) (core slot cl site : Nat) (w : Warp) (r : XReq) (rs : List XReq) (v : W64),
    let c := s.cluster cl
    let at_ (i : Instr) (P : Cluster → Prop) : Prop := Answers i s fun t => t = { s with clusters := t.clusters } ∧ (∀ j, j ≠ cl → t.cluster j = s.cluster j) ∧ P (t.cluster cl)
    let has (k : UnitKey) : Prop := ((s.die (cl / 4)).unit? k).isSome = true ∨ s.inTranslation (cl / 4) k = true
    (s.warps.get? (wkey core slot) = some w → clusterOf core = cl → at_ (.translationDemand core slot) fun c' => ∃ l, c' = { c with demands := c.demands ++ l } ∧ l.Nodup ∧
      ∀ x, x ∈ l ↔ (x ∈ s.needReqs core w ∧ x ∉ c.tc ∧ x ∉ c.demands ∧ x ∉ c.fetching)) ∧
    (c.current.isSome = true → at_ (.translationServe cl) fun c' => c' = c) ∧
    (c.current = none → c.demands = r :: rs →
      (has r.unit → at_ (.translationServe cl) fun c' => c' = { c with demands := rs, fetching := c.fetching ++ [r] }) ∧
      (¬ has r.unit → at_ (.translationServe cl) fun c' => c' = { c with demands := rs, current := some r, done := [] })) ∧
    (∀ k ks, c.current = none → c.demands = [] → c.prefetch = k :: ks → ¬ has k → verifyKernel (s.moduleWords k.modIdx) k.fsym = none →
      at_ (.translationServe cl) fun c' => c' = { c with prefetch := ks, current := some { unit := k }, done := [] }) ∧
    (let k := r.unit
     let n := s.regionUnder c r
     let done := if n ∈ c.done then c.done else n :: c.done
     let asked : Prop := { unit := k, region := n } ∈ c.demands ∨ n = r.region
     let u := (s.xin k.modIdx).unit k (s.modid k.modIdx)
     let cache (c' : Cluster) : Prop := if asked then { unit := k, region := n } ∈ c'.tc else c'.tc = c.tc
     c.current = some r → s.unitLimit (cl / 4) k = false →
      (done.length < (s.keyPlan k).nregion → at_ (.translationComplete cl) fun c' => cache c' ∧ c' = { c with tc := c'.tc, demands := c.demands.filter (· ≠ { unit := k, region := n }), done := done }) ∧
      ((s.keyPlan k).nregion ≤ done.length → storeUsed (s.die (cl / 4)).units + u.bytes ≤ (s.die (cl / 4)).share →
        Answers (.translationComplete cl) s fun t => t = { s with clusters := t.clusters, dies := t.dies } ∧ cache (t.cluster cl) ∧ (t.cluster cl).current = none ∧
          (t.die (cl / 4)).units = (s.die (cl / 4)).units.filter (fun x => x.key ≠ k) ++
            [{ u with lru := s.cycle, faulted := ((s.die (cl / 4)).badUnits.find? fun x => x.1 = k).map Prod.snd }])) ∧
    ((c.fetching.find? fun x => !s.inTranslation (cl / 4) x.unit) = some r →
      (((s.die (cl / 4)).unit? r.unit).isSome = true → Answers (.backingStoreFetch cl) s fun t => t = { s with clusters := t.clusters, dies := t.dies } ∧
        (t.cluster cl).fetching = c.fetching.filter (· ≠ r) ∧ r ∈ (t.cluster cl).tc) ∧
      ((s.die (cl / 4)).unit? r.unit = none → at_ (.backingStoreFetch cl) fun c' => c' = { c with fetching := c.fetching.filter (· ≠ r), demands := c.demands ++ [r] })) ∧
        Answers (.xbsCfgWrite site v) s fun t => t = { s with dies := t.dies } ∧ (∀ j, j ≠ site → t.die j = s.die j) ∧
      t.die site = if (s.die site).xbscfg.getLsbD 8 then s.die site else { s.die site with xbscfg := v &&& 0x13F }

/-- R414: `smpl.on` and `.off` set whether the warp's issues count, `.now` asks for its next issue where the Sampler samples its context and the tag is free. R416: `logm` has no effect without a log;
under log it takes 32 bytes of the buffer for each thread that is not predicated off, and where they do not fit it raises LOG_FULL with their number. R418, in the issuing context and no other: `watch` gives the entry of the
same region and mode, else the lowest free one, by entry and generation, and 0 for a bad length or no free entry; `unwatch` of a live identifier frees its entry with the
generation advanced, and of any other has no effect.
R413: where the die samples, a free tag draws how many issues to count, and a tagged slot's record takes 32 bytes of the buffer and frees the tag. R401: from MODE 0, arming with a
buffer on the die sets the mode, the head to the buffer's base, and clears DIV, END, STALL, DROP and the slice sequence counters; an empty buffer fails to arm. Disarming ends recording at
once, and MODE reads 0 when no record is outstanding. R409: the limit rises. -/
def Obligations.Sampling : Prop :=
  (∀ (s : State) (c : Cx), s.cx? = some c → ∀ (mode : SmplMode) (ty : Ty) (p : Pred) (v : Opnd) (tag : BitVec 16) (trap : Bool) (base len id : Opnd),
    let d := s.die c.site
    let on := c.active.filter fun u => !c.off p u
    (c.Leaves s (.smpl mode) fun w' => c.Shows c.passed w' ∧
      w' = { c.w with threads := w'.threads, ccnt := w'.ccnt, hangBase := w'.hangBase, regErr := w'.regErr
                      sample := match mode with | .on => true | .off => false | .now => c.w.sample
                      sampleNow := c.w.sampleNow || (mode = .now && d.sampling && c.w.asid = d.smpAsid && !((s.core c.iss.core).samples.getD (c.iss.slot % 4) {}).busy) }) ∧
    ((s.logMode c.site c.w.asid c.w.lseq = 0 ∨ on = []) → LanePass s c (.logm ty p v tag)) ∧
    (s.logMode c.site c.w.asid c.w.lseq = 1 → on ≠ [] →
      if on.length ≤ d.smpFree then
        Answers (.logm ty p v tag) s fun t => ∃ w', t.warps = s.warps.set c.key w' ∧ c.Moved w' ∧ t.issue = none ∧ t.hostMem = s.hostMem ∧ t.cores = s.cores ∧ t.wgs = s.wgs ∧
          (d.smpHeadPa % 32 = 0 → d.smpHeadPa + 32 * on.length < 2 ^ 57 → (t.die c.site).smpHeadPa = d.smpHeadPa + 32 * on.length)
      else Stops s c (.logm ty p v tag) { code := evLogFull, qual := on.length } c.w.activeLanes) ∧
    (let b := c.rd64 c.lead base
     let n := c.rd64 c.lead len
     let e (x : State) (i : Nat) : WatchEntry := (x.info c.w.asid).watches.get {} i
     let ident (i gen : Nat) : Nat := gen % 4096 * 16 + i
     let same (i : Nat) : Prop := (e s i).live = true ∧ (e s i).base = b ∧ (e s i).len = n ∧ (e s i).trap = trap
     let gives (i : Nat) (t : State) : Prop := ∃ w', t = { s with warps := s.warps.set c.key w', infos := t.infos, issue := none } ∧
       c.Took (fun _ => mkVal tyB32 (BitVec.ofNat 64 i)) w' ∧
       (∀ a, a ≠ c.w.asid → t.info a = s.info a) ∧ t.info c.w.asid = { s.info c.w.asid with watches := (t.info c.w.asid).watches }
     ((n = 0 ∨ 2 ^ 40 < n ∨ ((∀ i < 16, (e s i).live = true) ∧ ∀ i < 16, ¬ same i)) → Answers (.watch trap base len) s fun t => gives 0 t ∧ t.infos = s.infos) ∧
     (0 < n → n ≤ 2 ^ 40 → ∀ i < 16,
       (same i → (∀ j < i, ¬ same j) → Answers (.watch trap base len) s fun t => gives (ident i (e s i).gen) t ∧ t.infos = s.infos) ∧
       ((∀ j < 16, ¬ same j) → (e s i).live = false → (∀ j < i, (e s j).live = true) →
         Answers (.watch trap base len) s fun t => gives (ident i (e s i).gen) t ∧
           e t i = { live := true, base := b, len := n, trap := trap, gen := (e s i).gen } ∧ ∀ j, j ≠ i → e t j = e s j)) ∧
     let x := c.rd32 c.lead id
     let i := x % 16
     let live : Prop := (e s i).live = true ∧ (e s i).gen = x / 16 % 4096
     Answers (.unwatch id) s fun t => ∃ w', t = { s with warps := s.warps.set c.key w', infos := t.infos, issue := none } ∧ c.Moved w' ∧
       (∀ a, a ≠ c.w.asid → t.info a = s.info a) ∧ t.info c.w.asid = { s.info c.w.asid with watches := (t.info c.w.asid).watches } ∧
       (¬ live → t.infos = s.infos) ∧ (live → (e t i).live = false ∧ (e t i).gen = if (e s i).gen = 4095 then 1 else (e s i).gen + 1) ∧ ∀ j, j ≠ i → e t j = e s j)) ∧
  ∀ (s : State) (site core sch : Nat) (ctl : W64),
    let d := s.die site
    let k := s.core core
    let tag := k.samples.getD (sch % 4) {}
    let here (i : Instr) (P : Die → Prop) : Prop := Answers i s fun t => t = { s with dies := t.dies } ∧ (∀ j, j ≠ site → t.die j = s.die j) ∧ P (t.die site)
    (siteOf core = site → d.sampling = true → tag.busy = false → tag.due = none → k.samples.length = 4 →
      Answers (.sampleTag core sch) s fun t => t = { s with cores := t.cores, dies := t.dies } ∧ (t.die site).draws = d.draws + 1 ∧
        ∃ n, 1 ≤ n ∧ n ≤ 2 ^ d.plog ∧ (t.core core).samples.getD (sch % 4) {} = { tag with due := some n }) ∧
    (siteOf core = site → d.sampling = true → tag.busy = true → k.samples.length = 4 → d.smpHeadPa + 32 ≤ d.smpLimitPa → d.smpHeadPa + 32 < 2 ^ 57 →
      Answers (.sampleRecord core sch) s fun t => (t.core core).samples.getD (sch % 4) {} = {} ∧ (t.die site).smpHeadPa = d.smpHeadPa + 32 ∧ t.warps = s.warps ∧ t.wgs = s.wgs ∧ t.hostMem = s.hostMem) ∧
    (∀ m, (m = 1 ∨ m = 2) → ctl.toNat % 4 = m → d.smpModeRead = 0 → d.smpBasePa < d.smpLimitPa → deviceByte d.smpBasePa = true → siteOfPa d.smpBasePa = site →
      here (.smpArm site ctl) fun d' => d'.smpModeRead = m ∧ d'.smpHeadPa = d.smpBasePa ∧ d'.smpDrop = 0 ∧ d'.smpStall = none ∧ d'.sliceSeq = [] ∧ d'.smpUsed = [] ∧
        d'.smpCtl.getLsbD 6 = false ∧ d'.smpCtl.getLsbD 7 = false ∧ d'.smpCtl.getLsbD 4 = ctl.getLsbD 4 ∧ d'.smpAsid = ctl.toNat / 2 ^ 32 % 2 ^ 16) ∧
    (∀ m, (m = 1 ∨ m = 2) → ctl.toNat % 4 = m → d.smpModeRead = 0 → d.smpLimitPa ≤ d.smpBasePa → here (.smpArm site ctl) fun d' => d'.smpModeRead = 0) ∧
    ((ctl.toNat % 4 = 0 ∨ ctl.toNat % 4 = 3) → d.smpModeRead ≠ 0 →
      here (.smpDisarm site ctl) fun d' => d'.smpHead = d.smpHead ∧ d'.smpMode = 0 ∧ (d.smpOut = [] → d'.smpModeRead = 0) ∧ (d.smpOut ≠ [] → d'.smpModeRead = d.smpModeRead)) ∧
    (d.smpLimitPa < ctl.toNat / 32 % 2 ^ 52 * 32 → ctl.toNat / 32 % 2 ^ 52 * 32 ≤ d.smpBasePa + 2 ^ 26 →
      here (.smpLimitRaise site ctl) fun d' => d'.smpLimitPa = ctl.toNat / 32 % 2 ^ 52 * 32 ∧ d'.smpHead = d.smpHead ∧ d'.smpCtl = d.smpCtl)

/-! ## Native operations -/

/-- R75, in a native slot, with lanes below 128 and the window within the file. `rgn` begins its region's checkpoint run, and without one the frame commits at once (R126). `ckst` writes each
lane's bank that is not committed and marks the slot, or takes RBASE and the window; `ckld` reads the committed bank. `vsp` stores each lane's 4 bytes at the home of its spill
slot and keeps its tag; `vfl` reads them and lands in the register later (R134). `rot` sets the window and turns RBASE. `waitc` waits until at most the
count is outstanding. `mvw` and `mvz` copy a register. `qpsh` appends an entry, `qpop` takes the oldest and waits for one. R73: a V result is also the newest last result (z0, the model's choice, log 16); an L result lands later. -/
def Obligations.NativeOperations : Prop :=
  ∀ (s : State) (c : Cx) (eng : Eng) (dst : NReg) (lit : W64), s.cx? = some c → c.iss.mode = .native eng dst lit → (∀ u ∈ c.active, u.lane < 128) → c.w.native.wb + c.w.native.wn < 256 →
    ∀ (r : BitVec 16) (src d : NReg) (slot : Fin 16) (j : BitVec 16) (vb : Fin 128) (n : Fin 64) (cls : Fin 4) (cnt : BitVec 8) (scale : Bool),
    let nt := c.w.native
    let file (q : NReg) : Prop := (∃ i, q = .v i) ∨ ∃ i, q = .w i
    let out (w' : Warp) (nt' : Native) : Prop := w' = { c.w with threads := w'.threads, native := nt' } ∧ c.Shows c.passed w'
    let run : Bool := ((c.lead.nat.at_.get? Eng.S.tag).bind (s.bundleAt c.iss.core c.w)).any bundleC
    let low (v : Val) : Val := { bits := (v.bits.setWidth 32).setWidth 64, tag := v.tag }
    (run = true → c.Leaves s (.rgn r) fun w' => w' = { c.w with threads := w'.threads, native := { nt with preg := r.toNat, pv := true } } ∧ c.Shows (fun u => { c.passed u with nat := if u.live && u.grp = c.w.turn then { u.nat with six := [] } else u.nat }) w') ∧
    (run = false → c.Leaves s (.rgn r) fun w' => w'.native = { nt with preg := r.toNat, pv := false, pend := 0 } ∧ w'.ccnt = c.w.ccnt + 1 ∧ w'.hangBase = s.cycle ∧
      w'.threads.map (fun u => (u.lane, u.pc, u.bank, u.ck.pc, u.rbc)) = c.w.threads.map fun u =>
        (u.lane, (c.passed u).pc, if u.live && u.grp = c.w.turn then (u.bank ^^^ nt.pend, { fsym := c.engFunc .S, pix := (c.plan (c.engFunc .S)).rpix r.toNat }, nt.rbp) else (u.bank, u.ck.pc, u.rbc))) ∧
    (c.Leaves s (.ckst src slot true) fun w' => out w' { nt with rbp := nt.rbase, ckWb := nt.wb, ckWn := nt.wn, ckWv := nt.wv }) ∧
    (c.Leaves s (.ckst src slot false) fun w' => ∃ m, out w' { nt with pend := nt.pend ||| (1#16 <<< slot.val), slots := m } ∧
      ∀ k, m.get? k = match c.active.reverse.find? (fun u => slotKey (!u.bank.getLsbD slot.val) slot.val u.lane = k) with
        | some u => some (c.w.readReg u.lane 0 32 src)
        | none => nt.slots.get? k) ∧
    (c.Leaves s (.ckld d slot true) fun w' => out w' { nt with rbase := c.lead.rbc, wb := nt.ckWb, wn := nt.ckWn, wv := nt.ckWv }) ∧
    (file d → c.Leaves s (.ckld d slot false) fun w' => ∃ m, out w' { nt with regs := m } ∧ ∀ l < 128,
      w'.readReg l 0 32 d = match c.holder l with
        | some u => low (nt.slots.get {} (slotKey (u.bank.getLsbD slot.val) slot.val l))
        | none => c.w.readReg l 0 32 d) ∧
    (let a (u : Thread) : Nat := s.spillAddr c j.toNat u
     let sx (wr : Bool) := s.walks c.iss.core c.w.asid (c.active.map fun u => (.global, a u, wr))
     let v (u : Thread) : Val := low (c.w.readReg u.lane 0 32 src)
     let noted (u : Thread) : Thread := match c.active.find? (fun y => y.lane = u.lane) with
       | some y => if u.live then { u with spilled := u.spilled.set (y.sb + j.toNat) (v y) } else u
       | none => u
     let rs : List StoreReq := c.active.map fun u => { t := u, addr := a u, bytes := leBytes 4 (v u).bits.toNat }
     (s.canonical → (∀ u ∈ c.active, (sx true).spillEvents c j.toNat true u = []) → (∀ i < 4, ((sx true).die i).snap = none) →
       Answers (.vsp src j) s fun t => ∃ w' m,
         t = { sx true with warps := s.warps.set c.key w', dies := t.dies, mem := t.mem, poison := t.poison, issue := none } ∧
         (∀ x, t.byte x = ((sx true).lastStored c .global rs fun p i => match p with | .mem q => !q.host && q.pa + i == x && deviceByte x | _ => false).getD ((sx true).byte x)) ∧
         w' = { c.w with threads := w'.threads, native := { nt with spillTags := m } } ∧
         c.Shows (fun u => c.passed (c.act Thread.useExempt (noted u))) w' ∧
         ∀ k, m.get? k = match c.active.reverse.find? (fun u => (u.sb + j.toNat) * 128 + u.lane = k) with | some u => some (v u).tag | none => nt.spillTags.get? k) ∧
     ((∀ u ∈ c.active, (sx false).spillEvents c j.toNat false u = []) →
       Answers (.vfl d j) s fun t => ∃ (w' : Warp) (got : Thread → W64), t = { sx false with warps := s.warps.set c.key w', dies := t.dies, issue := none } ∧
         (∀ u ∈ c.active, ∃ pl, (sx false).place c.iss.core c.w.asid c.w.wg .global (a u) 4 false = .ok pl ∧ got u = BitVec.ofNat 64 (leOf 4 ((sx false).homeByte c pl))) ∧
         out w' { nt with landing := c.active.map fun u => (u.lane, { bits := got u, tag := nt.spillTags.get 0 ((u.sb + j.toNat) * 128 + u.lane) }, 32) })) ∧
    (c.Leaves s (.rotWindow vb n) fun w' => out w' { nt with wb := vb.val, wn := n.val, wv := true, rbase := (nt.rbase + 1) % (n.val + 1) }) ∧
    (let k := s.core c.iss.core
     let o : Nat := match cls.val with
       | 0 => nt.outstanding.length
       | 1 => (c.active.filter fun t => t.home ≠ none).length
       | 2 => (k.jobs.filter fun j => j.owner = c.w.name).length
       | _ => (k.tileOps.filter fun o => o.slot = c.iss.slot && o.wg = c.w.wg).length
     if o ≤ cnt.toNat then LanePass s c (.waitc eng cls cnt) else exec (.waitc eng cls cnt) s = .next { s with issue := none }) ∧
    (file d → ∀ i ∈ [Instr.mvw d src, Instr.mvz d src], c.Leaves s i fun w' => ∃ m, out w' { nt with regs := m } ∧
      ∀ l < 128, w'.readReg l 0 32 d = match c.holder l with | some _ => low (c.w.readReg l 0 32 src) | none => c.w.readReg l 0 32 d) ∧
    (let e := c.active.map fun u => (u.lane, c.w.readReg u.lane 0 32 src)
     c.Leaves s (.qpsh src scale) fun w' => out w' (if scale then { nt with qScale := nt.qScale ++ [e] } else { nt with qTile := nt.qTile ++ [e] })) ∧
    (match (if scale then nt.qScale else nt.qTile) with
     | [] => exec (.qpop d scale) s = .next { s with issue := none }
     | e :: q => file d → (∀ x ∈ e, x.1 < 128) → c.Leaves s (.qpop d scale) fun w' => ∃ m, out w' (if scale then { nt with qScale := q, regs := m } else { nt with qTile := q, regs := m }) ∧
         ∀ l < 128, w'.readReg l 0 32 d = match e.reverse.find? (fun x => x.1 = l) with | some x => low x.2 | none => c.w.readReg l 0 32 d) ∧
    ∀ (l : Nat) (x : Val), l < 128 → (Ty.ofCode x.tag).bits ≤ 32 →
      let w' := c.w.put c.iss l x
      if eng = .L then w' = { c.w with native := { nt with landing := (l, x, (Ty.ofCode x.tag).bits) :: nt.landing } }
      else (file dst → w'.readReg l 0 32 dst = low x) ∧
        ∀ i : Fin 4, (w'.readReg l 0 32 (.z i)) = if eng = .V then (if i.val = 0 then x else c.w.readReg l 0 32 (.z ⟨i.val - 1, by omega⟩)) else c.w.readReg l 0 32 (.z i)

/-! ## Happenings of warps, schedulers and the Sampler -/

/-- R243: with nothing issued in the cycle, the one warp of a scheduler that may issue is latched, with its issue time, unless a firmware bundle takes the slot, for a credit, while a trap
is pending (R244; when firmware has a bundle ready is log 27's choice). R244: a credit for each 2^LOG2 cycles, at most 16. R76: an engine whose bundle holds no slot for it passes the bundle.
R134: a load that completes writes its register in each lane and is outstanding no more. R182: with the timer expired, another group ready and NOFAIR clear, the turn goes to another group. R250: a warp
that has not committed for its hang time takes HANG. R201: `sleep` ends for the threads whose time has come. R202: a poll that satisfies the comparison ends the wait with the word. -/
def Obligations.WarpHappenings : Prop :=
  ∀ (s : State) (core slot sch : Nat) (w : Warp), slot < 16 → s.warps.get? (wkey core slot) = some w →
    let key := wkey core slot
    let k := s.core core
    let sees (i : Instr) (P : Warp → Prop) : Prop := Answers i s fun t => t.issue = s.issue ∧ t.mem = s.mem ∧ t.hostMem = s.hostMem ∧ t.wgs = s.wgs ∧ ∃ w', t.warps.get? key = some w' ∧ P w'
    let only (i : Instr) (P : Warp → Prop) : Prop := ∃ w', exec i s = .next { s with warps := s.warps.set key w' } ∧ P w'
    let per : Nat := 2 ^ Nat.min 8 (Nat.max 2 (k.fwshare.toNat % 16))
    let since := Nat.max (k.creditAt.getD (sch % 4) 0) (s.die (siteOf core)).resetAt
    let credit := Nat.min 16 (k.credits.getD (sch % 4) 0 + (s.cycle - since) / per)
    let trap : Prop := ∃ q ∈ s.warps, q.1 / 16 = core ∧ (q.2.event.isSome = true ∨ q.2.framed = true)
    let rising : Prop := (s.warps.map Prod.fst).Pairwise (· < ·)
    (s.issue = none → s.hasIssued core sch = false → rising → s.schedWarps core sch = [(key, w)] →
      (∀ q ∈ s.warps, ∀ u ∈ q.2.threads, u.atLjoin = false ∧ ∀ i x, u.wait ≠ .migrate i x) → s.mayIssue core w = true → w.active.any Thread.native = false →
      (trap → 0 < credit → k.credits.length = 4 → k.creditAt.length = 4 → k.issuedAt.length = 4 → Answers (.schedulerIssue core sch) s fun t => t.issue = none ∧
        (t.core core).credits.getD (sch % 4) 0 + 1 = credit ∧ (t.core core).issuedAt.getD (sch % 4) none = some s.cycle) ∧
      (¬ trap ∨ credit = 0 → s.blockDue w.wg = false → w.midAccess = true ∨ (s.cxFor { core := core, slot := slot } w).spillDue = none →
        Answers (.schedulerIssue core sch) s fun t => t.issue = some { core := core, slot := slot } ∧ t.mem = s.mem ∧ t.hostMem = s.hostMem ∧
        ∃ w', t.warps.get? key = some w' ∧ w' = { w with lastIssue := s.cycle, sampleNow := w'.sampleNow })) ∧
    (k.credits.length = 4 → k.creditAt.length = 4 → Answers (.firmwareCredit core sch) s fun t => t = { s with cores := t.cores } ∧ (∀ j, j ≠ core → t.core j = s.core j) ∧
        t.core core = { k with credits := (t.core core).credits, creditAt := (t.core core).creditAt } ∧
        (t.core core).credits.getD (sch % 4) 0 = credit ∧ (t.core core).creditAt.getD (sch % 4) 0 = since + (s.cycle - since) / per * per) ∧
    (∀ (e : Eng) (u : Thread) (at_ : Nat × Nat) (b : BitVec 256) (bs : Bundle), s.issue = none → rising → s.mayIssue core w = true → s.blockDue w.wg = false →
      w.active.head? = some u → u.native = true → (∀ y ∈ w.active, y.nat = u.nat) → u.nat.place e.tag = some at_ → u.nat.jump = none → u.nat.skip = none →
      s.bundleReq core w at_ ∈ (s.cluster (clusterOf core)).tc → (s.unitOf core w at_.1).bundles[at_.2]? = some b →
      (s.unitOf core w at_.1).decode (s.moduleWords w.modIdx) at_.2 = some bs → u.nat.mayStep e.tag w.slipw (bundleH b) = true → (∀ y ∈ bs.slots, y.2.1 ≠ e) → bs.ckpt = false →
      (∀ y ∈ w.threads, y.live = true → y.lane ∈ w.activeLanes → y.grp = w.turn) →
      sees (.bundleStep core slot e) fun w' => w'.threads.map (fun y => (y.lane, y.vals, y.nat)) = w.threads.map (fun y =>
        (y.lane, y.vals, if y.live && y.grp = w.turn then (u.nat.pass e.tag 0 (at_.1, at_.2 + 1)).norm else y.nat))) ∧
    (∀ idx o, w.native.outstanding[idx]? = some o →
      only (.loadComplete core slot idx) fun w' => w'.native.outstanding = w.native.outstanding.eraseIdx idx ∧ w'.threads = w.threads ∧
        ((∃ i, o.dest = .v i) ∨ (∃ i, o.dest = .w i) → w.native.wb + w.native.wn < 256 → (∀ v ∈ o.vals, v.1 < 128 ∧ v.2.2 ≤ 32) → ∀ l < 128,
          w'.readReg l 0 32 o.dest = match o.vals.reverse.find? (fun v => v.1 = l) with
            | some v => { bits := (v.2.1.bits.setWidth 32).setWidth 64, tag := v.2.1.tag }
            | none => w.readReg l 0 32 o.dest)) ∧
    ((∀ l, s.launch? w.asid w.lseq = some l → l.flag 50 = false) → s.stopping core w = false → w.framed = false → w.active ≠ [] →
      (∀ u ∈ w.active, u.halted = false) → w.native.pv = false → w.turnStart + Nat.max 64 ((w.fairPin.getD k.fairt).toNat % 2 ^ 16) ≤ s.cycle →
      (∀ g, w.stamps.get 0 g < w.stampClock) → ∀ g ∈ w.groups, g ≠ w.turn → w.ready g = true → g ∉ w.yielded →
      only (.fairnessTimerExpiry core slot) fun w' => w'.turn ≠ w.turn ∧ w'.turnStart = s.cycle ∧ w'.threads.map Thread.view = w.threads.map Thread.view) ∧
    (k.hangcfg.getLsbD 6 = false → w.event = none → w.framed = false → w.pendingRestart = none → (∀ u ∈ w.threads, u.live = true → u.halted = false) →
      2 ^ Nat.min 40 (Nat.max 20 (k.hangcfg.toNat % 64)) ≤ w.hangCount s.cycle →
      only (.hang core slot) fun w' => ∃ ev, w' = { w with event := some ev } ∧ ev.code = evHang ∧ ev.precise = false ∧ ev.flanes = lanesOf ((w.threads.filter Thread.live).map Thread.lane)) ∧
    (let due (u : Thread) : Bool := u.live && match u.wait with | .sleep c => c ≤ s.cycle | _ => false
     w.threads.any due = true →
      only (.sleepWake core slot) fun w' => w'.threads.map (fun u => (u.lane, u.pc, u.vals, u.wait)) = w.threads.map fun u => (u.lane, u.pc, u.vals, if due u then .none else u.wait)) ∧
    ∀ (u : Thread) (iss : Issue) (ty : Ty) (cond : Cond) (sgn : Bool) (addr v : Opnd) (x : Xlat), w.event = none → w.framed = false → (s.wg w.wg).stop = none →
      w.threads = [u] → u.live = true → u.wait = .flag none iss (.flagw ty cond sgn addr v) → iss.mode = .portable → iss.core = core → iss.slot = slot →
      let c : Cx := s.cxFor iss w
      let z : W64 := BitVec.ofNat 64 (leOf ty.bytes (s.homeByte c (.mem x)))
      s.place iss.core w.asid w.wg .global (c.addr u addr none) ty.bytes false = .ok (.mem x) → s.logMode (siteOf iss.core) w.asid w.lseq = 0 →
      (∀ e ∈ (s.core core).hold, e.owner = w.name → e.pl ≠ x.line) →
      condHolds cond (readInt sgn ty.width z.toNat) (readInt sgn ty.width (c.rd ty u v).toNat) = true →
      sees (.flagwRepoll core slot) fun w' => ∃ u', w'.threads = [u'] ∧ u'.wait = .none ∧ u'.pc = u.pc.succ ∧ u'.vals = u.vals.set iss.n (mkVal ty z)

/-! ## Happenings of translation, queues and launches -/

/-- R232, R233: a doorbell through a function that may reach the queue sets WIDX, and a WIDX that runs ahead of the ring stops an enabled queue with error 1; enabling takes the fields, for a context that is loaded, and
disabling clears STATE and ERR. R236: the next readable queue's packet is read, 16 words little-endian. R209, R235: a packet that fails a check completes with its reason, and one that is
accepted becomes a launch with its record and units; either way RIDX counts it. R224: a child that is accepted is marked. R211: a launch with nothing left to run is gone, with its pins. -/
def Obligations.QueueAndLaunchHappenings : Prop :=
  ∀ (s : State) (site vf q : Nat) (v : W64), q ≤ 63 →
    let d := s.die site
    let h := s.queue site q
    let onQueue (i : Instr) (h' : HostQueue) : Prop := Answers i s fun t => t = { s with dies := t.dies } ∧ t.queue site q = h' ∧ (∀ j, j ≠ q → t.queue site j = s.queue site j) ∧
      (∀ j, j ≠ site → t.die j = s.die j)
    (vf = 0 ∨ s.windowOpen site vf q = true →
      let h' := { h with widx := v.setWidth 32 }
      (h.en = false ∨ h.state = 2 ∨ h.state = 3 ∨ h'.ahead = false → onQueue (.hqDoorbell site vf q v) h') ∧
      (h.en = true → h.state ≠ 2 → h.state ≠ 3 → h'.ahead = true →
        Answers (.hqDoorbell site vf q v) s fun t => (t.queue site q).state = 2 ∧ (t.queue site q).err = 1 ∧ (t.queue site q).widx = v.setWidth 32 ∧ t.warps = s.warps)) ∧
    (vf ≠ 0 → s.windowOpen site vf q = false → exec (.hqDoorbell site vf q v) s = .next s) ∧
    (s.lockOf? site h.asid = none →
      (h.en = false → (d.ctx? (v.toNat / 2 ^ 32 % 2 ^ 16)).isSome → onQueue (.hqEnable site q v)
        { h with asid := v.toNat / 2 ^ 32 % 2 ^ 16, log2n := v.toNat / 2 ^ 16 % 32, pmax := v.toNat / 256 % 8, state := 0, err := 0
                 en := 4 ≤ v.toNat / 2 ^ 16 % 32 && v.toNat / 2 ^ 16 % 32 ≤ 16 }) ∧
      (h.en = true → onQueue (.hqDisable site q v) { h with en := false, state := 0, err := 0 })) ∧
    (∀ bs, s.nextQueue site = some q → h.ahead = false → s.readVa site h.asid (h.base.toNat + 128 * (h.ridx.toNat % 2 ^ h.log2n)) 128 = some bs →
      Answers (.packetRead site) s fun t => t.queue site q = { h with packet := some ((List.range 16).map fun i => BitVec.ofNat 64 (leOf 8 fun j => bs.getD (8 * i + j) 0)), readNo := d.hqReads } ∧
        t.warps = s.warps ∧ t.launches = s.launches ∧ t.cores = s.cores) ∧
    (∀ r, h.packet = some r → h.state ≠ 3 → s.ctxStopped site h.asid = false → (s.info h.asid).snapPending = none → (recFlag r 53 = false ∨ h.live = []) → h.live.length < 256 →
      (s.launchReason site h.asid r false true ≠ 0 → recW r 8 = 0 →
        Answers (.launchAccept site (some q)) s fun t => t.launches = s.launches ∧ t.mem = s.mem ∧ t.queue site q = { h with packet := none, ridx := h.ridx + 1 } ∧
          (t.info h.asid).nextLseq = (s.info h.asid).nextLseq + 1) ∧
      ∀ s1, s.launchReason site h.asid r false true = 0 → s.acceptLaunch site h.asid r (Nat.min (recPrio r) h.pmax) (some (site, q)) none none = some s1 →
        s.launches.length < s1.launches.length →
        Answers (.launchAccept site (some q)) s fun t => ∃ l, t.launches.length = s.launches.length + 1 ∧ t.launches[s.launches.length]? = some l ∧ l.record = r ∧ l.asid = h.asid ∧
          l.prio = Nat.min (recPrio r) h.pmax ∧ l.n = recUnits r ∧ l.queue = some (site, q) ∧ (t.queue site q).packet = none ∧ (t.queue site q).ridx = h.ridx + 1 ∧ (t.queue site q).live = h.live ++ [l.lseq]) ∧
    (∀ e s1, poolHeads (d.pool.filter fun e => e.accepted.isNone && !s.ctxStopped site e.asid) = [e] → s.launchReason site e.asid e.record true true = 0 →
      s.acceptLaunch site e.asid e.record e.prio none (some (site, e.order)) e.parent = some s1 → s.launches.length < s1.launches.length →
      Answers (.launchAccept site none) s fun t => ∃ l, t.launches[s.launches.length]? = some l ∧ l.record = e.record ∧ l.parent = e.parent ∧
        ∀ x ∈ (t.die site).pool, x.order = e.order → x.accepted = some l.lseq) ∧
    ∀ asid lseq l, s.launch? asid lseq = some l → s.launchBusy l = false → recW l.record 8 = 0 → (∀ x ∈ s.dies, x.2.reds = []) → (s.info asid).snapPending = none → l.parent = none →
      Answers (.launchCompletion asid lseq) s fun t => t = { s with clusters := t.clusters, dies := t.dies, launches := t.launches } ∧
        t.launches = s.launches.filter (fun x => !(x.asid = asid && x.lseq = lseq)) ∧
        (∀ x ∈ t.dies, ∀ p ∈ x.2.pins, p.asid = asid → p.lseq = lseq → p.job ≠ none) ∧ ∀ x ∈ t.clusters, ∀ k ∈ x.2.walkers, ¬ (k.2.asid = asid ∧ k.2.lseq = lseq)

/-! ## Happenings of walkers and of pre-emption -/

/-- R216, R239: a walker whose unit fits starts it on the core chosen (its grant all zeros, R256) and moves on after 8 cycles; refused, it keeps its unit and the time. R217: an idle core's cluster asks the fullest walker it may steal from;
the walker gives the upper half of its interval to the requester's walker. R226: a draining launch's walker gives up its interval. R220: a unit blocked at the watermark for 4,096 cycles, for which the pre-emptions under way
make no room, goes to a cluster that takes it, where its room is owed to it (log 29).
(The log of each, R404, is not in the statement: the launch is not logged.) -/
def Obligations.WalkerHappenings : Prop :=
  ∀ (s : State) (cl wk : Nat) (l : Launch),
    let w := s.walker cl wk
    s.launch? w.asid w.lseq = some l → w.state = .active → s.ctxStopped (cl / 4) w.asid = false → s.logMode (cl / 4) w.asid w.lseq = 0 →
    let clusters (i : Instr) (P : State → Prop) : Prop := Answers i s fun t => t = { s with clusters := t.clusters } ∧ P t
    let unit1 : Prop := w.tcur < w.tend ∧ w.nextAt ≤ s.cycle ∧ l.status = 0
    (∀ c0, unit1 → recGang l.record = false → s.placeUnit l cl w.prefer = some [c0] →
      Answers (.walkerDispatch cl wk) s fun t => t.mem = s.mem ∧ t.hostMem = s.hostMem ∧
        (w.tcur + 1 < w.tend → t.walker cl wk = { w with tcur := w.tcur + 1, nextAt := s.cycle + 8, prefer := none, triedAt := none, owed := false }) ∧
        (∃ gk g, s.wgs.get? gk = none ∧ t.wgs.get? gk = some g ∧ gk / 16 = c0 ∧ g.asid = l.asid ∧ g.lseq = l.lseq ∧ g.tidx = w.tcur ∧ g.nwarps = recNwarps l.record ∧
          g.grant = recScr l.record ∧ g.scratch = [] ∧ g.warps.length = recNwarps l.record ∧ g.walker = (cl, wk)) ∧
        (t.core c0).l1 = [] ∧ (t.core c0).lastDispatch = some s.cycle ∧ (t.launch? l.asid l.lseq).any (fun l' => w.tcur < l'.wm || l'.started.contains w.tcur)) ∧
    (unit1 → s.placeUnit l cl w.prefer = none → s.lowerTo l cl = none →
      clusters (.walkerDispatch cl wk) fun t => t.walker cl wk = { w with triedAt := w.triedAt.or (some s.cycle) }) ∧
    (∀ core nw c v, clusterOf core = cl → l.status = 0 → Nat.max l.acceptedAt ((s.core core).lastDispatch.getD 0) + 16 ≤ s.cycle → cl / 4 ∈ s.ctxDies (cl / 4) w.asid →
      s.holds core (s.demand l (cl / 4)) = true → s.freeWalker cl = some nw → s.splitVictim cl w.asid w.lseq = some (c, v) →
      clusters (.splitRequest core w.asid w.lseq) fun t => (t.cluster c).splitReqs = (s.cluster c).splitReqs ++
        [{ core := core, nw := nw, asid := w.asid, lseq := w.lseq, victim := v, arrive := if c / 4 = cl / 4 then s.cycle else s.cycle + 108 }]) ∧
    (∀ r, firstReq wk s.cycle (s.cluster cl).splitReqs = some r → r.asid = w.asid → r.lseq = w.lseq → 2 ≤ w.tend - w.tcur → (clusterOf r.core, r.nw) ≠ (cl, wk) →
      let mid := w.tcur + (w.tend - w.tcur + 1) / 2
      clusters (.split cl wk) fun t => t.walker cl wk = { w with tend := mid, nsplit := w.nsplit + 1 } ∧ r ∉ (t.cluster cl).splitReqs ∧
        t.walker (clusterOf r.core) r.nw = { state := .active, asid := w.asid, lseq := w.lseq, tcur := mid, tend := w.tend, nsplit := 1, nextAt := s.cycle + 1, prefer := some r.core }) ∧
    (l.draining = true → clusters (.drainNotice cl wk) fun t => t.walker cl wk = { w with state := .draining, tend := w.tcur }) ∧
    (∀ c nw cs since, w.tcur + 1 < w.tend → w.tcur = l.wm → l.status = 0 → w.triedAt = some since → since + 4096 ≤ s.cycle → s.afterStops.placeUnit l cl w.prefer = none →
      ((s.stealOrder cl).filter (fun c => c ≠ cl && (s.ctxDies (cl / 4) l.asid).contains (c / 4))).find? (fun c => (s.placeUnit l c none).isSome && (s.freeWalker c).isSome) = some c →
      s.placeUnit l c none = some cs → s.freeWalker c = some nw →
      clusters (.unitBlocked cl wk) fun t => t.walker cl wk = { w with tcur := w.tcur + 1, triedAt := none, owed := false, nsplit := w.nsplit + 1 } ∧
        t.walker c nw = { state := .active, asid := w.asid, lseq := w.lseq, tcur := w.tcur, tend := w.tcur + 1, nsplit := 1, nextAt := s.cycle + 1, prefer := cs.head?, owed := true })

/-- R246, R247: a unit that waits beyond PWAIT, or beyond TSLICE of another context, names the units to be pre-empted, and the room is owed to its walker (log 29). R389: of a unit whose jobs run, or that is
in the span of R127 or has an access at its home, the issue is stopped; drained, and with room in the save area, it leaves its core and joins the resume list, and of device memory only the save area changes (R425;
its layout is log 32's). R245, R227: the first saved unit that fits is placed and leaves its list; R252: a landed warp is placed for its die. R128: a placed warp whose spill
slots are written back restarts at its committed heads, with an acquire. R288, R426: an ended workgroup leaves its core, its grant to be scrubbed. -/
def Obligations.PreemptionHappenings : Prop :=
  ∀ (s : State) (site core slot cl wk asid : Nat) (cause : Cause) (l : Launch),
    let w := s.walker cl wk
    let d := s.die (cl / 4)
    let s0 := s.afterStops
    let named (c : Cause) (ks : List Nat) : List Turn := ks.map fun g => .happen (.preemption (g / 16) (g % 16) c)
    let waits (n : Nat) : Prop := s.launch? w.asid w.lseq = some l ∧ w.state = .active ∧ w.tcur < w.tend ∧ l.status = 0 ∧ s.ctxStopped (cl / 4) l.asid = false ∧
      s.logMode (cl / 4) l.asid l.lseq ≠ 2 ∧ s0.placeUnit l cl w.prefer = none ∧ ∃ a, w.triedAt = some a ∧ a + n ≤ s.cycle
    let clears (c : Nat) (ks : List Nat) : Prop := c ∈ coresOf cl ∧ (∃ g ∈ s0.coreWgs c, s0.unitPrio g.1 < l.prio) ∧ s0.clearFor c l (· < l.prio) 16 [] = some ks
    let owing (t : State) : Prop := t.walker cl wk = { w with owed := true } ∧ ∀ j x, (j, x) ≠ (cl, wk) → t.walker j x = s.walker j x
    (waits (d.schedcfg.toNat % 2 ^ 16) → (∃ c ks, clears c ks) →
      ∃ c ks, clears c ks ∧ (∀ c' ks', clears c' ks' → ks.length ≤ ks'.length) ∧
        Answers (.priorityPreemption cl wk) s fun t => t = { s with agenda := s.agenda ++ named .priority ks, clusters := t.clusters } ∧ owing t) ∧
    (let ts := d.schedcfg.toNat / 2 ^ 16 % 2 ^ 16 * 600
     let units := ((coresOf cl).map s0.coreWgs).flatten.filter fun g => g.2.asid = asid && !g.2.ended && s0.unitPrio g.1 = l.prio
     ∀ ks, waits ts → ts ≠ 0 → l.asid ≠ asid → units ≠ [] → (∀ g ∈ units, g.2.placed + ts ≤ s.cycle) → d.lastSlice.get 0 cl + ts ≤ s.cycle →
       (¬ ∃ c ks, clears c ks) → s0.sliceFor l cl asid 256 [] = some ks →
       Answers (.timeSlice cl wk asid) s fun t => t = { s with agenda := s.agenda ++ named .timeSlice ks, clusters := t.clusters, dies := t.dies } ∧ owing t ∧
         t.die (cl / 4) = { d with lastSlice := d.lastSlice.set cl s.cycle } ∧ ∀ j, j ≠ cl / 4 → t.die j = s.die j) ∧
    (let gk := core * 16 + slot
     let g := s.wg gk
     s.wgs.get? gk = some g → g.ended = false → s.unitWgs gk = [gk] → s.warpsOf [gk] ≠ [] → s.logMode (siteOf core) g.asid g.lseq = 0 →
     (∀ p ∈ s.warpsOf [gk], p.2.framed = false ∧ p.2.event = none) →
     ((s.drained [gk] = false ∨ ∃ p ∈ s.warpsOf [gk], p.2.inSpan = true ∨ p.2.midEffect = true) →
       Answers (.preemption core slot cause) s fun t => t = { s with wgs := t.wgs } ∧ t.wg gk = { g with stop := some cause } ∧ ∀ j, j ≠ gk → t.wg j = s.wg j) ∧
     let i := siteOf core
     let u := s.saveUnit [gk] false
     let units := ((s.die i).resume ++ [u] ++ (s.die i).parked).filter fun x => x.asid = g.asid
     let im := imageOf [[], [], [], []] [0, 0, 0, 0] (units.map fun x => (if x.parked then 1 else 0, s.unitRecord x))
     ∀ x, s.drained [gk] = true → (∀ p ∈ s.warpsOf [gk], p.2.inSpan = false ∧ p.2.midEffect = false ∧ p.2.asid = g.asid ∧ p.2.lseq = g.lseq) → s.saveFits i g.asid u = true →
       (s.die i).ctx? g.asid = some x → ctxFlag x.2 4 = false → gk / 16 = core → s.canonical → (∀ j, (s.die j).snap = none) →
       Answers (.preemption core slot cause) s fun t => t.hostMem = s.hostMem ∧ t.wgs.get? gk = none ∧ (∀ q ∈ t.warps, q.2.wg ≠ gk) ∧
         (t.die i).resume = (s.die i).resume ++ [u] ∧ (∀ q ∈ s.warps, q.2.wg ≠ gk → q ∈ t.warps) ∧
         (let base := (x.2.words.getD 17 0).toNat
          ∀ a, ¬ (base ≤ a ∧ a < base + 256) → (∀ p ∈ im.parts, ¬ (base + p.1 ≤ a ∧ a < base + p.1 + p.2.length)) → t.byte a = s.byte a)) ∧
    (let s1 := s.settleRestored site
     let stored (s2 t : State) : Prop := t = { s2 with dies := t.dies, mem := t.mem, poison := t.poison }
     (∀ u c s2, sortUnits (s.die site).resume = [u] → s1.logMode site u.asid u.lseq = 0 → firstPlace s1 u none (s1.homesFor u) = some (c, s2) →
       Answers (.resumePlacement site) s fun t => stored s2 t ∧ (t.die site).resume = eraseUnit u (s2.die site).resume) ∧
     ∀ u c s2, sortUnits ((s.die site).parked.filter fun u => u.members.all fun m => !m.wg.parking || m.wg.joined = 0) = [u] → s.logMode site u.asid u.lseq = 0 →
       firstPlace s u none (s.homesFor u) = some (c, s2) →
       Answers (.parkResume site) s fun t => stored s2 t ∧ (t.die site).parked = eraseUnit u (s2.die site).parked) ∧
    (∀ i x c0 cl0, (s.die site).landings.get? i = some x → s.launch? x.warp.asid x.warp.lseq = some l → (s.die site).resume = [] →
      (((List.range 4).map (site * 4 + ·)).findSome? fun k => (s.pickCore k (s.demand l site) none).map fun c => (k, c)) = some (cl0, c0) →
      Answers (.landedWarpPlacement site i) s fun t => t.mem = s.mem ∧ (t.die site).landings.get? i = none ∧
        ∃ q ∈ t.warps, q.1 / 16 = c0 ∧ q.2.pendingRestart.isSome = true ∧ q.2.asid = x.warp.asid ∧ q.2.lseq = x.warp.lseq ∧ q.2.tidx = x.warp.tidx ∧ q.2.masks = x.warp.masks ∧
          q.2.threads.map (fun u => (u.lane, u.pc)) = x.warp.threads.map fun u => (u.lane, u.pc)) ∧
    (∀ x spills s1, s.warps.get? (wkey core slot) = some x → x.pendingRestart = some spills → x.event = none → x.framed = false → x.pageWaits = false → x.midEffect = false →
      s.writeBack core x.asid (spills.map fun p => (s.spillBase core slot x.asid + p.1, p.2)) = .ok s1 →
      Answers (.warpRestart core slot) s fun t => t = { s1 with warps := t.warps, cores := t.cores } ∧ (t.core core).l1 = [] ∧
        ∃ sl, t.warps.get? (wkey core slot) = some { x.restart s.cycle with pendingRestart := none, slipw := sl }) ∧
    ∀ g, s.wgs.get? (core * 16 + slot) = some g → g.ended = true → g.group = none → s.wgWarps (core * 16 + slot) = [] → s.drained [core * 16 + slot] = true → slot < 16 →
      Answers (.workgroupRelease core slot) s fun t => t = { s with warps := t.warps, wgs := t.wgs, cores := t.cores, clusters := t.clusters, issue := t.issue } ∧
        t.wgs.get? (core * 16 + slot) = none ∧ (∀ j, j ≠ core * 16 + slot → t.wgs.get? j = s.wgs.get? j) ∧ t.warps = s.warps ∧
        (g.grant ≠ 0 → (t.core core).scrubScratch.get? slot = some g.grant)

/-! ## Happenings of jobs and of memory -/

/-- R282: a job that may start, none being served before it, with its pages translated, starts and pins its ranges; a page that it cannot use ends it with the page's code. R270: a completion lowers
its tag's COUNT and keeps the earliest failed job's code; at 0, waiting groups receive the code, or PEND is set. R290: a fill into scratch or within one page of device memory leaves its pattern and no other byte. R353, R360: the oldest tile operation
completes, a scale entry arrives. R302: a held line lands at its home, byte by byte. R299: a line of zeros is filled as ZERO. R312, R313: a walk sets A, and D for a write that is allowed, and its translation is held. R341: of a DET window's entries the one of lowest key is performed,
once held HOLD cycles or with the window full. Where memory is written no snapshot is active, and of a logged or replayed access nothing is said. -/
def Obligations.JobAndMemoryHappenings : Prop :=
  ∀ (s : State) (core job idx site asid : Nat) (j : Job), s.canonical →
    let quiet : Prop := ∀ i, (s.die i).snap = none
    let tg := s.tag core j.tag
    let waiting := s.warps.any fun p => p.1 / 16 = core && s.goesOn p.2 && p.2.threads.any (stalledOn j.tag)
    let lowered (t : State) (code : Nat) : Prop :=
      let err := if code ≠ 0 ∧ (tg.err = 0 ∨ j.id < tg.errOrder) then code else tg.err
      (t.core core).jobs = (s.core core).jobs.filter (fun x => x.id ≠ j.id) ∧
      (2 ≤ tg.count → (t.tag core j.tag).count = tg.count - 1 ∧ (t.tag core j.tag).pend = tg.pend ∧ (t.tag core j.tag).err = err ∧ t.warps = s.warps) ∧
      (tg.count ≤ 1 → waiting = false → (t.tag core j.tag).count = 0 ∧ (t.tag core j.tag).pend = true ∧ (t.tag core j.tag).err = err ∧ t.warps = s.warps) ∧
      (tg.count ≤ 1 → waiting = true → (t.tag core j.tag).count = 0 ∧ (t.tag core j.tag).pend = false ∧ (t.tag core j.tag).err = 0 ∧
        ∀ k w, s.warps.get? k = some w → k / 16 = core →
          t.warps.get? k = some (if s.goesOn w then { w with threads := w.threads.map fun u => if stalledOn j.tag u then { u with cwait := some (j.tag, some err) } else u } else w))
    ((s.core core).jobs.find? (fun x => x.id = job) = some j → s.mayStart core j = true →
      (∀ x ∈ (s.core core).jobs, s.mayStart core x = true → servedBefore x j = false) → (s.die (siteOf core)).pins.length + j.globals.length ≤ 1024 →
      (∀ s1 ps, s.pinPages core j.asid j.pageList [] = (s1, .ok ps) → s1.constOver j = false →
        Answers (.jobStart core job) s fun t => t = { s1 with cores := t.cores, dies := t.dies } ∧
          (t.core core).jobs = ((s.core core).jobs.map fun x => if x.id = j.id then { x with started := true, pages := ps } else x) ∧
          (t.die (siteOf core)).pins = (s1.die (siteOf core)).pins ++
            j.globals.map fun r => { asid := j.asid, lo := r.lo, len := r.len, job := some (core, j.id), lseq := j.owner.lseq }) ∧
      (∀ s1 ps, s.pinPages core j.asid j.pageList [] = (s1, .ok ps) → s1.constOver j = true → Answers (.jobStart core job) s fun t => lowered t evAddrUnmapped) ∧
      ∀ s1 e, s.pinPages core j.asid j.pageList [] = (s1, .error e) → Answers (.jobStart core job) s fun t => lowered t e.1) ∧
    ((s.core core).jobs.find? (fun x => x.id = job && x.started) = some j → j.declared = false →
      ∀ dst len size pat, j.op = .fill dst len size pat →
        let byte (i : Nat) : Byte := (pat >>> (8 * (i % size))).setWidth 8
        (dst.space = .scratch → (s.wgs.get? dst.wg).isSome = true → Answers (.jobComplete core job) s fun t => lowered t 0 ∧ t.mem = s.mem ∧ t.hostMem = s.hostMem ∧
          ∀ k o, cellGet (t.wg k).scratch o = if k = dst.wg ∧ dst.addr ≤ o ∧ o < dst.addr + len then byte (o - dst.addr) else cellGet (s.wg k).scratch o) ∧
        (∀ x, dst.space = .global → quiet → j.pinned false dst.addr = some x → dst.addr % 65536 + len ≤ 65536 → (∀ i < len, deviceByte (x.pa + i) = true) →
          Answers (.jobComplete core job) s fun t => lowered t 0 ∧ t.hostMem = s.hostMem ∧ t.wgs = s.wgs ∧
            ∀ a, t.byte a = if x.pa ≤ a ∧ a < x.pa + len then byte (a - x.pa) else s.byte a)) ∧
    (∀ o r, (s.core core).tileOps = o :: r → o.due ≤ s.cycle → Answers (.tileOpComplete core) s fun t => t = { s with cores := t.cores } ∧
      t.core core = { s.core core with tileOps := r } ∧ ∀ k, k ≠ core → t.core k = s.core k) ∧
    (∀ e, (s.core core).scaleq[idx]? = some e → Answers (.scaleEntryArrival core idx) s fun t => t = { s with cores := t.cores } ∧
      t.core core = { s.core core with scaleq := (s.core core).scaleq.set idx { e with arrived := true } } ∧ ∀ k, k ≠ core → t.core k = s.core k) ∧
    (∀ e, (s.core core).hold[idx]? = some e → s.mayPublish core e = true → e.logged = none → quiet → (∀ i, (s.die i).det = []) →
      (e.pl.host = true ∨ (s.die (siteOfPa (e.pl.line * 128))).enabled = true ∧ s.logMode (siteOf core) e.owner.asid e.owner.lseq ≠ 2) →
      let new (x : Nat) : Option Byte := ((e.bytes.reverse.find? fun b => e.pl.line * 128 + b.1 = x).map fun b => b.2.1)
      Answers (.sliceWrite core idx) s fun t => t = { s with cores := t.cores, dies := t.dies, mem := t.mem, hostMem := t.hostMem, poison := t.poison } ∧
        t.core core = { s.core core with hold := (s.core core).hold.eraseIdx idx, l1 := if e.pl.host then (s.core core).l1 else (s.core core).l1.del e.pl.line } ∧
        (∀ x, t.byte x = if e.pl.host || !deviceByte x then s.byte x else (new x).getD (s.byte x)) ∧
        ∀ x, cellGet t.hostMem x = if e.pl.host then (new x).getD (cellGet s.hostMem x) else cellGet s.hostMem x) ∧
    (∀ (va : W64) x, (s.loadedOn asid).head? = some site → s.translate site (site * 4) asid false va.toNat false = .ok x →
      let h := siteOfPa x.pa
      (s.die h).enabled = true → x.nc = false → (s.die h).tags.get? (lineOf x.pa) = none → (∀ i < 128, s.byte (x.pa / 128 * 128 + i) = 0) →
      (∃ d, (s.die h).takeTag (lineOf x.pa) x.dom = some d) →
      Answers (.lineFill asid va) s fun t => t = { s with dies := t.dies } ∧ (∀ i, i ≠ h → t.die i = s.die i) ∧
        ∃ g, (t.die h).tags.get? (lineOf x.pa) = some g ∧ g.dom = x.dom ∧ g.entry = none ∧ g.dirty = none) ∧
    (∀ (host write : Bool) (va : W64) at_ pte log2, ((s.die (siteOf core)).ctx? asid).isSome = true → va.toNat < 2 ^ 57 → quiet →
      let w := s.walk (siteOf core) asid host va.toNat
      w.2 = .leaf at_ pte log2 → (∀ q ∈ w.1, deviceByte q = true) →
      Answers (.pageWalk core asid host va write) s fun t =>
        t = { s with clusters := t.clusters, dies := t.dies, mem := t.mem, poison := t.poison } ∧
        (∀ q ∈ w.1, (t.byte q).getLsbD 5 = true) ∧ (write = true → pte.getLsbD 2 = true → host = true ∨ pte.getLsbD 3 = false → (t.byte at_).getLsbD 6 = true) ∧
        (∀ x, x ∉ w.1 → t.byte x = s.byte x) ∧
        ∃ e, (t.cluster (clusterOf core)).tlb.getLast? = some e ∧ e.holds asid host va.toNat = true ∧ e.frame = pteAddr pte ∧ e.log2 = log2 ∧ e.w = pte.getLsbD 2) ∧
    (∀ (slice : Nat) (h : HomeOp) (w : Warp),
      let d := s.die site
      let win := d.det.filter fun x => x.det && homeSlice x.pa = slice
      let n := Nat.max 1 h.ty.bytes
      let old : W64 := BitVec.ofNat 64 (leOf n fun i => if h.host then cellGet s.hostMem (h.pa + i) else s.byte (h.pa + i))
      h ∈ win → (∀ x ∈ win, x ≠ h → h.before x = true) → (256 ≤ win.length ∨ h.arrive + Nat.max 64 (d.detcfg.toNat % 65536) ≤ s.cycle) → s.mayPerform h = true →
      (∀ x ∈ d.det, x.det = true) → (∀ i, i ≠ site → (s.die i).det = []) → quiet → h.log = none → h.watch = [] → h.seq = none →
      s.warps.get? (wkey h.core h.slot) = some w → w.name = h.owner →
      Answers (.detWindowRelease site slice) s fun t =>
        t = { s with warps := t.warps, cores := t.cores, dies := t.dies, mem := t.mem, hostMem := t.hostMem, poison := t.poison } ∧
        (t.die site).det = removeOp h d.det ∧ (h.host = true → t.mem = s.mem) ∧ (h.host = false → t.hostMem = s.hostMem) ∧
        t.warps = s.warps.set (wkey h.core h.slot) (w.modThread h.lane fun u => { u with home := some (some old) }) ∧
        ∀ x, (if h.host then cellGet t.hostMem x else t.byte x) =
          (if h.pa ≤ x ∧ x < h.pa + n ∧ (h.host = true ∨ deviceByte x = true) then
            (match strongNew h.instr h.ty old h.v h.cmp with
             | some y => BitVec.ofNat 8 (y.toNat / 256 ^ (x - h.pa))
             | none => if h.host then cellGet s.hostMem x else s.byte x)
           else if h.host then cellGet s.hostMem x else s.byte x))

/-! ## Happenings of the fault queue, of invalidation and of snapshots -/

/-- R317: the first fault of a page posts a record of four words with the count of waiting warps, and each of them is counted by it; a later fault joins the record; with the queue disabled the fault becomes its event.
R316: a retry sends the waiting warp to its region heads with an acquire; a failure raises ADDR_UNMAPPED or ADDR_PERM at the faulting address; an answer for no record is ignored. R314: an invalidation removes the TLB and micro-TLB entries and the L1 lines it covers, those of bytes stored through it too, and GO
falls once nothing stored or issued through them is under way and no pin is left. R321: an armed snapshot has its bitmaps clear and COMMIT one above STEP; a bad table sets ERR (NFR out of range, or an entry that is no
frame, by the model's choice, log 38). R322: a background copy makes the destination line equal to the source and sets its bit; with
every line copied and clean COMMIT takes STEP. -/
def Obligations.FaultQueueInvalidationAndSnapshots : Prop :=
  ∀ (s : State) (site core slot : Nat) (w : Warp) (v : W64), s.canonical →
    let d := s.die site
    let key := wkey core slot
    let quiet : Prop := ∀ i, (s.die i).snap = none
    (∀ vpage kind a sp, s.warps.get? key = some w → siteOf core = site → slot < 16 → w.pageOf = some (vpage, kind, a, sp, false) →
      let ws := s.pageWaiters site w.asid vpage false
      let known := d.faults.any fun f => f.asid = w.asid && f.vpage = vpage
      let n := 2 ^ (d.fqCfg.toNat % 32)
      let at_ := d.fqBase.toNat / 4096 % 2 ^ 52 * 4096 + 32 * (d.fqHead % n)
      let counted (t : State) : Prop := ∀ p ∈ ws, t.warps.get? p.1 = some p.2.joinRecord
      (s.dpage site w.asid = true → known = true → Answers (.faultRecordPost core slot) s fun t => t = { s with warps := t.warps } ∧ counted t) ∧
      (s.dpage site w.asid = true → known = false → (d.fqHead + 2 ^ 32 - d.fqTail) % 2 ^ 32 < n → quiet → (∀ i < 32, deviceByte (at_ + i) = true) →
        Answers (.faultRecordPost core slot) s fun t => counted t ∧ t.hostMem = s.hostMem ∧ t.wgs = s.wgs ∧
          (∀ x, (x < at_ ∨ at_ + 32 ≤ x) → t.byte x = s.byte x) ∧ t.word64 at_ = BitVec.ofNat 64 (vpage % 2 ^ 41 * 65536 + kind) ∧
          t.word64 (at_ + 8) = BitVec.ofNat 64 (w.asid * 2 ^ 32 + Nat.min 65535 ws.length) ∧ t.word64 (at_ + 16) = BitVec.ofNat 64 d.fseq ∧
          t.word64 (at_ + 24) = BitVec.ofNat 64 (w.lseq % 2 ^ 32 * 2 ^ 32 + w.tidx % 2 ^ 32) ∧
          (t.die site).fqHead = (d.fqHead + 1) % 2 ^ 32 ∧ (t.die site).fseq = d.fseq + 1 ∧ (t.die site).faults = d.faults ++ [{ asid := w.asid, vpage := vpage }]) ∧
      (s.dpage site w.asid = false → Answers (.faultRecordPost core slot) s fun t => t = { s with warps := t.warps } ∧ ∃ w' ev, t.warps = s.warps.set key w' ∧
        w'.event = some ev ∧ ev.code = (if kind = 2 then evAddrPerm else evAddrUnmapped) ∧ ev.faddr = a)) ∧
    (let asid := v.toNat / 2 ^ 32 % 2 ^ 16
     let vpage := d.fqRespVa.toNat / 65536 % 2 ^ 41
     let known := d.faults.any fun r => r.asid = asid && r.vpage = vpage
     (known = false → (v.toNat % 4 = 1 → exec (.faultRetry site v) s = .next s) ∧ (v.toNat % 4 = 2 → exec (.faultFail site v) s = .next s)) ∧
     (known = true → s.pageWaiters site asid vpage true = [(key, w)] → slot < 16 →
       let answered (t : State) : Prop := ∃ w', t.warps = s.warps.set key w' ∧ t.mem = s.mem ∧ t.wgs = s.wgs ∧
         (t.die site).faults = d.faults.filter fun r => !(r.asid = asid && r.vpage = vpage)
       (v.toNat % 4 = 1 → w.pendingRestart = none → w.midEffect = false → Answers (.faultRetry site v) s fun t => answered t ∧ (t.core core).l1 = [] ∧
         ∃ w', t.warps.get? key = some w' ∧ ∀ u ∈ w'.threads, u.live = true → u.halted = false → u.pc = u.ck.pc ∧ u.vals = u.ck.vals ∧ u.stack = u.ck.stack ∧ u.wait = u.ck.wait) ∧
       ∀ k a sp, v.toNat % 4 = 2 → w.pageOf = some (vpage, k, a, sp, true) → Answers (.faultFail site v) s fun t => answered t ∧
         ∃ w' ev, t.warps.get? key = some w' ∧ w'.event = some ev ∧ ev.code = (if k = 2 then evAddrPerm else evAddrUnmapped) ∧ ev.faddr = a ∧
           ev.precise = !w.refilling)) ∧
    (d.tlbCtl.getLsbD 0 = false → v.getLsbD 0 = true → v.getLsbD 3 = false →
      let ctl := v &&& 0x0000FFFFFFFF000F#64
      let r := ({ d with tlbCtl := ctl } : Die).invRange
      let gone (e : TlbEntry) : Bool := r.covers e.asid (e.base * 2 ^ e.log2) (2 ^ e.log2)
      let old (k : Nat) (ln : Nat) : Bool := (s.core k).hold.any fun e => !e.pl.host && e.pl.line = ln && r.held e
      Answers (.tlbInvalidate site v) s fun t => t = { s with dies := t.dies, clusters := t.clusters, cores := t.cores } ∧ (t.die site).tlbCtl = ctl ∧
        (∀ cl, (t.cluster cl).tlb = if cl / 4 = site then (s.cluster cl).tlb.filter fun e => !gone e else (s.cluster cl).tlb) ∧
        ∀ k, (t.core k).utlb = (if siteOf k = site then (s.core k).utlb.filter fun e => !gone e else (s.core k).utlb) ∧
          (t.core k).l1 = if siteOf k = site then (s.core k).l1.filter fun l => !(r.covers l.2.asid l.2.va 128 || old k l.1) else (s.core k).l1) ∧
    (let r := d.invRange
     d.tlbCtl.getLsbD 0 = true → (∀ k ∈ s.cores, siteOf k.1 = site → ∀ e ∈ k.2.hold, r.held e = true → e.phase = none) →
     (∀ x ∈ s.dies, ∀ h ∈ x.2.det, siteOf h.core = site → r.covers h.owner.asid h.va 8 = false) → (∀ p ∈ d.pins, r.covers p.asid p.lo p.len = false) →
     Answers (.tlbInvalidateComplete site) s fun t => t = { s with dies := t.dies } ∧ t.die site = { d with tlbCtl := d.tlbCtl &&& ~~~1#64 } ∧ ∀ i, i ≠ site → t.die i = s.die i) ∧
    (let n := v.toNat / 2 ^ 32 % 2 ^ 32
     let es := s.snapEntries d.snapBase n
     v.getLsbD 0 = true → d.snapActive = false → n ≤ 3145728 →
     (frameTableOk site es = false → Answers (.snapshotArm site v) s fun t => t = { s with dies := t.dies } ∧ (t.die site).snapCtl.getLsbD 3 = true ∧ (t.die site).snap = d.snap) ∧
     (frameTableOk site es = true → quiet → (∀ i < 128 + 80 * n, deviceByte (d.snapBase + i) = true) → Answers (.snapshotArm site v) s fun t =>
       (t.die site).snap.map (fun x => (x.frames, x.copied)) = some (es, []) ∧ (t.die site).snapActive = true ∧ (t.die site).snapCtl.getLsbD 3 = false ∧ t.warps = s.warps ∧ t.wgs = s.wgs ∧
       t.word64 (d.snapBase + 88) = d.snapStep + 1 ∧ ∀ i < 64 * n, t.byte (d.snapBase + 128 + 16 * n + i) = 0)) ∧
    ∀ (frame line src dst : Nat) (sn : Snapshot), d.snap = some sn → sn.frames[frame]? = some (src, dst) → line < 512 →
      let bit_ := snapBitPa d sn.frames.length frame line
      (sn.copied.contains (frame, line) = false → src % 65536 = 0 → dst % 65536 = 0 → (∀ i < 65536, deviceByte (dst + i) = true) → deviceByte bit_ = true →
        (bit_ < dst ∨ dst + 65536 ≤ bit_) → Answers (.snapshotBackgroundCopy site frame line) s fun t =>
          t = { s with dies := t.dies, mem := t.mem, poison := t.poison } ∧ (t.die site).snap = some { sn with copied := (frame, line) :: sn.copied } ∧
          (∀ i < 128, t.byte (dst + 128 * line + i) = s.byte (src + 128 * line + i)) ∧ (t.byte bit_).getLsbD (line % 8) = true ∧
          ∀ x, (x < dst + 128 * line ∨ dst + 128 * line + 128 ≤ x) → x ≠ bit_ → t.byte x = s.byte x) ∧
      (sn.copied.contains (frame, line) = true → sn.frames.length * 512 ≤ sn.copied.length → sn.pending? (lineOf (d.snapBase + 88)) = none →
        (∀ f ∈ sn.frames, ∀ k < 512, ∀ g, d.tags.get? (f.2 / 128 + k) = some g → g.dirty = none ∨ f.2 / 128 + k = dst / 128 + line) →
        d.snapBase % 4096 = 0 → (∀ i < 8, deviceByte (d.snapBase + 88 + i) = true) → siteOfPa (d.snapBase + 88) = site → Answers (.snapshotBackgroundCopy site frame line) s fun t =>
          t.word64 (d.snapBase + 88) = d.snapStep ∧ (t.die site).snap = none ∧ (t.die site).snapActive = false ∧ (t.die site).snapCtl.getLsbD 2 = true ∧ t.warps = s.warps)

/-! ## Happenings of faults, of the debug window, of errors and of resets -/

/-- R375, R376: once the unit's jobs and the warp's accesses have drained, outside the span of R127, the frame is taken: the event's code, number, precision, address and lanes, the warp's launch and unit; the frame area keeps it with VALID clear,
and a step that one of its slots did not complete is undone (R76). R379: a frame is halted for an attached debugger, else given to a covering handler (whose threads start at its entry with the code, the number and the address), else dumped or its warp
ends and the launch faults with the code. R381: at a handler's return, action 0 restarts the threads at their committed heads with an acquire, or later where another group of the warp has an access at its home, and action 1 skips the instruction, a
value defined there being zero. R396, R397: a dump tells the events raised before it from later ones, and when its scope has drained, the scope's warps end and the launch faults. R382, R383: the window reads and writes a live value of a stopped thread,
its checkpoint slot with it where the committed region holds it, refuses a dead value (1), another tag (3) and a constant (4), reads the control words, and resumes a group; R385: detaching resumes the halted groups. -/
def Obligations.FaultAndDebugHappenings : Prop :=
  ∀ (s : State) (core slot : Nat) (w : Warp), s.canonical → slot < 16 →
    let key := wkey core slot
    let site := siteOf core
    let f := w.frame
    let at_ (t : State) (P : Warp → Prop) : Prop := ∃ w', t.warps.get? key = some w' ∧ P w'
    let faulted (t : State) (code : Nat) : Prop := ∀ l, s.launch? w.asid w.lseq = some l → l.status = 0 → l.done = false →
      ∃ l', t.launch? w.asid w.lseq = some l' ∧ l'.status = 3 ∧ l'.code = code
    s.warps.get? key = some w →
    (∀ e, w.event = some e → w.framed = false →
      (if (s.wg w.wg).dumping.isSome then e.early = true ∧ s.drained (s.unitWgs w.wg) = true else s.warpDrained w = true ∧ (w.inSpan = true → w.ready w.turn = false)) →
      Answers (.faultFrame core slot) s fun t => t = { s with warps := t.warps, cores := t.cores, freeCtr := t.freeCtr } ∧ ∃ g : FFrame,
        t.warps = s.warps.set key { w.undoStep (laneIn e.glanes) with frame := g, event := none } ∧ g.length = 16 ∧ (g.getD 0 0).getLsbD 45 = true ∧ frCode g = e.code % 256 ∧ frQual g = e.qual % 65536 ∧
        frPrecise g = e.precise ∧ g.getD 1 0 = BitVec.ofNat 64 w.lseq ∧ g.getD 2 0 = BitVec.ofNat 64 w.tidx ∧ g.getD 11 0 = e.faddr ∧
        g.getD 12 0 = e.flanes.setWidth 64 ∧ g.getD 13 0 = (e.flanes >>> 64).setWidth 64 ∧ g.getD 14 0 = e.glanes.setWidth 64 ∧ g.getD 15 0 = (e.glanes >>> 64).setWidth 64 ∧
        ∃ h, (t.core core).frames.get? slot = some h ∧ h.drop 1 = g.drop 1 ∧ (h.getD 0 0).getLsbD 45 = false) ∧
    (w.framed = true → (s.wg w.wg).dumping = none → frCode f ≠ evGangLost →
      let halts := s.attached site w.asid && s.haltsOn site w.asid (frCode f) && !(frCode f = evUncorrectable && (frQual f = 3 || frQual f = 5))
      let c := s.cxFor { core := core, slot := slot } w
      let became (g : Thread → Thread) (t : State) : Prop := t = { s with warps := t.warps } ∧ at_ t fun w' => w'.framed = false ∧
        w'.threads.map Thread.view = w.threads.map fun u => (if u.live && (frLanes f).contains u.lane then g u else u).view
      (halts = true → Answers (.disposition core slot) s (became fun u => { u with halted := true, frame := f })) ∧
      (halts = false → ∀ h, s.handlerFor site w f = some h → Answers (.disposition core slot) s (became fun u =>
        { u with handler := some { pc := u.pc, vals := u.vals, stack := u.stack, sb := u.sb, ck := u.ck, wait := u.wait, nat := u.nat
                                   regs := w.native.regs.filter fun p => 40960 ≤ p.1 || p.1 % 128 = u.lane }
                 frame := f, pc := { fsym := h, pix := 0 }, nat := {}
                 vals := [(0, mkVal tyB32 (BitVec.ofNat 64 (frCode f))), (1, mkVal tyB32 (BitVec.ofNat 64 (frQual f))), (2, mkVal tyB64 (frFaddr f))], stack := []
                 sb := u.sb + c.nspill (w.stopPoint f).fsym, wait := .none })) ∧
      (halts = false → s.handlerFor site w f = none → s.dumps site w.asid = false → Answers (.disposition core slot) s fun t => t.warps.get? key = none ∧ faulted t (frCode f)) ∧
      (halts = false → s.handlerFor site w f = none → s.dumps site w.asid = true → Answers (.disposition core slot) s fun t => t = { s with warps := t.warps, wgs := t.wgs } ∧
        let scope := s.dumpScope core w.asid w.lseq
        (∀ k, t.warps.get? k = (s.warps.get? k).map fun x => if x.wg ∈ scope then { x with event := x.event.map fun e => { e with early := true } } else x) ∧
        ∀ k, t.wg k = if k ∈ scope then { s.wg k with dumping := some (slot, s.cycle) } else s.wg k)) ∧
    ((w.threads.map Thread.lane).Nodup →
      let ts := w.threads.filter fun u => u.live && u.handler.isSome
      let returns (a : W64) : Prop := ts ≠ [] ∧ (∀ u ∈ ts, u.handler.bind HandlerSave.action = some a) ∧ ∃ g, ∀ u ∈ ts, u.frame = g ∧ (frLanes g).contains u.lane = true ∧
        (a = 1 → frPrecise g = true ∧ frCode g ≠ evUnreachable)
      (returns 0 → w.midEffect = true → Answers (.handlerReturn core slot) s fun t => t = { s with warps := t.warps } ∧ at_ t fun w' => w'.pendingRestart.isSome = true) ∧
      (returns 0 → w.midEffect = false → Answers (.handlerReturn core slot) s fun t => (t.core core).l1 = [] ∧ t.mem = s.mem ∧ t.wgs = s.wgs ∧ at_ t fun w' =>
        ∀ u ∈ ts, ∀ h, u.handler = some h → ∃ u' ∈ w'.threads, u'.lane = u.lane ∧ u'.handler = none ∧ u'.pc = h.ck.pc ∧ u'.vals = h.ck.vals ∧ u'.stack = h.ck.stack ∧ u'.wait = h.ck.wait) ∧
      (returns 1 → Answers (.handlerReturn core slot) s fun t => t = { s with warps := t.warps } ∧ at_ t fun w' =>
        ∀ u ∈ ts, ∀ h, u.handler = some h → h.wait.past = false → h.nat.at_ = [] → ∀ fn n i, moduleFunc (s.moduleWords w.modIdx) h.pc.fsym = some fn → instrAt fn.blocks h.pc.pix = some (n, i) →
          ∃ u' ∈ w'.threads, u'.lane = u.lane ∧ u'.handler = none ∧ u'.pc = h.pc.succ ∧ u'.wait = .none ∧ u'.stack = h.stack ∧
            ∀ v, (u'.vals.get? v).map Val.bits = if v = n ∧ (instrDefTy i).isSome then some 0 else (h.vals.get? v).map Val.bits)) ∧
    (∀ since, (s.wg w.wg).dumping = some (slot, since) →
      let keys := (s.dumpScope core w.asid w.lseq).filter fun k => (s.wg k).dumping = some (slot, since)
      s.drained keys = true → (∀ p ∈ s.warpsOf keys, p.2.event.any Event.early = false ∧ ∀ u ∈ p.2.threads, u.live = true → u.home = none) →
      Answers (.coreDump core slot) s fun t => (∀ q ∈ t.warps, q.2.wg ∉ keys) ∧ (∀ k ∈ keys, (t.wg k).dumping = none) ∧ faulted t (frCode f)) ∧
    (∀ (sel : W64) (u : Thread), sel.toNat % 16 = slot → w.thread? (sel.toNat / 16 % 128) = some u → (w.framed = true ∨ u.halted = true) →
      let p := s.planOf core w u.ck.pc.fsym
      let view := s.viewOf core w u
      let v := sel.toNat / 4096 % 2 ^ 24
      let tag := (s.core core).dwAux.setWidth 6
      let done (t : State) (st : W64) : Prop := (t.core core).dwStat = st ∧ (t.core core).dwSel.getLsbD 63 = false
      let refused (st : W64) : Prop := Answers (.dwWriteValue core sel) s fun t => t = { s with cores := t.cores } ∧ done t st
      (∀ x, view.2.1.get? v = some x →
        (Answers (.dwReadValue core sel) s fun t => t = { s with cores := t.cores } ∧ done t 0 ∧ (t.core core).dwData = x.bits ∧ (t.core core).dwAux = x.tag.setWidth 64) ∧
        (s.constVal core w u view.1 v = true → refused 4) ∧ (s.constVal core w u view.1 v = false → x.tag ≠ tag → refused 3) ∧
        (s.constVal core w u view.1 v = false → x.tag = tag →
          let y : Val := { bits := normBits (Ty.ofCode tag) (s.core core).dwData, tag := tag }
          Answers (.dwWriteValue core sel) s fun t => done t 0 ∧ ((s.planOf core w view.1.fsym).spill.get? v = none → t = { s with warps := t.warps, cores := t.cores }) ∧
            at_ t fun w' => w'.threads.map (fun u' => { u' with spilled := [] }) = w.threads.map fun u' => { (if u'.lane = u.lane then
              { u' with vals := if view.2.2 then u'.vals else u'.vals.set v y, ck := if s.heldAtHead core w u v then { u'.ck with vals := u'.ck.vals.set v y } else u'.ck }
              else u') with spilled := [] })) ∧
      (view.2.1.get? v = none → refused 1 ∧ Answers (.dwReadValue core sel) s fun t => t = { s with cores := t.cores } ∧ done t 1 ∧ (t.core core).dwData = 0) ∧
      (Answers (.dwReadControl core sel) s fun t => t = { s with cores := t.cores } ∧ done t 0 ∧
        (t.core core).dwData = BitVec.ofNat 64 (u.bank.toNat * 2 ^ 48 + w.native.pend.toNat * 2 ^ 32 + p.region u.ck.pc.pix % 2 ^ 32) ∧
        ((t.core core).dwAux.getLsbD 31 = w.native.pv ∧ (t.core core).dwAux.extractLsb' 13 6 = BitVec.ofNat 6 u.rbc ∧ (t.core core).dwAux.extractLsb' 32 32 = BitVec.ofNat 32 w.native.preg)) ∧
      ((w.threads.map Thread.lane).Nodup → sel.getLsbD 12 = false → w.midEffect = false → Answers (.dwResume core sel) s fun t => done t 0 ∧ (t.core core).l1 = [] ∧ t.mem = s.mem ∧ at_ t fun w' =>
        ∀ x ∈ w.threads, x.live = true → x.grp = u.grp → ∃ x' ∈ w'.threads, x'.lane = x.lane ∧ x'.halted = false ∧ x'.pc = x.ck.pc ∧ x'.vals = x.ck.vals ∧ x'.wait = x.ck.wait)) ∧
    ∀ (vf : Nat) (ctl : W64), let v := (s.die site).vfs.get {} vf
      Answers (.debugDetach site vf ctl) s fun t => (t.die site).vfs.get {} vf = { v with dbgCtl := ctl &&& 3 } ∧ t.mem = s.mem ∧
        ((ctl.getLsbD 0 = true ∨ v.bound = false) → t = { s with dies := t.dies }) ∧
        ∀ c, ctl.getLsbD 0 = false → v.bound = true → (s.die site).ctxs.get? v.slot = some c → ∀ k w', t.warps.get? k = some w' → siteOf (k / 16) = site →
          w'.asid = descAsid c.words → ∀ u ∈ w'.threads, u.live = true → u.handler.bind HandlerSave.action = none → u.halted = false

/-- R392: an error of memory marks its byte, one of a register file restarts the warp and the second stops it, one of a control block stops it, one of an L1 line drops the line. R393: an error of a core's storage takes the core out of service; the workgroup
reached is stopped and the core's others are named for pre-emption. R394: a die's reset leaves no warp or workgroup on it, its registers at reset, its scrub under way, every TDI in ERROR, its dirty lines as HBM holds them, and cancels the launches
that had work there; enabled again it has left reset. R432: an FLR of the physical function is that reset; of a virtual function it puts a locked or running TDI in ERROR, discards its keys and ends the bound context on the die. -/
def Obligations.ErrorAndResetHappenings : Prop :=
  ∀ (s : State) (core slot site : Nat), s.canonical → slot < 16 →
    let key := wkey core slot
    let d := s.die site
    (∀ pa, deviceByte pa = true → s.poison.contains pa = false → exec (.uncorrectable (.datum pa)) s = .next { s with poison := pa :: s.poison }) ∧
    (∀ w, s.warps.get? key = some w → w.event = none → w.framed = false →
      let all := (w.threads.filter Thread.live).map Thread.lane
      let raised (t : State) (qual : Nat) : Prop := t = { s with
        warps := s.warps.set key { w with event := some ({ code := evUncorrectable, qual := qual, flanes := lanesOf all, glanes := lanesOf w.activeLanes, precise := false } : Event) } }
      (w.regErr = false → w.midEffect = false → Answers (.uncorrectable (.regFile core slot)) s fun t => (t.core core).l1 = [] ∧ t.mem = s.mem ∧ t.wgs = s.wgs ∧ ∃ w', t.warps.get? key = some w' ∧ w'.regErr = true ∧
        ∀ u ∈ w'.threads, u.live = true → u.halted = false → u.pc = u.ck.pc ∧ u.vals = u.ck.vals ∧ u.stack = u.ck.stack ∧ u.wait = u.ck.wait) ∧
      (w.regErr = true → Answers (.uncorrectable (.regFile core slot)) s fun t => raised t 1) ∧
      Answers (.uncorrectable (.ckpt core slot)) s fun t => raised t 3) ∧
    (∀ g, s.wgs.get? (core * 16 + slot) = some g → g.isGang = false → s.losesPad (core * 16 + slot) = false →
      Answers (.uncorrectable (.scratch core slot)) s fun t => t = { s with cores := t.cores, warps := t.warps, agenda := t.agenda } ∧ t.core core = { s.core core with inService := false } ∧
        t.agenda = s.agenda ++ (((s.coreWgs core).filter fun h => some h.1 ≠ some (core * 16 + slot) && !h.2.ended).map fun h => Turn.happen (.preemption (h.1 / 16) (h.1 % 16) .coreError)) ∧
        ∀ k w, s.warps.get? k = some w → if w.wg = core * 16 + slot ∧ w.event = none ∧ w.framed = false
          then ∃ ev, t.warps.get? k = some { w with event := some ev } ∧ ev.code = evUncorrectable ∧ ev.qual = 2 ∧ ev.precise = false else t.warps.get? k = some w) ∧
    (∀ line, Answers (.uncorrectable (.l1 core line)) s fun t => t = { s with cores := t.cores } ∧ (t.core core).l1.get? line = none ∧
      ∀ l, l ≠ line → (t.core core).l1.get? l = (s.core core).l1.get? l) ∧
    (let resets (i : Instr) : Prop := Answers i s fun t => (t.die site).enabled = false ∧ (t.die site).scrubbing = true ∧ (t.die site).resetAt = s.cycle ∧ (t.die site).ctxs = [] ∧
       (t.die site).hq = [] ∧ (∀ v, 0 < v → v < 256 → ((t.die site).vfs.get {} v).tdi = .error) ∧ (∀ q ∈ t.warps, siteOf (q.1 / 16) ≠ site) ∧ (∀ q ∈ t.wgs, siteOf (q.1 / 16) ≠ site) ∧
       (∀ l, s.launch? l.asid l.lseq = some l → l.status = 0 → s.onDie site false l = true → ∃ l', t.launch? l.asid l.lseq = some l' ∧ l'.status = 4 ∧ l'.code = evDieReset) ∧
       ∀ ln g bs, d.ctxs = [] → s.launches = [] → (∀ k ∈ s.cores, k.2.hold = []) → d.det = [] → d.tags = [(ln, g)] → g.dirty = some bs →
         (∀ i < bs.length, deviceByte (ln * 128 + i) = true) → ∀ a, t.byte a = if ln * 128 ≤ a ∧ a < ln * 128 + bs.length then bs.getD (a - ln * 128) 0 else s.byte a
     resets (.dieReset site) ∧ resets (.flrPf site)) ∧
    (d.enabled = false → d.scrubbing = false → s.pkg.safeMode = false → Answers (.dieEnable site) s fun t => t = { s with dies := t.dies, pkg := { s.pkg with pldm := .dieEnabled site :: s.pkg.pldm } } ∧
      t.die site = { d with enabled := true, xbscfg := d.xbscfg ||| 0x100#64, schedcfg := d.schedcfg &&& ~~~0x100000000#64 } ∧ ∀ i, i ≠ site → t.die i = s.die i) ∧
    ∀ vf, let v := d.vfs.get {} vf
      Answers (.flrVf site vf) s fun t =>
        (t.die site).vfs.get {} vf = { v with tdi := if v.tdi = .locked ∨ v.tdi = .run then .error else v.tdi, keys := [] } ∧
        (v.bound = false → t = { s with dies := t.dies }) ∧
        (v.bound = true → (t.die site).ctxs.get? v.slot = none ∨ ∃ c, (t.die site).ctxs.get? v.slot = some c ∧ c.closing = true)

/-! ## Happenings of contexts, of trust and of management -/

/-- R420, R421: CTX_CMD loads a valid descriptor into its slot; each rejection has its own status and changes no context. R423: a teardown with no job under way removes the context, its workgroups and its queues' enables. R424, R425: a save with
no resident unit packs the context's units, walkers, pool entries and landed warps, and writes the save area with its header last, where it fits; a restore of what the die reads back puts them back and clears SAVED. R426: a scrub frees what it cleaned.
R431: LOCK, START and STOP move a TDI through its states, and each of its four keys is accepted inside a session. R429: Beryl answers each request over the measured values, with at most 16 sessions. -/
def Obligations.ContextAndTrustHappenings : Prop :=
  ∀ (s : State) (site slot : Nat), s.canonical → slot < 4096 →
    let d := s.die site
    let quiet : Prop := ∀ i, (s.die i).snap = none
    let status (t : State) (n : Nat) : Prop := (t.die site).ctxCmd.toNat / 2 ^ 48 = n ∧ (t.die site).ctxCmd.toNat % 4096 = slot
    let only (i : Instr) (n : Nat) : Prop := Answers i s fun t => t = { s with dies := t.dies } ∧ t.die site = { d with ctxCmd := (t.die site).ctxCmd } ∧ status t n
    (let ws := (List.range 32).map fun i => s.word64 (d.ctxBase.toNat / 2 ^ 20 % 2 ^ 37 * 2 ^ 20 + 256 * slot + 8 * i)
     let ill := descBad site ws = true ∨ s.descDiffers site (descAsid ws) ws = true
     (d.slotLocked slot = true → only (.ctxLoad site slot) 5) ∧
     (d.slotLocked slot = false → (d.ctxs.get? slot).isSome = true → only (.ctxLoad site slot) 2) ∧
     (d.slotLocked slot = false → d.ctxs.get? slot = none → ill → only (.ctxLoad site slot) 1) ∧
     (d.slotLocked slot = false → d.ctxs.get? slot = none → ¬ ill → (d.ctx? (descAsid ws)).isSome = true → only (.ctxLoad site slot) 3) ∧
     (d.slotLocked slot = false → d.ctxs.get? slot = none → ¬ ill → d.ctx? (descAsid ws) = none → Answers (.ctxLoad site slot) s fun t => t = { s with dies := t.dies } ∧
       t.die site = { d with ctxCmd := (t.die site).ctxCmd, ctxs := d.ctxs.set slot { words := ws.take 21 } } ∧ status t 0)) ∧
    (d.ctxs.get? slot = none → only (.ctxTeardown site slot) 4 ∧ only (.ctxSave site slot) 4 ∧ only (.ctxRestore site slot) 4) ∧
    (∀ c, d.ctxs.get? slot = some c →
      let asid := descAsid c.words
      (d.slotLocked slot = true → (c.closing = false → only (.ctxTeardown site slot) 5) ∧ only (.ctxRestore site slot) 5) ∧
      (d.slotLocked slot = false → (∀ k ∈ s.cores, siteOf k.1 = site → k.2.jobs = [] ∧ k.2.tileOps = [] ∧ k.2.scaleq = []) →
        Answers (.ctxTeardown site slot) s fun t => ((c.closing = true → d.cmdTears slot = true) → status t 0) ∧ (t.die site).ctxs.get? slot = none ∧ (∀ g ∈ t.wgs, siteOf (g.1 / 16) = site → g.2.asid ≠ asid) ∧
          (∀ q h, (t.die site).hq.get? q = some h → h.asid = asid → h.en = false) ∧ (∀ cl, cl / 4 = site → ∀ e ∈ (t.cluster cl).tlb, e.asid ≠ asid)) ∧
      (d.slotLocked slot = false → c.saved = true → d.ctxCmd.getLsbD 63 = false → only (.ctxSave site slot) 6) ∧
      (d.slotLocked slot = false → c.saved = false → d.ctxCmd.getLsbD 63 = false → (∀ g ∈ s.wgs, siteOf (g.1 / 16) = site → g.2.asid ≠ asid) → quiet →
        let base := (c.words.getD 17 0).toNat
        let s2 := ((s.modDie site fun d => { d.modCtx slot (fun c => { c with saved := true }) with
          hq := d.hq.mapVals fun _ q => if q.asid = asid && q.en then { q with savedState := q.shown, state := 3 } else q }).ctxBusy site slot 3).packContext site slot asid
        (∀ i < 8, deviceByte (base + i) = true) →
        ∀ c2, (s2.die site).ctxs.get? slot = some c2 → (s2.saveImage site asid c2).total ≤ (c.words.getD 18 0).toNat →
          Answers (.ctxSave site slot) s fun t => status t 0 ∧ t.word64 base = 0x3130455641534B4B#64 ∧
            (t.die site).resume = d.resume.filter (fun u => u.asid ≠ asid) ∧ (t.die site).parked = d.parked.filter (fun u => u.asid ≠ asid) ∧
            (t.die site).pool = d.pool.filter (fun e => e.asid ≠ asid) ∧ ∃ c3, (t.die site).ctxs.get? slot = some c3 ∧ c3.saved = true ∧
              c3.saveUnits = (d.resume ++ d.parked).filter (fun u => u.asid = asid) ∧ c3.savedPool = d.pool.filter fun e => e.asid = asid) ∧
      (d.slotLocked slot = false → (c.saved = false ∨ c.closing = true) → only (.ctxRestore site slot) 7) ∧
      (d.slotLocked slot = false → c.saved = true → c.closing = false → s.restoreOk site asid c = false → only (.ctxRestore site slot) 8) ∧
      (d.slotLocked slot = false → c.saved = true → c.closing = false → s.restoreOk site asid c = true → d.ctx? asid = some (slot, c) → quiet → deviceByte ((c.words.getD 17 0).toNat + 12) = true →
        Answers (.ctxRestore site slot) s fun t => status t 0 ∧ t.byte ((c.words.getD 17 0).toNat + 12) = 0 ∧
          (t.die site).resume = d.resume ++ c.saveUnits.filter (fun u => !u.parked) ∧ (t.die site).parked = d.parked ++ c.saveUnits.filter SavedUnit.parked ∧
          (t.die site).pool = d.pool ++ c.savedPool ∧ ∃ c3, (t.die site).ctxs.get? slot = some c3 ∧ c3.saved = false ∧ c3.saveUnits = [] ∧ c3.words = c.words)) ∧
    (∀ core n, (Answers (.scrubComplete (.scratch core n)) s fun t => t = { s with cores := t.cores } ∧ (t.core core).scrubScratch.get? n = none) ∧
      (Answers (.scrubComplete (.warpSlot core n)) s fun t => t = { s with cores := t.cores } ∧ n ∉ (t.core core).scrubSlots) ∧
      Answers (.scrubComplete (.die site)) s fun t => t = { s with dies := t.dies } ∧ t.die site = { d with scrubbing := false }) ∧
    (∀ vf key,
      let v := d.vfs.get {} vf
      let vfs (i : Instr) (v' : VFunc) : Prop := exec i s = .next { s with dies := s.dies.set site { d with vfs := d.vfs.set vf v' } }
      (0 < vf → vf < 256 → v.tdi = .unlocked → vfs (.lockInterface site vf) { v with tdi := .locked }) ∧ (v.tdi ≠ .unlocked → exec (.lockInterface site vf) s = .next s) ∧
      (v.tdi = .locked → vfs (.startInterface site vf) { v with tdi := .run }) ∧ (v.tdi ≠ .locked → exec (.startInterface site vf) s = .next s) ∧
      (v.tdi ≠ .unlocked → vfs (.stopInterface site vf) { v with tdi := .unlocked, keys := [] }) ∧ (v.tdi = .unlocked → exec (.stopInterface site vf) s = .next s) ∧
      (0 < vf → vf < 256 → key < 4 → s.pkg.sessions ≠ 0 → v.tdi ≠ .error → key ∉ v.keys → vfs (.ideKmKey site vf key) { v with keys := v.keys ++ [key] }) ∧
      (s.pkg.sessions = 0 → exec (.ideKmKey site vf key) s = .next s)) ∧
    ∀ req,
      let answered (kind sessions : Nat) : Host.Outcome State Fault Refusal :=
        .next { s with pkg := { s.pkg with answer := Config.beryl kind (req ++ s.measuredBytes), sessions := sessions } }
      exec (.spdmGetMeasurements req) s = answered 1 s.pkg.sessions ∧ exec (.spdmGetCertificate req) s = answered 2 s.pkg.sessions ∧
      exec (.spdmChallenge req) s = answered 3 s.pkg.sessions ∧
      exec (.spdmKeyExchange req) s = if s.pkg.sessions < 16 then answered 4 (s.pkg.sessions + 1) else answered 5 s.pkg.sessions

/-- R6: a field written reads back, reserved bits and read-only registers ignore the write; FAIRT leaves the turn under way its interval (R182), FQ_RESPVA reads 0. R440: the power limit, the stored image, a sensor's answer. R435: a kick takes LIMIT and restarts the count; after LIMIT cycles the watchdog fires, sets FIRED, recovers odd control
blocks, has a packet read and not started read again (R434), and reports. R436: a corrected error is counted, and THRESH within the window raise the warning. R437: RESTORE finds no context (3), a launch that runs (1), disagreeing shards (2), or copies every frame back (0) and drops the context's L1 lines.
R427: a boot of a right package starts it anew, memory kept (the model's choice, log 22); a wrong one is held in safe mode. R438: a port trains once. R367: a core returned is in service.
(Sensors' numbers are log 14's choice, values at reset that firmware loads log 4's.) -/
def Obligations.ManagementHappenings : Prop :=
  ∀ (s : State) (site core vf : Nat) (v : W64), s.canonical →
    let d := s.die site
    let pkg (i : Instr) (p : Pkg) : Prop := exec i s = .next { s with pkg := p }
    let dieIs (i : Instr) (d' : Die) : Prop := exec i s = .next { s with dies := s.dies.set site d' }
    (∀ n, (1000 ≤ n → n ≤ 3400 → pkg (.pldmPowerLimit n) { s.pkg with powerLimit := n }) ∧ ((n < 1000 ∨ 3400 < n) → exec (.pldmPowerLimit n) s = .next s)) ∧
    (∀ image, pkg (.pldmFirmwareUpdate image) { s.pkg with nextImage := some image }) ∧
    (∀ n, Answers (.pldmSensorRead n) s fun t => t = { s with pkg := { s.pkg with answer := t.pkg.answer }, freeCtr := s.freeCtr + 1 } ∧ t.pkg.answer.length = 4 ∧
      (8 ≤ n → n < 12 → (s.die (n - 8)).cerrs.length < 2 ^ 32 → leNat t.pkg.answer = (s.die (n - 8)).cerrs.length) ∧
      (12 ≤ n → n < 16 → leNat t.pkg.answer = if (s.die (n - 12)).fwwdt.getLsbD 32 then 1 else 0) ∧ (16 ≤ n → leNat t.pkg.answer = if s.pkg.topologyOk then 0 else 1)) ∧
    dieIs (.fwwdtKick site v) { d with fwwdt := (v &&& 0xFFFFFFFF#64) ||| (if v.getLsbD 32 then 0 else d.fwwdt &&& 0x100000000#64), fwKickAt := s.cycle } ∧
    (let limit := if d.fwwdt.toNat % 2 ^ 32 = 0 then 600000 else d.fwwdt.toNat % 2 ^ 32
     (d.fwKickAt + limit ≤ s.cycle → exec (.fwwdtFire site) s = .next { s with
        dies := s.dies.set site { d with fwwdt := d.fwwdt ||| 0x100000000#64, fwKickAt := s.cycle, qctl := d.qctl.map fun c => (c.1, if c.2.seq % 2 = 1 then { c.2 with seq := c.2.image } else c.2), hq := d.hq.map fun q => (q.1, { q.2 with packet := none }) }
        pkg := { s.pkg with pldm := .watchdog site :: s.pkg.pldm } }) ∧
     (s.cycle < d.fwKickAt + limit → exec (.fwwdtFire site) s = .next s)) ∧
    (let thresh := if d.cerrCfg.toNat / 2 ^ 32 % 2 ^ 16 = 0 then 64 else d.cerrCfg.toNat / 2 ^ 32 % 2 ^ 16
     let es := (d.cerrs.filter fun a => s.cycle ≤ a + d.cerrCfg.toNat % 2 ^ 32 * 600) ++ [s.cycle]
     (es.length < thresh → dieIs (.correctedError site) { d with cerrs := es }) ∧
     (thresh ≤ es.length → Answers (.correctedError site) s fun t => (t.die site).cerrs = [] ∧ t.pkg = { s.pkg with pldm := .failureWarning site :: s.pkg.pldm } ∧ t.warps = s.warps ∧ t.wgs = s.wgs)) ∧
    (let slot := v.toNat % 4096
     let st (n : Nat) : Die := { d with shardRestore := BitVec.ofNat 64 (n * 2 ^ 48 + slot) }
     (d.ctxs.get? slot = none → dieIs (.shardRestore site v) (st 3)) ∧
     ∀ c, d.ctxs.get? slot = some c →
       let asid := descAsid c.words
       let shards := (s.snapDies asid).map fun x => (x.1, s.readShard (snapPool x.2).1)
       let es := (shards.map fun x => x.2.entries).flatten
       ((s.launches.any fun l => l.asid = asid) = true → dieIs (.shardRestore site v) (st 1)) ∧
       ((s.launches.any fun l => l.asid = asid) = false → mixedQual shards ≠ 0 → Answers (.shardRestore site v) s fun t => (t.die site).shardRestore = (st 2).shardRestore ∧ t.cores = s.cores) ∧
       ((s.launches.any fun l => l.asid = asid) = false → mixedQual shards = 0 → (∀ i, (s.die i).snap = none) → (es.map Prod.fst).Nodup →
         (∀ e ∈ es, e.1 % 65536 = 0 ∧ e.2 % 65536 = 0 ∧ deviceByte e.1 = true ∧ ∀ f ∈ es, e.1 ≠ f.2) → Answers (.shardRestore site v) s fun t =>
           t = { s with dies := t.dies, mem := t.mem, poison := t.poison, cores := t.cores } ∧ (t.die site).shardRestore = (st 0).shardRestore ∧
           (∀ k, (t.core k).l1 = (s.core k).l1.filter fun l => l.2.asid ≠ asid) ∧ (∀ e ∈ es, ∀ i < 65536, t.byte (e.1 + i) = s.byte (e.2 + i)) ∧
           ∀ a, (∀ e ∈ es, a < e.1 ∨ e.1 + 65536 ≤ a) → t.byte a = s.byte a)) ∧
    (Answers (.packageBoot true true) s fun t => t.mem = s.mem ∧ t.hostMem = s.hostMem ∧ t.cycle = 0 ∧ t.pkg.booted = true ∧ t.pkg.safeMode = false ∧
      t.pkg.image = s.pkg.nextImage.or s.pkg.image ∧ t.warps = [] ∧ t.wgs = [] ∧ t.launches = [] ∧ ∀ i < 4, (t.die i).enabled = true ∧ (t.die i).ctxs = [] ∧ (t.die i).orient = Config.orient i) ∧
    (∀ a b, (a && b) = false → Answers (.packageBoot a b) s fun t => t.pkg.safeMode = true ∧ t.pkg.booted = false ∧ t.pkg.topologyOk = a ∧ t.mem = s.mem ∧ t.warps = [] ∧ ∀ i, (t.die i).enabled = false) ∧
    (∀ p < 2, p ∉ s.pkg.ports → pkg (.hostPortTrain p) { s.pkg with ports := p :: s.pkg.ports }) ∧
    exec (.coreReturnedToService core) s = .next { s with cores := s.cores.set core { s.core core with inService := true } } ∧
    (∀ p ∈ [(RegBlock.core core, 0x0088, 0xF#64), (.core core, 0x0090, 0x7F#64), (.core core, 0x0708, 0xFFFFFFFFFFFFFFFF#64),
        (.core core, 0x0710, 0x3F#64), (.fw site, 0x0048, 0x1FFFFFFFF#64), (.fw site, 0x00C0, 0xFFFFFFFFFFFFF000#64), (.fw site, 0x00D0, 0xFFFFFFFFFFFFFFFF#64),
        (.fw site, 0x00E0, 0xFFFF#64), (.fw site, 0x00F8, 0xFFFFFFFFFFFF#64), (.pf site, 0x0300, 0x1FFFFFFFFFF0000#64), (.pf site, 0x0340, 0xFFFFFFFFFFFFF000#64),
        (.pf site, 0x0358, 0xFFFFFFFF#64), (.pf site, 0x04A0, 0x1F#64)],
      Answers (.registerWrite p.1 p.2.1 v) s fun t => t = { s with cores := t.cores, dies := t.dies } ∧ t.readReg p.1 p.2.1 = v &&& p.2.2) ∧
    (Answers (.registerWrite (.core core) 0x0080 v) s fun t => t = { s with cores := t.cores, warps := t.warps } ∧ t.readReg (.core core) 0x0080 = v &&& 0xFFFF#64 ∧
      t.warps.map (fun p => (p.1, { p.2 with fairPin := none })) = s.warps.map (fun p => (p.1, { p.2 with fairPin := none })) ∧
      ∀ k w w', s.warps.get? k = some w → t.warps.get? k = some w' → k / 16 = core → t.turnCyc core w' = s.turnCyc core w) ∧
    (Answers (.registerWrite (.pf site) 0x0368 v) s fun t => t = { s with dies := t.dies } ∧ (t.die site).fqRespVa = v &&& 0x1FFFFFFFFFF0000#64 ∧ t.readReg (.pf site) 0x0368 = 0) ∧
    (0 < vf → vf < 256 → Answers (.registerWrite (.vf site vf) 0x2108 v) s fun t => t = { s with dies := t.dies } ∧ t.readReg (.vf site vf) 0x2108 = v) ∧
    ∀ p ∈ [(RegBlock.pf site, 0x0000), (.pf site, 0x0350), (.pf site, 0x04A8), (.fw site, 0x0000), (.core core, 0x00A0), (.core core, 0x0718)], exec (.registerWrite p.1 p.2 v) s = .next s

/-! ## The whole machine -/

/-- A STEP RUNS THE DECODED INSTRUCTION. A block holds its instructions one after the other, each as its words decode (R64), so the word after the first `k` of them decodes to instruction `k`. Where a warp is issued and the instruction of
the turn-holding group's position (R81, R178) in its module is `i`, the step is exec of `i`, with the number that the next value would receive latched (R40). With nothing issued, the step executes the agenda's head, lets a cycle
pass (a warp that holds or awaits a halted group keeps its hang count, R249), or lands a host's write in device memory (R302). A word placed by withFetchWord that decodes to `i` is what the next step executes. (The model's choice, log 1: the agenda and one instruction a step.) -/
def Obligations.StepRunsDecoded : Prop :=
  (∀ (s : State) (c : Cx) (t : Thread) (f : FuncInfo) (n : Nat) (i : Instr), s.cx? = some c → c.active.head? = some t → moduleFunc c.ws t.pc.fsym = some f →
    instrAt f.blocks t.pc.pix = some (n, i) → step s = exec i { s with issue := some { c.iss with n := n, mode := .portable } }) ∧
  (∀ (k n : Nat) (ws : List W32) (is : List (Nat × Instr)) (n' : Nat) (r : List W32), parseInstrs k n ws = some (is, n', r) → is.length = k ∧
    ∀ j < k, ∃ m i us vs, is[j]? = some (m, i) ∧ us <:+ ws ∧ decodeWords us = .ok (i, vs) ∧ (j = 0 → us = ws ∧ m = n) ∧
      (j + 1 = k → vs = r) ∧ ∀ m' i', is[j + 1]? = some (m', i') → m' = (if (instrDefTy i).isSome then m + 1 else m) ∧ ∃ xs, decodeWords vs = .ok (i', xs)) ∧
  (∀ (s : State) (i : Instr) (r : List Turn), s.issue = none → s.agenda = .happen i :: r → step s = exec i { s with agenda := r }) ∧
  (∀ (s : State) (r : List Turn), s.issue = none → s.agenda = .cycle :: r → step s = .next { s with
    agenda := r, cycle := s.cycle + 1, warps := s.warps.map fun p => (p.1, if !p.2.pageWaits && s.hangHeld p.1 p.2 then { p.2 with hangBase := p.2.hangBase + 1 } else p.2) }) ∧
  (∀ (s : State) (pa : Nat) (bs : List Byte) (r : List Turn), s.issue = none → s.agenda = .hostWrite pa bs :: r → (∀ i, (s.die i).snap = none) → s.memOk → (∀ i < bs.length, deviceByte (pa + i) = true) →
    ∃ t, step s = .next t ∧ t = { s with agenda := r, dies := t.dies, mem := t.mem, poison := t.poison } ∧
      ∀ a, t.byte a = if pa ≤ a ∧ a < pa + bs.length then bs.getD (a - pa) 0 else s.byte a) ∧
  ∀ (s : State) (nbits w : Nat) (i : Instr), decodeTableWord nbits w = some i →
    step (s.withFetchWord nbits w) = exec i { s.withFetchWord nbits w with issue := some { core := 0, slot := 0, n := 0, mode := .portable } }

/-- The reset values of the field maps, as the registers read: DIE_ORIENT of each site as the straps give it (R12, R13), FAIRT.CYC 512 (R182), FWSHARE.LOG2 5 (R244), HANGCFG.LOG2 32 (R250), SCHEDCFG.LOCKSTEP 1 (R240), a free copy tag's
OWNER 0xFF and CLASS 1 (R271), a domain's MAX 0x18_0000 (R309), DETCFG.HOLD 1,024 (R343), SMP_SCFG.PLOG 12 (R413), FWWDT.LIMIT 600,000 (R435), the host queues' registers 0 (R232), and the other registers listed 0. No byte of memory, no
warp, workgroup, launch, module or context is listed. At reset the canonical form holds. (What unwritten memory reads as, log 3, is the model's choice.) -/
def Obligations.ResetState : Prop :=
  let s := State.reset
  s.canonical ∧ s.mem = [] ∧ s.hostMem = [] ∧ s.poison = [] ∧ s.warps = [] ∧ s.wgs = [] ∧ s.launches = [] ∧ s.modules = [] ∧ s.issue = none ∧ s.agenda = [] ∧ s.cycle = 0 ∧
  (∀ site < 4, (s.die site).ctxs = [] ∧ s.readReg (.pf site) 0x0000 = Config.orient site ∧ s.readReg (.fw site) 0x0000 = Config.orient site ∧
    (s.readReg (.fw site) 0x0048).getLsbD 32 = true ∧ s.readReg (.fw site) 0x00E0 = 1024 ∧ s.readReg (.fw site) 0x00F0 = 600000 ∧
    s.readReg (.fw site) 0x00F8 = 64 * 2 ^ 32 + 1000000 ∧ s.readReg (.pf site) 0x04A0 = 12 ∧ (s.readReg (.fw site) 0x0040).getLsbD 8 = false ∧
    (∀ off ∈ [0x0300, 0x0308, 0x0340, 0x0348, 0x0350, 0x0358, 0x0368, 0x0480, 0x0488, 0x0490, 0x0498, 0x04A8, 0x0500, 0x0508, 0x0520], s.readReg (.pf site) off = 0) ∧
    (∀ off ∈ [0x00C0, 0x00C8, 0x00D0], s.readReg (.fw site) off = 0) ∧ (∀ q < 64, ∀ o ∈ [0, 8, 16, 24], s.readReg (.pf site) (0x1000 + 32 * q + o) = 0) ∧
    (∀ d < 4096, s.readReg (.pf site) (0x100000 + 64 * d + 8) = 0x180000 ∧ ∀ o ∈ [0, 16, 24, 32, 40, 48], s.readReg (.pf site) (0x100000 + 64 * d + o) = 0) ∧
    ∀ vf, 0 < vf → vf < 256 → s.readReg (.pf site) (0x0600 + 8 * (vf - 1)) = 0 ∧ s.readReg (.vf site vf) 0x2100 = 0 ∧ s.readReg (.vf site vf) 0x2108 = 0) ∧
  ∀ c, s.readReg (.core c) 0x0080 = 512 ∧ s.readReg (.core c) 0x0088 = 5 ∧ s.readReg (.core c) 0x0090 = 32 ∧ s.readReg (.core c) 0x00A0 = 0 ∧
    (∀ i < 64, s.readReg (.core c) (0x0400 + 8 * i) = 0xFF * 2 ^ 32 + 2 ^ 16) ∧ (∀ off ∈ [0x0700, 0x0708, 0x0710, 0x0718], s.readReg (.core c) off = 0) ∧
    ∀ i < 256, s.readReg (.core c) (0x0800 + 8 * i) = 0

/-- A few words, bit by bit from the encoding of R56-R60 and the opcode grid of R66, and what they decode to; and words that no instruction has, each rejected with the event that R67 names. -/
def Obligations.DecodeWords : Prop :=
  let one (ws : List W32) (i : Instr) : Prop := decodeWords ws = .ok (i, [])
  let bad (ws : List W32) (ev : Nat) : Prop := decodeWords ws = .error ev
  let r (n : Nat) : Opnd := .ref (BitVec.ofNat 30 n)
  one [0x00000000#32] .nop ∧ one [0x0B008000#32, 0x40000003#32] (.join 3) ∧
  one [0x02018000#32, 0x00000001#32, 0x80000003#32, 0x80000002#32] (.brc .none false (r 1) { block := 3, args := [] } { block := 2, args := [] }) ∧
  one [0x01018000#32, 0x80200001#32, 0x00000001#32, 0x00000002#32] (.br false { block := 1, args := [r 1, r 2] }) ∧
  one [0x10110000#32, 0x00000004#32, 0x40000001#32] (.add tyB32 false false none (r 4) (.imm 1)) ∧
  one [0x27110014#32, 1#32, 2#32] (.cmp tyB32 .ge false none (r 1) (r 2)) ∧
  one [0x33224003#32, 1#32, 2#32, 3#32, 0x40000005#32] (.fma tyF32 true true (some 5) (r 1) (r 2) (r 3)) ∧
  one [0x55008020#32, 1#32] (.cctl .zero (r 1) none) ∧ one [0x59002E00#32] (.fence .acqrel .system) ∧ one [0x5A000000#32] .phase ∧
  one [0x56110000#32, 1#32, 2#32] (.atom tyB32 .add false .none .global none (r 1) (r 2) none) ∧
  one [0x58211C90#32, 1#32, 2#32] (.red tyF32 .fadd false (.rel .package) .global none (r 1) (r 2) none) ∧
  one [0x64110000#32, 1#32, 2#32] (.cjoin (r 1) (r 2)) ∧ one [0x67010000#32, 0x40000007#32, 0x40000002#32] (.colr 7 2) ∧
  one [0x7100_8000#32, 1#32] (.orel (r 1)) ∧ one [0x7F140001#32] (.mstat true) ∧
  one [0x93010800#32, 0x40000000#32, 0x40000040#32] (.bmem .cluster 0 (some (.imm 64))) ∧
  one [0xA2148000#32, 0x40000004#32] (.lquery 4) ∧ one [0xA0108001#32, 1#32] (.launch true (r 1)) ∧
  one [0xB2110002#32, 0x00000001#32, 0x40000008#32] (.tprfHandle .both (r 1) 0) ∧ one [0xB7150000#32, 5#32, 0x40000009#32] (.logm tyB64 none (r 5) 9) ∧
  bad [0x4F000000#32] evIllegalOp ∧ bad [0x10010000#32, 1#32, 2#32] evType ∧ bad [0x00000001#32] evVerify ∧ bad [0x10110000#32, 0#32, 2#32] evVerify ∧
  bad [0x56110800#32, 1#32, 2#32] evVerify ∧ bad [0x04138000#32, 6#32, 0xA0000000#32] evVerify ∧ bad (0x04138000#32 :: 257#32 :: List.replicate 257 1#32) evXlateLimit

/-- DECODE AND ENCODE AGREE: for every well-formed portable instruction, with every operand at every value that the encoding admits, decoding its words gives it back and leaves the words that follow. What no portable word encodes has no words. -/
def Obligations.DecodeEncodeRoundTrip : Prop :=
  (∀ (i : Instr) (ws rest : List W32), encode i = some ws → decodeWords (ws ++ rest) = .ok (i, rest)) ∧
  ∀ i : Instr, (encode i).isSome = i.wf

/-- THE INVARIANT: from any state in canonical form (device memory, host memory, every resident, saved, parked or landed scratchpad with rising addresses and no zero byte listed; the tables of warps and workgroups with rising keys), whatever
the step executes, an instruction or a happening, a next state is in canonical form. So equal memories are equal data, and a read after a write is the value written. (The form is the model's own, log 3.) -/
def Obligations.CanonicalKept : Prop :=
  ∀ s t : State, s.canonical → step s = .next t → t.canonical

/-- Every instruction of the opcode table, portable, native-only or happening, has its meaning: exec of it answers a next state in every state, but for an instruction executed with no warp issued (which no step does). With a warp issued, every instruction answers. -/
def Obligations.NoInstructionRefused : Prop :=
  ∀ (i : Instr) (s : State), ((∃ t, exec i s = .next t) ∨ (s.cx? = none ∧ exec i s = .fault .noIssue)) ∧ ((∃ c, s.cx? = some c) → ∃ t, exec i s = .next t)
end

