-- ==== Sys2Proof/Laws/State.lean ====
section
/-! SUPPORT. Sys2Proof/Laws/State.lean: what each update of State leaves in each field: one lemma per field per update. -/

namespace Sys2Proof.Machine

open Sys2Proof

@[simp] theorem State.setCore_cycle (s : State) (c : Nat) (x : Core) : (s.setCore c x).cycle = s.cycle := rfl
@[simp] theorem State.setCore_pkg (s : State) (c : Nat) (x : Core) : (s.setCore c x).pkg = s.pkg := rfl
@[simp] theorem State.setCore_dies (s : State) (c : Nat) (x : Core) : (s.setCore c x).dies = s.dies := rfl
@[simp] theorem State.setCore_clusters (s : State) (c : Nat) (x : Core) : (s.setCore c x).clusters = s.clusters := rfl
@[simp] theorem State.setCore_cores (s : State) (c : Nat) (x : Core) : (s.setCore c x).cores = s.cores.set c x := rfl
@[simp] theorem State.setCore_warps (s : State) (c : Nat) (x : Core) : (s.setCore c x).warps = s.warps := rfl
@[simp] theorem State.setCore_wgs (s : State) (c : Nat) (x : Core) : (s.setCore c x).wgs = s.wgs := rfl
@[simp] theorem State.setCore_launches (s : State) (c : Nat) (x : Core) : (s.setCore c x).launches = s.launches := rfl
@[simp] theorem State.setCore_modules (s : State) (c : Nat) (x : Core) : (s.setCore c x).modules = s.modules := rfl
@[simp] theorem State.setCore_infos (s : State) (c : Nat) (x : Core) : (s.setCore c x).infos = s.infos := rfl
@[simp] theorem State.setCore_mem (s : State) (c : Nat) (x : Core) : (s.setCore c x).mem = s.mem := rfl
@[simp] theorem State.setCore_hostMem (s : State) (c : Nat) (x : Core) : (s.setCore c x).hostMem = s.hostMem := rfl
@[simp] theorem State.setCore_poison (s : State) (c : Nat) (x : Core) : (s.setCore c x).poison = s.poison := rfl
@[simp] theorem State.setCore_issue (s : State) (c : Nat) (x : Core) : (s.setCore c x).issue = s.issue := rfl
@[simp] theorem State.setCore_agenda (s : State) (c : Nat) (x : Core) : (s.setCore c x).agenda = s.agenda := rfl
@[simp] theorem State.setCore_freeCtr (s : State) (c : Nat) (x : Core) : (s.setCore c x).freeCtr = s.freeCtr := rfl

@[simp] theorem State.setCluster_cycle (s : State) (c : Nat) (x : Cluster) : (s.setCluster c x).cycle = s.cycle := rfl
@[simp] theorem State.setCluster_pkg (s : State) (c : Nat) (x : Cluster) : (s.setCluster c x).pkg = s.pkg := rfl
@[simp] theorem State.setCluster_dies (s : State) (c : Nat) (x : Cluster) : (s.setCluster c x).dies = s.dies := rfl
@[simp] theorem State.setCluster_clusters (s : State) (c : Nat) (x : Cluster) : (s.setCluster c x).clusters = s.clusters.set c x := rfl
@[simp] theorem State.setCluster_cores (s : State) (c : Nat) (x : Cluster) : (s.setCluster c x).cores = s.cores := rfl
@[simp] theorem State.setCluster_warps (s : State) (c : Nat) (x : Cluster) : (s.setCluster c x).warps = s.warps := rfl
@[simp] theorem State.setCluster_wgs (s : State) (c : Nat) (x : Cluster) : (s.setCluster c x).wgs = s.wgs := rfl
@[simp] theorem State.setCluster_launches (s : State) (c : Nat) (x : Cluster) : (s.setCluster c x).launches = s.launches := rfl
@[simp] theorem State.setCluster_modules (s : State) (c : Nat) (x : Cluster) : (s.setCluster c x).modules = s.modules := rfl
@[simp] theorem State.setCluster_infos (s : State) (c : Nat) (x : Cluster) : (s.setCluster c x).infos = s.infos := rfl
@[simp] theorem State.setCluster_mem (s : State) (c : Nat) (x : Cluster) : (s.setCluster c x).mem = s.mem := rfl
@[simp] theorem State.setCluster_hostMem (s : State) (c : Nat) (x : Cluster) : (s.setCluster c x).hostMem = s.hostMem := rfl
@[simp] theorem State.setCluster_poison (s : State) (c : Nat) (x : Cluster) : (s.setCluster c x).poison = s.poison := rfl
@[simp] theorem State.setCluster_issue (s : State) (c : Nat) (x : Cluster) : (s.setCluster c x).issue = s.issue := rfl
@[simp] theorem State.setCluster_agenda (s : State) (c : Nat) (x : Cluster) : (s.setCluster c x).agenda = s.agenda := rfl
@[simp] theorem State.setCluster_freeCtr (s : State) (c : Nat) (x : Cluster) : (s.setCluster c x).freeCtr = s.freeCtr := rfl

@[simp] theorem State.setDie_cycle (s : State) (i : Nat) (x : Die) : (s.setDie i x).cycle = s.cycle := rfl
@[simp] theorem State.setDie_pkg (s : State) (i : Nat) (x : Die) : (s.setDie i x).pkg = s.pkg := rfl
@[simp] theorem State.setDie_dies (s : State) (i : Nat) (x : Die) : (s.setDie i x).dies = s.dies.set i x := rfl
@[simp] theorem State.setDie_clusters (s : State) (i : Nat) (x : Die) : (s.setDie i x).clusters = s.clusters := rfl
@[simp] theorem State.setDie_cores (s : State) (i : Nat) (x : Die) : (s.setDie i x).cores = s.cores := rfl
@[simp] theorem State.setDie_warps (s : State) (i : Nat) (x : Die) : (s.setDie i x).warps = s.warps := rfl
@[simp] theorem State.setDie_wgs (s : State) (i : Nat) (x : Die) : (s.setDie i x).wgs = s.wgs := rfl
@[simp] theorem State.setDie_launches (s : State) (i : Nat) (x : Die) : (s.setDie i x).launches = s.launches := rfl
@[simp] theorem State.setDie_modules (s : State) (i : Nat) (x : Die) : (s.setDie i x).modules = s.modules := rfl
@[simp] theorem State.setDie_infos (s : State) (i : Nat) (x : Die) : (s.setDie i x).infos = s.infos := rfl
@[simp] theorem State.setDie_mem (s : State) (i : Nat) (x : Die) : (s.setDie i x).mem = s.mem := rfl
@[simp] theorem State.setDie_hostMem (s : State) (i : Nat) (x : Die) : (s.setDie i x).hostMem = s.hostMem := rfl
@[simp] theorem State.setDie_poison (s : State) (i : Nat) (x : Die) : (s.setDie i x).poison = s.poison := rfl
@[simp] theorem State.setDie_issue (s : State) (i : Nat) (x : Die) : (s.setDie i x).issue = s.issue := rfl
@[simp] theorem State.setDie_agenda (s : State) (i : Nat) (x : Die) : (s.setDie i x).agenda = s.agenda := rfl
@[simp] theorem State.setDie_freeCtr (s : State) (i : Nat) (x : Die) : (s.setDie i x).freeCtr = s.freeCtr := rfl

@[simp] theorem State.setWarp_cycle (s : State) (k : Nat) (w : Warp) : (s.setWarp k w).cycle = s.cycle := rfl
@[simp] theorem State.setWarp_pkg (s : State) (k : Nat) (w : Warp) : (s.setWarp k w).pkg = s.pkg := rfl
@[simp] theorem State.setWarp_dies (s : State) (k : Nat) (w : Warp) : (s.setWarp k w).dies = s.dies := rfl
@[simp] theorem State.setWarp_clusters (s : State) (k : Nat) (w : Warp) : (s.setWarp k w).clusters = s.clusters := rfl
@[simp] theorem State.setWarp_cores (s : State) (k : Nat) (w : Warp) : (s.setWarp k w).cores = s.cores := rfl
@[simp] theorem State.setWarp_warps (s : State) (k : Nat) (w : Warp) : (s.setWarp k w).warps = s.warps.set k w := rfl
@[simp] theorem State.setWarp_wgs (s : State) (k : Nat) (w : Warp) : (s.setWarp k w).wgs = s.wgs := rfl
@[simp] theorem State.setWarp_launches (s : State) (k : Nat) (w : Warp) : (s.setWarp k w).launches = s.launches := rfl
@[simp] theorem State.setWarp_modules (s : State) (k : Nat) (w : Warp) : (s.setWarp k w).modules = s.modules := rfl
@[simp] theorem State.setWarp_infos (s : State) (k : Nat) (w : Warp) : (s.setWarp k w).infos = s.infos := rfl
@[simp] theorem State.setWarp_mem (s : State) (k : Nat) (w : Warp) : (s.setWarp k w).mem = s.mem := rfl
@[simp] theorem State.setWarp_hostMem (s : State) (k : Nat) (w : Warp) : (s.setWarp k w).hostMem = s.hostMem := rfl
@[simp] theorem State.setWarp_poison (s : State) (k : Nat) (w : Warp) : (s.setWarp k w).poison = s.poison := rfl
@[simp] theorem State.setWarp_issue (s : State) (k : Nat) (w : Warp) : (s.setWarp k w).issue = s.issue := rfl
@[simp] theorem State.setWarp_agenda (s : State) (k : Nat) (w : Warp) : (s.setWarp k w).agenda = s.agenda := rfl
@[simp] theorem State.setWarp_freeCtr (s : State) (k : Nat) (w : Warp) : (s.setWarp k w).freeCtr = s.freeCtr := rfl

@[simp] theorem State.setWg_cycle (s : State) (k : Nat) (g : Workgroup) : (s.setWg k g).cycle = s.cycle := rfl
@[simp] theorem State.setWg_pkg (s : State) (k : Nat) (g : Workgroup) : (s.setWg k g).pkg = s.pkg := rfl
@[simp] theorem State.setWg_dies (s : State) (k : Nat) (g : Workgroup) : (s.setWg k g).dies = s.dies := rfl
@[simp] theorem State.setWg_clusters (s : State) (k : Nat) (g : Workgroup) : (s.setWg k g).clusters = s.clusters := rfl
@[simp] theorem State.setWg_cores (s : State) (k : Nat) (g : Workgroup) : (s.setWg k g).cores = s.cores := rfl
@[simp] theorem State.setWg_warps (s : State) (k : Nat) (g : Workgroup) : (s.setWg k g).warps = s.warps := rfl
@[simp] theorem State.setWg_wgs (s : State) (k : Nat) (g : Workgroup) : (s.setWg k g).wgs = s.wgs.set k g := rfl
@[simp] theorem State.setWg_launches (s : State) (k : Nat) (g : Workgroup) : (s.setWg k g).launches = s.launches := rfl
@[simp] theorem State.setWg_modules (s : State) (k : Nat) (g : Workgroup) : (s.setWg k g).modules = s.modules := rfl
@[simp] theorem State.setWg_infos (s : State) (k : Nat) (g : Workgroup) : (s.setWg k g).infos = s.infos := rfl
@[simp] theorem State.setWg_mem (s : State) (k : Nat) (g : Workgroup) : (s.setWg k g).mem = s.mem := rfl
@[simp] theorem State.setWg_hostMem (s : State) (k : Nat) (g : Workgroup) : (s.setWg k g).hostMem = s.hostMem := rfl
@[simp] theorem State.setWg_poison (s : State) (k : Nat) (g : Workgroup) : (s.setWg k g).poison = s.poison := rfl
@[simp] theorem State.setWg_issue (s : State) (k : Nat) (g : Workgroup) : (s.setWg k g).issue = s.issue := rfl
@[simp] theorem State.setWg_agenda (s : State) (k : Nat) (g : Workgroup) : (s.setWg k g).agenda = s.agenda := rfl
@[simp] theorem State.setWg_freeCtr (s : State) (k : Nat) (g : Workgroup) : (s.setWg k g).freeCtr = s.freeCtr := rfl

@[simp] theorem State.setInfo_cycle (s : State) (a : Nat) (x : CtxInfo) : (s.setInfo a x).cycle = s.cycle := rfl
@[simp] theorem State.setInfo_pkg (s : State) (a : Nat) (x : CtxInfo) : (s.setInfo a x).pkg = s.pkg := rfl
@[simp] theorem State.setInfo_dies (s : State) (a : Nat) (x : CtxInfo) : (s.setInfo a x).dies = s.dies := rfl
@[simp] theorem State.setInfo_clusters (s : State) (a : Nat) (x : CtxInfo) : (s.setInfo a x).clusters = s.clusters := rfl
@[simp] theorem State.setInfo_cores (s : State) (a : Nat) (x : CtxInfo) : (s.setInfo a x).cores = s.cores := rfl
@[simp] theorem State.setInfo_warps (s : State) (a : Nat) (x : CtxInfo) : (s.setInfo a x).warps = s.warps := rfl
@[simp] theorem State.setInfo_wgs (s : State) (a : Nat) (x : CtxInfo) : (s.setInfo a x).wgs = s.wgs := rfl
@[simp] theorem State.setInfo_launches (s : State) (a : Nat) (x : CtxInfo) : (s.setInfo a x).launches = s.launches := rfl
@[simp] theorem State.setInfo_modules (s : State) (a : Nat) (x : CtxInfo) : (s.setInfo a x).modules = s.modules := rfl
@[simp] theorem State.setInfo_infos (s : State) (a : Nat) (x : CtxInfo) : (s.setInfo a x).infos = s.infos.set a x := rfl
@[simp] theorem State.setInfo_mem (s : State) (a : Nat) (x : CtxInfo) : (s.setInfo a x).mem = s.mem := rfl
@[simp] theorem State.setInfo_hostMem (s : State) (a : Nat) (x : CtxInfo) : (s.setInfo a x).hostMem = s.hostMem := rfl
@[simp] theorem State.setInfo_poison (s : State) (a : Nat) (x : CtxInfo) : (s.setInfo a x).poison = s.poison := rfl
@[simp] theorem State.setInfo_issue (s : State) (a : Nat) (x : CtxInfo) : (s.setInfo a x).issue = s.issue := rfl
@[simp] theorem State.setInfo_agenda (s : State) (a : Nat) (x : CtxInfo) : (s.setInfo a x).agenda = s.agenda := rfl
@[simp] theorem State.setInfo_freeCtr (s : State) (a : Nat) (x : CtxInfo) : (s.setInfo a x).freeCtr = s.freeCtr := rfl

@[simp] theorem State.modCore_cycle (s : State) (c : Nat) (f : Core → Core) : (s.modCore c f).cycle = s.cycle := rfl
@[simp] theorem State.modCore_pkg (s : State) (c : Nat) (f : Core → Core) : (s.modCore c f).pkg = s.pkg := rfl
@[simp] theorem State.modCore_dies (s : State) (c : Nat) (f : Core → Core) : (s.modCore c f).dies = s.dies := rfl
@[simp] theorem State.modCore_clusters (s : State) (c : Nat) (f : Core → Core) : (s.modCore c f).clusters = s.clusters := rfl
@[simp] theorem State.modCore_cores (s : State) (c : Nat) (f : Core → Core) : (s.modCore c f).cores = s.cores.set c (f (s.core c)) := rfl
@[simp] theorem State.modCore_warps (s : State) (c : Nat) (f : Core → Core) : (s.modCore c f).warps = s.warps := rfl
@[simp] theorem State.modCore_wgs (s : State) (c : Nat) (f : Core → Core) : (s.modCore c f).wgs = s.wgs := rfl
@[simp] theorem State.modCore_launches (s : State) (c : Nat) (f : Core → Core) : (s.modCore c f).launches = s.launches := rfl
@[simp] theorem State.modCore_modules (s : State) (c : Nat) (f : Core → Core) : (s.modCore c f).modules = s.modules := rfl
@[simp] theorem State.modCore_infos (s : State) (c : Nat) (f : Core → Core) : (s.modCore c f).infos = s.infos := rfl
@[simp] theorem State.modCore_mem (s : State) (c : Nat) (f : Core → Core) : (s.modCore c f).mem = s.mem := rfl
@[simp] theorem State.modCore_hostMem (s : State) (c : Nat) (f : Core → Core) : (s.modCore c f).hostMem = s.hostMem := rfl
@[simp] theorem State.modCore_poison (s : State) (c : Nat) (f : Core → Core) : (s.modCore c f).poison = s.poison := rfl
@[simp] theorem State.modCore_issue (s : State) (c : Nat) (f : Core → Core) : (s.modCore c f).issue = s.issue := rfl
@[simp] theorem State.modCore_agenda (s : State) (c : Nat) (f : Core → Core) : (s.modCore c f).agenda = s.agenda := rfl
@[simp] theorem State.modCore_freeCtr (s : State) (c : Nat) (f : Core → Core) : (s.modCore c f).freeCtr = s.freeCtr := rfl

@[simp] theorem State.modCluster_cycle (s : State) (c : Nat) (f : Cluster → Cluster) : (s.modCluster c f).cycle = s.cycle := rfl
@[simp] theorem State.modCluster_pkg (s : State) (c : Nat) (f : Cluster → Cluster) : (s.modCluster c f).pkg = s.pkg := rfl
@[simp] theorem State.modCluster_dies (s : State) (c : Nat) (f : Cluster → Cluster) : (s.modCluster c f).dies = s.dies := rfl
@[simp] theorem State.modCluster_clusters (s : State) (c : Nat) (f : Cluster → Cluster) : (s.modCluster c f).clusters = s.clusters.set c (f (s.cluster c)) := rfl
@[simp] theorem State.modCluster_cores (s : State) (c : Nat) (f : Cluster → Cluster) : (s.modCluster c f).cores = s.cores := rfl
@[simp] theorem State.modCluster_warps (s : State) (c : Nat) (f : Cluster → Cluster) : (s.modCluster c f).warps = s.warps := rfl
@[simp] theorem State.modCluster_wgs (s : State) (c : Nat) (f : Cluster → Cluster) : (s.modCluster c f).wgs = s.wgs := rfl
@[simp] theorem State.modCluster_launches (s : State) (c : Nat) (f : Cluster → Cluster) : (s.modCluster c f).launches = s.launches := rfl
@[simp] theorem State.modCluster_modules (s : State) (c : Nat) (f : Cluster → Cluster) : (s.modCluster c f).modules = s.modules := rfl
@[simp] theorem State.modCluster_infos (s : State) (c : Nat) (f : Cluster → Cluster) : (s.modCluster c f).infos = s.infos := rfl
@[simp] theorem State.modCluster_mem (s : State) (c : Nat) (f : Cluster → Cluster) : (s.modCluster c f).mem = s.mem := rfl
@[simp] theorem State.modCluster_hostMem (s : State) (c : Nat) (f : Cluster → Cluster) : (s.modCluster c f).hostMem = s.hostMem := rfl
@[simp] theorem State.modCluster_poison (s : State) (c : Nat) (f : Cluster → Cluster) : (s.modCluster c f).poison = s.poison := rfl
@[simp] theorem State.modCluster_issue (s : State) (c : Nat) (f : Cluster → Cluster) : (s.modCluster c f).issue = s.issue := rfl
@[simp] theorem State.modCluster_agenda (s : State) (c : Nat) (f : Cluster → Cluster) : (s.modCluster c f).agenda = s.agenda := rfl
@[simp] theorem State.modCluster_freeCtr (s : State) (c : Nat) (f : Cluster → Cluster) : (s.modCluster c f).freeCtr = s.freeCtr := rfl

@[simp] theorem State.modDie_cycle (s : State) (i : Nat) (f : Die → Die) : (s.modDie i f).cycle = s.cycle := rfl
@[simp] theorem State.modDie_pkg (s : State) (i : Nat) (f : Die → Die) : (s.modDie i f).pkg = s.pkg := rfl
@[simp] theorem State.modDie_dies (s : State) (i : Nat) (f : Die → Die) : (s.modDie i f).dies = s.dies.set i (f (s.die i)) := rfl
@[simp] theorem State.modDie_clusters (s : State) (i : Nat) (f : Die → Die) : (s.modDie i f).clusters = s.clusters := rfl
@[simp] theorem State.modDie_cores (s : State) (i : Nat) (f : Die → Die) : (s.modDie i f).cores = s.cores := rfl
@[simp] theorem State.modDie_warps (s : State) (i : Nat) (f : Die → Die) : (s.modDie i f).warps = s.warps := rfl
@[simp] theorem State.modDie_wgs (s : State) (i : Nat) (f : Die → Die) : (s.modDie i f).wgs = s.wgs := rfl
@[simp] theorem State.modDie_launches (s : State) (i : Nat) (f : Die → Die) : (s.modDie i f).launches = s.launches := rfl
@[simp] theorem State.modDie_modules (s : State) (i : Nat) (f : Die → Die) : (s.modDie i f).modules = s.modules := rfl
@[simp] theorem State.modDie_infos (s : State) (i : Nat) (f : Die → Die) : (s.modDie i f).infos = s.infos := rfl
@[simp] theorem State.modDie_mem (s : State) (i : Nat) (f : Die → Die) : (s.modDie i f).mem = s.mem := rfl
@[simp] theorem State.modDie_hostMem (s : State) (i : Nat) (f : Die → Die) : (s.modDie i f).hostMem = s.hostMem := rfl
@[simp] theorem State.modDie_poison (s : State) (i : Nat) (f : Die → Die) : (s.modDie i f).poison = s.poison := rfl
@[simp] theorem State.modDie_issue (s : State) (i : Nat) (f : Die → Die) : (s.modDie i f).issue = s.issue := rfl
@[simp] theorem State.modDie_agenda (s : State) (i : Nat) (f : Die → Die) : (s.modDie i f).agenda = s.agenda := rfl
@[simp] theorem State.modDie_freeCtr (s : State) (i : Nat) (f : Die → Die) : (s.modDie i f).freeCtr = s.freeCtr := rfl

@[simp] theorem State.modLaunch_cycle (s : State) (a q : Nat) (f : Launch → Launch) : (s.modLaunch a q f).cycle = s.cycle := rfl
@[simp] theorem State.modLaunch_pkg (s : State) (a q : Nat) (f : Launch → Launch) : (s.modLaunch a q f).pkg = s.pkg := rfl
@[simp] theorem State.modLaunch_dies (s : State) (a q : Nat) (f : Launch → Launch) : (s.modLaunch a q f).dies = s.dies := rfl
@[simp] theorem State.modLaunch_clusters (s : State) (a q : Nat) (f : Launch → Launch) : (s.modLaunch a q f).clusters = s.clusters := rfl
@[simp] theorem State.modLaunch_cores (s : State) (a q : Nat) (f : Launch → Launch) : (s.modLaunch a q f).cores = s.cores := rfl
@[simp] theorem State.modLaunch_warps (s : State) (a q : Nat) (f : Launch → Launch) : (s.modLaunch a q f).warps = s.warps := rfl
@[simp] theorem State.modLaunch_wgs (s : State) (a q : Nat) (f : Launch → Launch) : (s.modLaunch a q f).wgs = s.wgs := rfl
@[simp] theorem State.modLaunch_launches (s : State) (a q : Nat) (f : Launch → Launch) : (s.modLaunch a q f).launches = s.launches.map fun l => if l.asid = a && l.lseq = q then f l else l := rfl
@[simp] theorem State.modLaunch_modules (s : State) (a q : Nat) (f : Launch → Launch) : (s.modLaunch a q f).modules = s.modules := rfl
@[simp] theorem State.modLaunch_infos (s : State) (a q : Nat) (f : Launch → Launch) : (s.modLaunch a q f).infos = s.infos := rfl
@[simp] theorem State.modLaunch_mem (s : State) (a q : Nat) (f : Launch → Launch) : (s.modLaunch a q f).mem = s.mem := rfl
@[simp] theorem State.modLaunch_hostMem (s : State) (a q : Nat) (f : Launch → Launch) : (s.modLaunch a q f).hostMem = s.hostMem := rfl
@[simp] theorem State.modLaunch_poison (s : State) (a q : Nat) (f : Launch → Launch) : (s.modLaunch a q f).poison = s.poison := rfl
@[simp] theorem State.modLaunch_issue (s : State) (a q : Nat) (f : Launch → Launch) : (s.modLaunch a q f).issue = s.issue := rfl
@[simp] theorem State.modLaunch_agenda (s : State) (a q : Nat) (f : Launch → Launch) : (s.modLaunch a q f).agenda = s.agenda := rfl
@[simp] theorem State.modLaunch_freeCtr (s : State) (a q : Nat) (f : Launch → Launch) : (s.modLaunch a q f).freeCtr = s.freeCtr := rfl

@[simp] theorem State.stall_cycle (s : State) : (s.stall ).cycle = s.cycle := rfl
@[simp] theorem State.stall_pkg (s : State) : (s.stall ).pkg = s.pkg := rfl
@[simp] theorem State.stall_dies (s : State) : (s.stall ).dies = s.dies := rfl
@[simp] theorem State.stall_clusters (s : State) : (s.stall ).clusters = s.clusters := rfl
@[simp] theorem State.stall_cores (s : State) : (s.stall ).cores = s.cores := rfl
@[simp] theorem State.stall_warps (s : State) : (s.stall ).warps = s.warps := rfl
@[simp] theorem State.stall_wgs (s : State) : (s.stall ).wgs = s.wgs := rfl
@[simp] theorem State.stall_launches (s : State) : (s.stall ).launches = s.launches := rfl
@[simp] theorem State.stall_modules (s : State) : (s.stall ).modules = s.modules := rfl
@[simp] theorem State.stall_infos (s : State) : (s.stall ).infos = s.infos := rfl
@[simp] theorem State.stall_mem (s : State) : (s.stall ).mem = s.mem := rfl
@[simp] theorem State.stall_hostMem (s : State) : (s.stall ).hostMem = s.hostMem := rfl
@[simp] theorem State.stall_poison (s : State) : (s.stall ).poison = s.poison := rfl
@[simp] theorem State.stall_issue (s : State) : (s.stall ).issue = none := rfl
@[simp] theorem State.stall_agenda (s : State) : (s.stall ).agenda = s.agenda := rfl
@[simp] theorem State.stall_freeCtr (s : State) : (s.stall ).freeCtr = s.freeCtr := rfl

@[simp] theorem State.free_cycle (s : State) : s.free.2.cycle = s.cycle := rfl
@[simp] theorem State.free_pkg (s : State) : s.free.2.pkg = s.pkg := rfl
@[simp] theorem State.free_dies (s : State) : s.free.2.dies = s.dies := rfl
@[simp] theorem State.free_clusters (s : State) : s.free.2.clusters = s.clusters := rfl
@[simp] theorem State.free_cores (s : State) : s.free.2.cores = s.cores := rfl
@[simp] theorem State.free_warps (s : State) : s.free.2.warps = s.warps := rfl
@[simp] theorem State.free_wgs (s : State) : s.free.2.wgs = s.wgs := rfl
@[simp] theorem State.free_launches (s : State) : s.free.2.launches = s.launches := rfl
@[simp] theorem State.free_modules (s : State) : s.free.2.modules = s.modules := rfl
@[simp] theorem State.free_infos (s : State) : s.free.2.infos = s.infos := rfl
@[simp] theorem State.free_mem (s : State) : s.free.2.mem = s.mem := rfl
@[simp] theorem State.free_hostMem (s : State) : s.free.2.hostMem = s.hostMem := rfl
@[simp] theorem State.free_poison (s : State) : s.free.2.poison = s.poison := rfl
@[simp] theorem State.free_issue (s : State) : s.free.2.issue = s.issue := rfl
@[simp] theorem State.free_agenda (s : State) : s.free.2.agenda = s.agenda := rfl
@[simp] theorem State.free_freeCtr (s : State) : s.free.2.freeCtr = s.freeCtr + 1 := rfl

@[simp] theorem State.modWarp_cycle (s : State) (k : Nat) (f : Warp → Warp) : (s.modWarp k f).cycle = s.cycle := by
  unfold State.modWarp; split <;> rfl
@[simp] theorem State.modWarp_pkg (s : State) (k : Nat) (f : Warp → Warp) : (s.modWarp k f).pkg = s.pkg := by
  unfold State.modWarp; split <;> rfl
@[simp] theorem State.modWarp_dies (s : State) (k : Nat) (f : Warp → Warp) : (s.modWarp k f).dies = s.dies := by
  unfold State.modWarp; split <;> rfl
@[simp] theorem State.modWarp_clusters (s : State) (k : Nat) (f : Warp → Warp) : (s.modWarp k f).clusters = s.clusters := by
  unfold State.modWarp; split <;> rfl
@[simp] theorem State.modWarp_cores (s : State) (k : Nat) (f : Warp → Warp) : (s.modWarp k f).cores = s.cores := by
  unfold State.modWarp; split <;> rfl
@[simp] theorem State.modWarp_wgs (s : State) (k : Nat) (f : Warp → Warp) : (s.modWarp k f).wgs = s.wgs := by
  unfold State.modWarp; split <;> rfl
@[simp] theorem State.modWarp_launches (s : State) (k : Nat) (f : Warp → Warp) : (s.modWarp k f).launches = s.launches := by
  unfold State.modWarp; split <;> rfl
@[simp] theorem State.modWarp_modules (s : State) (k : Nat) (f : Warp → Warp) : (s.modWarp k f).modules = s.modules := by
  unfold State.modWarp; split <;> rfl
@[simp] theorem State.modWarp_infos (s : State) (k : Nat) (f : Warp → Warp) : (s.modWarp k f).infos = s.infos := by
  unfold State.modWarp; split <;> rfl
@[simp] theorem State.modWarp_mem (s : State) (k : Nat) (f : Warp → Warp) : (s.modWarp k f).mem = s.mem := by
  unfold State.modWarp; split <;> rfl
@[simp] theorem State.modWarp_hostMem (s : State) (k : Nat) (f : Warp → Warp) : (s.modWarp k f).hostMem = s.hostMem := by
  unfold State.modWarp; split <;> rfl
@[simp] theorem State.modWarp_poison (s : State) (k : Nat) (f : Warp → Warp) : (s.modWarp k f).poison = s.poison := by
  unfold State.modWarp; split <;> rfl
@[simp] theorem State.modWarp_issue (s : State) (k : Nat) (f : Warp → Warp) : (s.modWarp k f).issue = s.issue := by
  unfold State.modWarp; split <;> rfl
@[simp] theorem State.modWarp_agenda (s : State) (k : Nat) (f : Warp → Warp) : (s.modWarp k f).agenda = s.agenda := by
  unfold State.modWarp; split <;> rfl
@[simp] theorem State.modWarp_freeCtr (s : State) (k : Nat) (f : Warp → Warp) : (s.modWarp k f).freeCtr = s.freeCtr := by
  unfold State.modWarp; split <;> rfl

@[simp] theorem State.modWg_cycle (s : State) (k : Nat) (f : Workgroup → Workgroup) : (s.modWg k f).cycle = s.cycle := by
  unfold State.modWg; split <;> rfl
@[simp] theorem State.modWg_pkg (s : State) (k : Nat) (f : Workgroup → Workgroup) : (s.modWg k f).pkg = s.pkg := by
  unfold State.modWg; split <;> rfl
@[simp] theorem State.modWg_dies (s : State) (k : Nat) (f : Workgroup → Workgroup) : (s.modWg k f).dies = s.dies := by
  unfold State.modWg; split <;> rfl
@[simp] theorem State.modWg_clusters (s : State) (k : Nat) (f : Workgroup → Workgroup) : (s.modWg k f).clusters = s.clusters := by
  unfold State.modWg; split <;> rfl
@[simp] theorem State.modWg_cores (s : State) (k : Nat) (f : Workgroup → Workgroup) : (s.modWg k f).cores = s.cores := by
  unfold State.modWg; split <;> rfl
@[simp] theorem State.modWg_warps (s : State) (k : Nat) (f : Workgroup → Workgroup) : (s.modWg k f).warps = s.warps := by
  unfold State.modWg; split <;> rfl
@[simp] theorem State.modWg_launches (s : State) (k : Nat) (f : Workgroup → Workgroup) : (s.modWg k f).launches = s.launches := by
  unfold State.modWg; split <;> rfl
@[simp] theorem State.modWg_modules (s : State) (k : Nat) (f : Workgroup → Workgroup) : (s.modWg k f).modules = s.modules := by
  unfold State.modWg; split <;> rfl
@[simp] theorem State.modWg_infos (s : State) (k : Nat) (f : Workgroup → Workgroup) : (s.modWg k f).infos = s.infos := by
  unfold State.modWg; split <;> rfl
@[simp] theorem State.modWg_mem (s : State) (k : Nat) (f : Workgroup → Workgroup) : (s.modWg k f).mem = s.mem := by
  unfold State.modWg; split <;> rfl
@[simp] theorem State.modWg_hostMem (s : State) (k : Nat) (f : Workgroup → Workgroup) : (s.modWg k f).hostMem = s.hostMem := by
  unfold State.modWg; split <;> rfl
@[simp] theorem State.modWg_poison (s : State) (k : Nat) (f : Workgroup → Workgroup) : (s.modWg k f).poison = s.poison := by
  unfold State.modWg; split <;> rfl
@[simp] theorem State.modWg_issue (s : State) (k : Nat) (f : Workgroup → Workgroup) : (s.modWg k f).issue = s.issue := by
  unfold State.modWg; split <;> rfl
@[simp] theorem State.modWg_agenda (s : State) (k : Nat) (f : Workgroup → Workgroup) : (s.modWg k f).agenda = s.agenda := by
  unfold State.modWg; split <;> rfl
@[simp] theorem State.modWg_freeCtr (s : State) (k : Nat) (f : Workgroup → Workgroup) : (s.modWg k f).freeCtr = s.freeCtr := by
  unfold State.modWg; split <;> rfl

/-! ## Sparse tables -/

theorem Tbl.get?_set_self {α : Type} (k : Nat) (v : α) : ∀ t : Tbl α, Tbl.get? k (Tbl.set k v t) = some v
  | [] => by simp [Tbl.set, Tbl.get?]
  | (a, b) :: t => by
    by_cases h : k < a
    · simp [Tbl.set, h, Tbl.get?]
    · by_cases e : k = a
      · simp [Tbl.set, e, Tbl.get?]
      · simp [Tbl.set, h, e, Tbl.get?, Tbl.get?_set_self k v t]

theorem Tbl.get?_set_other {α : Type} {j k : Nat} (h : j ≠ k) (v : α) : ∀ t : Tbl α, Tbl.get? j (Tbl.set k v t) = Tbl.get? j t
  | [] => by simp [Tbl.set, Tbl.get?, h]
  | (a, b) :: t => by
    by_cases l : k < a
    · simp [Tbl.set, l, Tbl.get?, h]
    · by_cases e : k = a
      · subst e; simp [Tbl.set, Tbl.get?, h]
      · simp [Tbl.set, l, e, Tbl.get?, Tbl.get?_set_other h v t]

theorem Tbl.set_set {α : Type} (k : Nat) (u v : α) : ∀ t : Tbl α, Tbl.set k v (Tbl.set k u t) = Tbl.set k v t
  | [] => by simp [Tbl.set]
  | (a, b) :: t => by
    by_cases l : k < a
    · simp [Tbl.set, l]
    · by_cases e : k = a
      · simp [Tbl.set, e]
      · simp [Tbl.set, l, e, Tbl.set_set k u v t]

@[simp] theorem State.core_setCore (s : State) (c : Nat) (x : Core) : (s.setCore c x).core c = x := by
  simp [State.core, Tbl.get, Tbl.get?_set_self]
@[simp] theorem State.cluster_setCluster (s : State) (c : Nat) (x : Cluster) : (s.setCluster c x).cluster c = x := by
  simp [State.cluster, Tbl.get, Tbl.get?_set_self]
@[simp] theorem State.die_setDie (s : State) (i : Nat) (x : Die) : (s.setDie i x).die i = x := by
  simp [State.die, Tbl.get, Tbl.get?_set_self]
@[simp] theorem State.wg_setWg (s : State) (k : Nat) (g : Workgroup) : (s.setWg k g).wg k = g := by
  simp [State.wg, Tbl.get, Tbl.get?_set_self]
@[simp] theorem State.info_setInfo (s : State) (a : Nat) (x : CtxInfo) : (s.setInfo a x).info a = x := by
  simp [State.info, Tbl.get, Tbl.get?_set_self]

end Sys2Proof.Machine
end

