-- ==== Sys2Proof/Laws/Lane.lean ====
section
/-! SUPPORT. Sys2Proof/Laws/Lane.lean: what a lane instruction, an event and an advance leave. -/

namespace Sys2Proof.Machine

open Sys2Proof

/-! ## Groups and commits do not show -/

theorem Warp.mergeInto_frame (g : Nat) (w : Warp) : ∃ ts, w.mergeInto g = { w with threads := ts } ∧ ts.map Thread.view = w.threads.map Thread.view := by
  unfold Warp.mergeInto
  split
  · exact ⟨_, rfl, rfl⟩
  · split
    · refine ⟨_, rfl, ?_⟩
      simp only [List.map_map]
      apply List.map_congr_left
      intro t _
      simp only [Function.comp]
      split <;> rfl
    · exact ⟨_, rfl, rfl⟩

theorem Warp.mergeAt_frame (w : Warp) : ∃ ts, w.mergeAt = { w with threads := ts } ∧ ts.map Thread.view = w.threads.map Thread.view :=
  w.mergeInto_frame w.turn

theorem Warp.mergeAll_frame (w : Warp) : ∃ ts, w.mergeAll = { w with threads := ts } ∧ ts.map Thread.view = w.threads.map Thread.view := by
  unfold Warp.mergeAll
  obtain ⟨ts, h1, h2⟩ := w.mergeAt_frame
  generalize w.mergeAt.groups.filter (· ≠ w.turn) = gs
  rw [h1, ← h2]
  clear h1 h2
  induction gs generalizing ts with
  | nil => exact ⟨ts, rfl, rfl⟩
  | cons g gs ih =>
    obtain ⟨us, h1, h2⟩ := Warp.mergeInto_frame g { w with threads := ts }
    simp only [List.foldl_cons, h1]
    obtain ⟨vs, h3, h4⟩ := ih us
    exact ⟨vs, h3, h4.trans h2⟩

theorem Thread.commit_view (flip : Flip) (t : Thread) : (t.commit flip).view = t.view := by
  unfold Thread.commit; split <;> rfl

theorem Warp.commitActive_view (flip : Flip) (cycle : Nat) (w : Warp) :
    (w.commitActive flip cycle).threads.map Thread.view = w.threads.map Thread.view := by
  simp only [Warp.commitActive, Warp.mapActive, List.map_map]
  apply List.map_congr_left
  intro t _
  simp only [Function.comp]
  split
  · exact t.commit_view flip
  · rfl

/-! ## Results -/

/-- The values of a lane after results of `ts`. -/
def lastVals (n : Nat) (f : Thread → Val) (ts : List Thread) (lane : Nat) (vs : Tbl Val) : Tbl Val :=
  match ts.reverse.find? fun t => t.lane = lane with
  | some t => vs.set n (f t)
  | none => vs

theorem lastVals_cons (n : Nat) (f : Thread → Val) (t : Thread) (ts : List Thread) (lane : Nat) (vs : Tbl Val) :
    lastVals n f (t :: ts) lane vs = lastVals n f ts lane (if lane = t.lane then vs.set n (f t) else vs) := by
  unfold lastVals
  simp only [List.reverse_cons, List.find?_append]
  cases ts.reverse.find? (fun t => decide (t.lane = lane)) with
  | some a => by_cases h : lane = t.lane <;> simp [h, Tbl.set_set]
  | none =>
    by_cases h : t.lane = lane
    · simp [h]
    · have h' : ¬ lane = t.lane := fun e => h e.symm
      simp [h, h']

def Thread.withVals (t : Thread) (v : Tbl Val) : Thread := { t with vals := v }

theorem Warp.putAll_portable (iss : Issue) (hm : iss.mode = .portable) (f : Thread → Val) (ts : List Thread) (w : Warp) :
    w.putAll iss f ts = { w with threads := w.threads.map fun u => u.withVals (lastVals iss.n f ts u.lane u.vals) } := by
  induction ts generalizing w with
  | nil =>
    have : (fun u : Thread => u.withVals (lastVals iss.n f [] u.lane u.vals)) = id := by funext u; rfl
    rw [this, List.map_id]; rfl
  | cons t ts ih =>
    have step : w.putAll iss f (t :: ts) = (w.put iss t.lane (f t)).putAll iss f ts := rfl
    have one : w.put iss t.lane (f t) = { w with threads := w.threads.map fun u => if u.lane = t.lane then u.withVals (u.vals.set iss.n (f t)) else u } := by
      unfold Warp.put; rw [hm]; rfl
    rw [step, ih, one]
    simp only [List.map_map]
    congr 1
    apply List.map_congr_left
    intro u _
    simp only [Function.comp, lastVals_cons]
    split <;> rfl

/-! ## Advancing -/

theorem State.advance_portable (s : State) (c : Cx) (hm : c.iss.mode = .portable) (w : Warp) (ends : Bool) :
    ∃ w', s.advance c w ends = { s with warps := s.warps.set c.key w', issue := none } ∧
      w' = { w with threads := w'.threads, ccnt := w'.ccnt, hangBase := w'.hangBase, regErr := w'.regErr } ∧
      w'.threads.map Thread.view = w.threads.map fun u => ({ u with pc := if u.live && u.grp = w.turn then u.pc.succ else u.pc } : Thread).view := by
  have base : (w.mapActive fun t => { t with pc := { t.pc with pix := t.pc.pix + 1 } }).threads.map Thread.view =
      w.threads.map fun u => ({ u with pc := if u.live && u.grp = w.turn then u.pc.succ else u.pc } : Thread).view := by
    simp only [Warp.mapActive, List.map_map]
    apply List.map_congr_left
    intro u _
    simp only [Function.comp]
    by_cases h : (u.live && u.grp = w.turn) = true <;> simp [h, PC.succ]
  unfold State.advance
  rw [hm]
  simp only
  split
  · obtain ⟨ts, h1, h2⟩ := Warp.mergeAt_frame ((w.mapActive fun t => { t with pc := { t.pc with pix := t.pc.pix + 1 } }).commitActive c.flip s.cycle)
    rw [h1]
    exact ⟨_, rfl, rfl, h2.trans ((Warp.commitActive_view c.flip s.cycle _).trans base)⟩
  · obtain ⟨ts, h1, h2⟩ := Warp.mergeAt_frame (w.mapActive fun t => { t with pc := { t.pc with pix := t.pc.pix + 1 } })
    rw [h1]
    exact ⟨_, rfl, rfl, h2.trans base⟩

theorem State.advance_native (s : State) (c : Cx) {e : Eng} {d : NReg} {l : W64} (hm : c.iss.mode = .native e d l) (w : Warp) :
    s.advance c w false = { s with warps := s.warps.set c.key (w.mapActive fun t => { t with pc := t.pc.succ }), issue := none } := by
  unfold State.advance; rw [hm]; rfl

/-! ## Events -/

theorem State.takeEvent_leaves (s : State) (c : Cx) (e : EvInfo) (lanes : List Nat) :
    ∃ w', s.takeEvent c e lanes = { s with warps := s.warps.set c.key w', issue := none } ∧
      ∃ ev, w' = { c.w with event := some ev } ∧ ev.code = e.code ∧ ev.qual = e.qual ∧ ev.faddr = e.faddr ∧
        ev.flanes = lanesOf lanes ∧ ev.glanes = lanesOf c.w.activeLanes ∧ ev.precise = true :=
  ⟨_, rfl, _, rfl, rfl, rfl, rfl, rfl, rfl, rfl⟩

theorem firstEvent_none {chk : Thread → Option EvInfo} {ts : List Thread} (h : ∀ t ∈ ts, chk t = none) : firstEvent chk ts = none := by
  have : ts.findSome? chk = none := List.findSome?_eq_none_iff.mpr h
  simp [firstEvent, this]

/-! ## A lane instruction -/

/-- A native result leaves every thread, and which group holds the turn. -/
theorem Warp.put_native (iss : Issue) {e : Eng} {d : NReg} {l : W64} (hm : iss.mode = .native e d l) (lane : Nat) (v : Val) (w : Warp) :
    (w.put iss lane v).threads = w.threads ∧ (w.put iss lane v).turn = w.turn := by
  have wr : ∀ bits, (w.writeReg lane bits v d).threads = w.threads ∧ (w.writeReg lane bits v d).turn = w.turn := by
    intro bits; cases d <;> exact ⟨rfl, rfl⟩
  unfold Warp.put
  rw [hm]
  dsimp only
  split
  · exact ⟨rfl, rfl⟩
  · split
    · exact wr _
    · exact wr _

theorem Warp.putAll_native (iss : Issue) {e : Eng} {d : NReg} {l : W64} (hm : iss.mode = .native e d l) (f : Thread → Val) (ts : List Thread) (w : Warp) :
    (w.putAll iss f ts).threads = w.threads ∧ (w.putAll iss f ts).turn = w.turn := by
  induction ts generalizing w with
  | nil => exact ⟨rfl, rfl⟩
  | cons t ts ih =>
    have h1 := ih (w.put iss t.lane (f t))
    have h2 := w.put_native iss hm t.lane (f t)
    exact ⟨h1.1.trans h2.1, h1.2.trans h2.2⟩

/-- An advance leaves the warp passed, whatever the form. -/
theorem State.advance_native_shows (s : State) (c : Cx) {e : Eng} {d : NReg} {l : W64} (hm : c.iss.mode = .native e d l) (w : Warp)
    (ht : w.threads = c.w.threads) (hg : w.turn = c.w.turn) :
    ∃ w', s.advance c w false = { s with warps := s.warps.set c.key w', issue := none } ∧ w' = { w with threads := w'.threads } ∧ c.Shows c.passed w' := by
  refine ⟨_, s.advance_native c hm _, rfl, ?_⟩
  unfold Cx.Shows
  show List.map Thread.view (w.threads.map fun t => if t.live && t.grp = w.turn then { t with pc := t.pc.succ } else t) = _
  rw [ht, hg, List.map_map]
  apply List.map_congr_left
  intro u _
  simp only [Function.comp, Cx.passed]
  split <;> rfl

theorem putAll_result (s : State) (c : Cx) (f : Thread → Val) :
    ∃ w', s.advance c (c.w.putAll c.iss f c.active) false = { s with warps := s.warps.set c.key w', issue := none } ∧ c.Took f w' := by
  unfold Cx.Took
  cases hm : c.iss.mode with
  | portable =>
    obtain ⟨w', h1, h2, h3⟩ := s.advance_portable c hm (c.w.putAll c.iss f c.active) false
    refine ⟨w', h1, ?_, ?_⟩
    · rw [Warp.putAll_portable _ hm] at h2
      unfold Cx.KeepsWarp
      rw [h2]
    · unfold Cx.Shows
      rw [h3, Warp.putAll_portable _ hm]
      simp only [List.map_map]
      apply List.map_congr_left
      intro u _
      rfl
  | native e d l =>
    obtain ⟨h1, h2⟩ := c.w.putAll_native c.iss hm f c.active
    obtain ⟨w', e1, e2, e3⟩ := s.advance_native_shows c hm _ h1 h2
    refine ⟨w', e1, ?_, e3⟩
    dsimp only
    rw [e2]

theorem withCx_next {s : State} {c : Cx} (hc : s.cx? = some c) (f : Cx → State) : withCx s f = .next (f c) := by
  unfold withCx; rw [hc]

theorem State.precise_none (s : State) (c : Cx) {chk : Thread → Option EvInfo} (h : ∀ t ∈ c.active, chk t = none) (k : State) :
    s.precise c chk k = k := by
  unfold State.precise; rw [firstEvent_none h]

/-- `laneOp` where no thread that is not predicated off raises an event. -/
theorem laneOp_result {s : State} {c : Cx} (hc : s.cx? = some c) (i : Instr) (p : Pred) (rty : Ty) (first : Cx → Thread → Option Val)
    (ev : Cx → Thread → Except EvInfo Val) (hi : exec i s = laneOp s p rty first ev)
    (h : ∀ t ∈ c.active, c.off p t = false → ∃ v, ev c t = .ok v) :
    LaneResult s c i fun t => c.laneVal p rty (first c t) t (ev c t) := by
  obtain ⟨w', h1, h2⟩ := putAll_result s c fun t => c.laneVal p rty (first c t) t (ev c t)
  refine ⟨w', ?_, h2⟩
  rw [hi, laneOp, withCx_next hc, State.precise_none, h1]
  intro t ht
  unfold Cx.laneEvent
  cases ho : c.off p t with
  | true => rfl
  | false => obtain ⟨v, hv⟩ := h t ht ho; simp [hv]

/-- `laneOp` where the evaluation never fails and the result type is static. -/
theorem laneOp_total {s : State} {c : Cx} (hc : s.cx? = some c) (i : Instr) (p : Pred) (rty : Ty) (hr : rty ≠ tyDyn) (first : Cx → Thread → Option Val)
    (ev : Cx → Thread → Except EvInfo Val) (hi : exec i s = laneOp s p rty first ev) (g : Thread → W64)
    (h : ∀ t, ev c t = .ok (mkVal rty (g t))) : LaneResult s c i (c.under p rty g) := by
  have r := laneOp_result hc i p rty first ev hi fun t _ _ => ⟨_, h t⟩
  have e : (fun t => c.laneVal p rty (first c t) t (ev c t)) = c.under p rty g := by
    funext t
    simp only [Cx.under, Cx.laneVal, offTag, if_neg hr, h t]
    rfl
  rw [← e]
  exact r

/-- `laneOp` where some thread that is not predicated off raises an event. -/
theorem laneOp_stops {s : State} {c : Cx} (hc : s.cx? = some c) (i : Instr) (p : Pred) (rty : Ty) (first : Cx → Thread → Option Val)
    (ev : Cx → Thread → Except EvInfo Val) (hi : exec i s = laneOp s p rty first ev) {e : EvInfo} {ls : List Nat}
    (h : firstEvent (fun t => c.laneEvent p t (ev c t)) c.active = some (e, ls)) : Stops s c i e ls := by
  obtain ⟨w', h1, h2⟩ := s.takeEvent_leaves c e ls
  refine ⟨w', ?_, h2⟩
  rw [hi, laneOp, withCx_next hc, State.precise, h, ← h1]

/-! ## Checks -/

theorem Warp.putAll_congr (iss : Issue) {f g : Thread → Val} {ts : List Thread} (h : ∀ t ∈ ts, f t = g t) (w : Warp) :
    w.putAll iss f ts = w.putAll iss g ts := by
  induction ts generalizing w with
  | nil => rfl
  | cons t ts ih =>
    show (w.put iss t.lane (f t)).putAll iss f ts = (w.put iss t.lane (g t)).putAll iss g ts
    rw [h t (by simp), ih fun u hu => h u (by simp [hu])]

theorem LaneResult.congr {s : State} {c : Cx} {i : Instr} {f g : Thread → Val} (h : ∀ t ∈ c.active, f t = g t) (r : LaneResult s c i f) :
    LaneResult s c i g := by
  obtain ⟨w', h1, h2⟩ := r
  refine ⟨w', h1, ?_⟩
  unfold Cx.Took at h2 ⊢
  cases hm : c.iss.mode with
  | portable =>
    rw [hm] at h2
    refine ⟨h2.1, Eq.trans h2.2 ?_⟩
    apply List.map_congr_left
    intro u _
    unfold Cx.resulted
    cases hh : c.holder u.lane with
    | none => rfl
    | some t =>
      have : t ∈ c.active := by
        unfold Cx.holder at hh
        exact List.mem_reverse.mp (List.mem_of_find?_eq_some hh)
      simp only [h t this]
  | native e d l =>
    rw [hm] at h2
    refine ⟨?_, h2.2⟩
    rw [← Warp.putAll_congr c.iss h]
    exact h2.1

theorem firstEvent_some {chk : Thread → Option EvInfo} {e : EvInfo} {ts : List Thread} (h : ∀ t, chk t = none ∨ chk t = some e)
    (hx : ∃ t ∈ ts, chk t = some e) : firstEvent chk ts = some (e, (ts.filter fun t => (chk t).isSome).map Thread.lane) := by
  have hf : ts.findSome? chk = some e := by
    obtain ⟨t, ht, he⟩ := hx
    cases hs : ts.findSome? chk with
    | none => rw [List.findSome?_eq_none_iff] at hs; rw [hs t ht] at he; simp at he
    | some x =>
      obtain ⟨u, hu⟩ := List.exists_of_findSome?_eq_some hs
      rcases h u with h0 | h0
      · rw [h0] at hu; simp at hu
      · rw [h0] at hu; simp at hu; rw [hu.2]
  simp only [firstEvent, hf]
  congr 2
  congr 1
  apply List.filter_congr
  intro t _
  rcases h t with h0 | h0 <;> simp [h0]

/-- `laneOp` with one check, by what it evaluates to in a thread that is not predicated off and what a thread predicated off gets. -/
theorem laneOp_checked {s : State} {c : Cx} (hc : s.cx? = some c) (i : Instr) (p : Pred) (rty : Ty) (first : Cx → Thread → Option Val)
    (ev : Cx → Thread → Except EvInfo Val) (hi : exec i s = laneOp s p rty first ev) (bad : Thread → Bool) (code : Nat) (f : Thread → Val)
    (h1 : ∀ t, c.off p t = false → bad t = true → ev c t = .error { code := code })
    (h2 : ∀ t, c.off p t = false → bad t = false → ev c t = .ok (f t))
    (h3 : ∀ t, c.off p t = true → f t = { bits := 0, tag := offTag rty (first c t) (ev c t) }) :
    CheckedResult s c i p bad code f := by
  have chk : ∀ t, c.laneEvent p t (ev c t) = if !c.off p t && bad t then some { code := code } else none := by
    intro t
    unfold Cx.laneEvent
    cases ho : c.off p t with
    | true => rfl
    | false =>
      cases hb : bad t with
      | true => simp [h1 t ho hb]
      | false => simp [h2 t ho hb]
  unfold CheckedResult
  split
  · rename_i hr
    have hno : ∀ t ∈ c.active, (!c.off p t && bad t) = false := by
      intro t ht
      cases hx : (!c.off p t && bad t) with
      | false => rfl
      | true =>
        have : t.lane ∈ c.raising p bad := List.mem_map.mpr ⟨t, List.mem_filter.mpr ⟨ht, hx⟩, rfl⟩
        rw [hr] at this
        exact absurd this (by simp)
    refine LaneResult.congr ?_ (laneOp_result hc i p rty first ev hi ?_)
    · intro t ht
      unfold Cx.laneVal
      cases ho : c.off p t with
      | true => simp [h3 t ho]
      | false =>
        have hb : bad t = false := by have := hno t ht; simpa [ho] using this
        simp [h2 t ho hb]
    · intro t ht ho
      have hb : bad t = false := by have := hno t ht; simpa [ho] using this
      exact ⟨_, h2 t ho hb⟩
  · rename_i hr
    have hx : ∃ t ∈ c.active, c.laneEvent p t (ev c t) = some { code := code } := by
      cases hl : c.active.filter (fun t => !c.off p t && bad t) with
      | nil => exact absurd (by unfold Cx.raising; rw [hl]; rfl) hr
      | cons t ts =>
        have hm : t ∈ c.active.filter (fun t => !c.off p t && bad t) := by rw [hl]; simp
        obtain ⟨hm1, hm2⟩ := List.mem_filter.mp hm
        exact ⟨t, hm1, by rw [chk t, if_pos hm2]⟩
    have hls := firstEvent_some (e := { code := code }) (ts := c.active) (fun t => by rw [chk t]; split <;> simp) hx
    have e : (c.active.filter fun t => (c.laneEvent p t (ev c t)).isSome).map Thread.lane = c.raising p bad := by
      unfold Cx.raising
      congr 1
      apply List.filter_congr
      intro t _
      rw [chk t]
      cases (!c.off p t && bad t) <;> rfl
    rw [e] at hls
    exact laneOp_stops hc i p rty first ev hi hls

end Sys2Proof.Machine
end

