-- ==== Sys2Proof/Laws/Memory.lean ====
section
/-! SUPPORT. Sys2Proof/Laws/Memory.lean: byte tables keep their canonical form; a read after a write. -/

namespace Sys2Proof.Machine

open Sys2Proof

/-! ## The canonical form -/

theorem Memory.wf_tail {p : Host.Cell} {t : List Host.Cell} (h : Memory.wf (p :: t) = true) : Memory.wf t = true := by
  cases t with
  | nil => rfl
  | cons q t => simp [Memory.wf] at h; exact h.2

/-- A canonical table whose addresses all lie above `k`. -/
theorem Memory.wf_cons {k : Nat} {v : Byte} {t : List Host.Cell} (hv : v ≠ 0) (ht : Memory.wf t = true)
    (hk : ∀ p ∈ t.head?, k < p.1) : Memory.wf ((k, v) :: t) = true := by
  cases t with
  | nil => simpa [Memory.wf] using hv
  | cons q t => simp [Memory.wf, ht, hk q (by simp)]; exact hv

theorem cellSet_head {m : List Host.Cell} {k : Nat} {v : Byte} {a : Nat} (hw : Memory.wf m = true) (ha : ∀ p ∈ m.head?, a < p.1) (hk : a < k) :
    ∀ p ∈ (cellSet m k v).head?, a < p.1 := by
  cases m with
  | nil => unfold cellSet; split <;> simp [hk]
  | cons q t =>
    have hq : a < q.1 := ha q (by simp)
    unfold cellSet
    split
    · split <;> simp [hk, hq]
    · split
      · split
        · cases t with
          | nil => simp
          | cons r t => simp [Memory.wf] at hw; simp; omega
        · simp [hk]
      · simp [hq]

/-- A byte write keeps the canonical form. -/
theorem cellSet_wf : ∀ (m : List Host.Cell) (k : Nat) (v : Byte), Memory.wf m = true → Memory.wf (cellSet m k v) = true
  | [], k, v, _ => by unfold cellSet; split <;> simp_all [Memory.wf]
  | (a, b) :: t, k, v, h => by
    have ht := Memory.wf_tail h
    have hb : b ≠ 0 := by
      cases t with
      | nil => simpa [Memory.wf] using h
      | cons q t => simp [Memory.wf] at h; exact h.1.1
    have hh : ∀ p ∈ t.head?, a < p.1 := by
      cases t with
      | nil => simp
      | cons q t => simp [Memory.wf] at h; simp; exact h.1.2
    unfold cellSet
    split
    · split
      · exact h
      · exact Memory.wf_cons ‹_› h (by simpa)
    · split
      · subst_vars
        split
        · exact ht
        · exact Memory.wf_cons ‹_› ht hh
      · exact Memory.wf_cons hb (cellSet_wf t k v ht) (cellSet_head ht hh (by omega))

theorem cellsSet_wf (m : List Host.Cell) (a : Nat) (bs : List Byte) (h : Memory.wf m = true) : Memory.wf (cellsSet m a bs) = true := by
  induction bs generalizing m a with
  | nil => exact h
  | cons b bs ih => exact ih _ _ (cellSet_wf m a b h)

/-! ## Reads after writes -/

theorem cellGet_below {m : List Host.Cell} {k : Nat} (hw : Memory.wf m = true) (h : ∀ p ∈ m.head?, k < p.1) : cellGet m k = 0 := by
  induction m with
  | nil => rfl
  | cons p t ih =>
    have hk : k < p.1 := h p (by simp)
    have : cellGet (p :: t) k = cellGet t k := by
      simp [cellGet]; omega
    rw [this]
    apply ih (Memory.wf_tail hw)
    cases t with
    | nil => simp
    | cons q t => simp [Memory.wf] at hw; simp; omega

/-- A byte read after a byte write of a canonical table. -/
theorem cellGet_cellSet : ∀ (m : List Host.Cell) (k j : Nat) (v : Byte), Memory.wf m = true →
    cellGet (cellSet m k v) j = if j = k then v else cellGet m j
  | [], k, j, v, _ => by
    unfold cellSet
    split <;> by_cases h : j = k <;> simp_all [cellGet]
  | (a, b) :: t, k, j, v, hw => by
    have ht := Memory.wf_tail hw
    have hh : ∀ p ∈ t.head?, a < p.1 := by
      cases t with
      | nil => simp
      | cons q t => simp [Memory.wf] at hw; simp; exact hw.1.2
    have hlow : ∀ i, i ≤ a → cellGet t i = 0 := fun i hi =>
      cellGet_below ht fun p hp => Nat.lt_of_le_of_lt hi (hh p hp)
    unfold cellSet
    split
    · rename_i hka
      split
      · rename_i hv
        by_cases h : j = k
        · subst h; simp [cellGet, hlow j (by omega), hv]; omega
        · simp [h]
      · by_cases h : j = k <;> simp [cellGet, h]
    · split
      · rename_i hka
        subst hka
        split
        · rename_i hv
          by_cases h : j = k
          · subst h; simp [hlow j (Nat.le_refl _), hv]
          · simp [cellGet, h]
        · by_cases h : j = k <;> simp [cellGet, h]
      · rename_i h1 h2
        simp only [cellGet, cellGet_cellSet t k j v ht]
        by_cases h : j = a
        · subst h; simp; omega
        · simp [h]

/-! ## The memory operations of State -/

theorem State.setByte_memOk (s : State) (pa : Nat) (b : Byte) (h : s.memOk) : (s.setByte pa b).memOk := by
  unfold State.setByte
  split
  · exact ⟨cellSet_wf _ _ _ h.1, h.2⟩
  · exact h

theorem State.setBytes_memOk (s : State) (pa : Nat) (bs : List Byte) (h : s.memOk) : (s.setBytes pa bs).memOk := by
  induction bs generalizing s pa with
  | nil => exact h
  | cons b bs ih => exact ih _ _ (State.setByte_memOk s pa b h)

theorem State.setByte_mem_other (s : State) (pa : Nat) (b : Byte) (h : s.memOk) (j : Nat) (hj : j ≠ pa) :
    (s.setByte pa b).byte j = s.byte j := by
  have e := cellGet_cellSet s.mem pa j b h.1
  rw [if_neg hj] at e
  by_cases hd : deviceByte pa = true <;> simp [State.setByte, State.byte, hd, e]

theorem State.setByte_mem_self (s : State) (pa : Nat) (b : Byte) (h : s.memOk) (hd : deviceByte pa = true) : (s.setByte pa b).byte pa = b := by
  simp [State.setByte, State.byte, hd, cellGet_cellSet _ _ _ _ h.1]

/-- The bytes that a list of bytes is written over, and every other byte. -/
theorem State.setBytes_byte (s : State) (pa : Nat) (bs : List Byte) (h : s.memOk) (hd : ∀ i < bs.length, deviceByte (pa + i) = true) (a : Nat) :
    (s.setBytes pa bs).byte a = if pa ≤ a ∧ a < pa + bs.length then bs.getD (a - pa) 0 else s.byte a := by
  induction bs generalizing s pa with
  | nil => rw [if_neg (by simp)]; rfl
  | cons b bs ih =>
    have hb := hd 0 (by simp)
    show ((s.setByte pa b).setBytes (pa + 1) bs).byte a = _
    rw [ih _ _ (State.setByte_memOk s pa b h) fun i hi => by have := hd (i + 1) (by simp; omega); rwa [Nat.add_right_comm, Nat.add_assoc]]
    by_cases ha : a = pa
    · subst ha
      rw [if_neg (by omega), if_pos (by simp), Nat.sub_self, List.getD_cons_zero]
      exact State.setByte_mem_self s a b h hb
    · rw [State.setByte_mem_other s pa b h a ha]
      by_cases hr : pa + 1 ≤ a ∧ a < pa + 1 + bs.length
      · rw [if_pos hr, if_pos (by simp; omega), show a - pa = (a - (pa + 1)) + 1 by omega, List.getD_cons_succ]
      · rw [if_neg hr, if_neg (by simp; omega)]

theorem leBytes_length (n v : Nat) : (leBytes n v).length = n := by induction n generalizing v with | zero => rfl | succ n ih => simp [leBytes, ih]

/-- A number that fits its bytes is the number they give. -/
theorem leNat_leBytes (n v : Nat) (h : v < 256 ^ n) : leNat (leBytes n v) = v := by
  induction n generalizing v with
  | zero => simp at h; subst h; rfl
  | succ n ih =>
    show (BitVec.ofNat 8 v).toNat + 256 * leNat (leBytes n (v / 256)) = v
    rw [ih _ (by rw [Nat.pow_succ] at h; omega), BitVec.toNat_ofNat]
    omega

/-- Bytes read apart from those written, and the bytes written. -/
theorem State.setBytes_bytesAt_other (s : State) (pa : Nat) (bs : List Byte) (h : s.memOk) (hd : ∀ i < bs.length, deviceByte (pa + i) = true) (a n : Nat)
    (hr : a + n ≤ pa ∨ pa + bs.length ≤ a) : (s.setBytes pa bs).bytesAt a n = s.bytesAt a n := by
  refine List.map_congr_left fun i hi => ?_
  have := List.mem_range.mp hi
  rw [State.setBytes_byte s pa bs h hd, if_neg (by omega)]

theorem State.setBytes_bytesAt_self (s : State) (pa : Nat) (bs : List Byte) (h : s.memOk) (hd : ∀ i < bs.length, deviceByte (pa + i) = true) :
    (s.setBytes pa bs).bytesAt pa bs.length = bs := by
  refine List.ext_getElem (by simp [State.bytesAt]) fun i h1 h2 => ?_
  simp only [State.bytesAt, List.getElem_map, List.getElem_range, State.setBytes_byte s pa bs h hd]
  rw [if_pos (by omega), Nat.add_sub_cancel_left, List.getD_eq_getElem?_getD, List.getElem?_eq_getElem h2]; rfl

/-- What bytes written to memory leave alone. -/
theorem State.setBytes_rest (bs : List Byte) : ∀ (s : State) (pa : Nat), s.setBytes pa bs = { s with mem := (s.setBytes pa bs).mem, poison := (s.setBytes pa bs).poison } := by
  induction bs with
  | nil => exact fun s pa => rfl
  | cons b bs ih =>
    intro s pa
    show (s.setByte pa b).setBytes (pa + 1) bs = _
    rw [ih]
    by_cases hd : deviceByte pa = true <;> simp [State.setByte, State.setBytes, hd]

end Sys2Proof.Machine
end

