-- ==== Sys2Proof/Laws/Paths.lean ====
section
/-! SUPPORT. Sys2Proof/Laws/Paths.lean: what turns, groups and jumps leave: only where threads stand, their groups and the turn. -/

namespace Sys2Proof.Machine

open Sys2Proof

/-- Only groups, turns and commits differ, and no thread shows it. -/
def Warp.SamePaths (w w' : Warp) : Prop :=
  w' = { w with threads := w'.threads, turn := w'.turn, turnStart := w'.turnStart, stamps := w'.stamps, stampClock := w'.stampClock
                yielded := w'.yielded, nextGrp := w'.nextGrp, fairPin := w'.fairPin, slipw := w'.slipw, ccnt := w'.ccnt, hangBase := w'.hangBase, regErr := w'.regErr }

theorem Warp.SamePaths.refl (w : Warp) : w.SamePaths w := rfl

theorem Warp.SamePaths.trans {a b c : Warp} (h : a.SamePaths b) (g : b.SamePaths c) : a.SamePaths c := by
  unfold Warp.SamePaths at *
  rw [g, h]

theorem Warp.mergeAt_paths (w : Warp) : w.SamePaths w.mergeAt ∧ w.mergeAt.threads.map Thread.view = w.threads.map Thread.view ∧ w.mergeAt.turn = w.turn := by
  obtain ⟨ts, h, hv⟩ := w.mergeAt_frame
  rw [h]
  exact ⟨rfl, hv, rfl⟩

theorem Warp.mergeAll_paths (w : Warp) : w.SamePaths w.mergeAll ∧ w.mergeAll.threads.map Thread.view = w.threads.map Thread.view := by
  obtain ⟨ts, h, hv⟩ := w.mergeAll_frame
  rw [h]
  exact ⟨rfl, hv⟩

theorem Warp.giveTurn_paths (cycle g : Nat) (w : Warp) : w.SamePaths (w.giveTurn cycle g) ∧ (w.giveTurn cycle g).threads = w.threads := ⟨rfl, rfl⟩

theorem Warp.fixTurn_paths (cycle : Nat) (w : Warp) : w.SamePaths (w.fixTurn cycle) ∧ (w.fixTurn cycle).threads.map Thread.view = w.threads.map Thread.view := by
  unfold Warp.fixTurn
  split
  · exact ⟨rfl, rfl⟩
  · split
    · rename_i g _
      exact ⟨(w.giveTurn_paths cycle g).1.trans (w.giveTurn cycle g).mergeAt_paths.1, (w.giveTurn cycle g).mergeAt_paths.2.1⟩
    · exact ⟨rfl, rfl⟩

theorem Warp.fixTurn_ready (cycle : Nat) {w : Warp} (h : w.ready w.turn = true) : w.fixTurn cycle = w := by
  unfold Warp.fixTurn; rw [if_pos h]

theorem Warp.endTurn_paths (cycle : Nat) (w : Warp) : w.SamePaths (w.endTurn cycle) ∧ (w.endTurn cycle).threads.map Thread.view = w.threads.map Thread.view := by
  unfold Warp.endTurn
  dsimp only
  split
  · rename_i g _
    have h1 := ({ w with stamps := w.stamps.set w.turn w.stampClock, stampClock := w.stampClock + 1 } : Warp).giveTurn_paths cycle g
    have h2 := (({ w with stamps := w.stamps.set w.turn w.stampClock, stampClock := w.stampClock + 1 } : Warp).giveTurn cycle g).mergeAll_paths
    have h0 : w.SamePaths { w with stamps := w.stamps.set w.turn w.stampClock, stampClock := w.stampClock + 1 } := rfl
    exact ⟨h0.trans (h1.1.trans h2.1), h2.2⟩
  · exact ⟨rfl, rfl⟩

theorem Warp.commitActive_paths (flip : Flip) (cycle : Nat) (w : Warp) :
    w.SamePaths (w.commitActive flip cycle) ∧ (w.commitActive flip cycle).threads.map Thread.view = w.threads.map Thread.view ∧
      (w.commitActive flip cycle).turn = w.turn ∧ (w.commitActive flip cycle).ccnt = w.ccnt + 1 := ⟨rfl, w.commitActive_view flip cycle, rfl, rfl⟩

/-- A jump: the warp stands where `w` says, and its commit count rises where a region ended. -/
theorem State.goTo_leaves (s : State) (c : Cx) (w : Warp) (ends : Bool) :
    ∃ w', s.goTo c w ends = { s with warps := s.warps.set c.key w', issue := none } ∧ w.SamePaths w' ∧ w'.turn = w.turn ∧
      w'.threads.map Thread.view = w.threads.map Thread.view ∧ (ends = true → w'.ccnt = w.ccnt + 1) := by
  unfold State.goTo
  dsimp only
  split
  · refine ⟨_, rfl, (w.commitActive_paths c.flip s.cycle).1.trans (Warp.mergeAt_paths _).1, (Warp.mergeAt_paths _).2.2, ?_, fun _ => ?_⟩
    · exact (Warp.mergeAt_paths _).2.1.trans (w.commitActive_view c.flip s.cycle)
    · obtain ⟨ts, h, _⟩ := (w.commitActive c.flip s.cycle).mergeAt_frame
      rw [h]; rfl
  · rename_i h
    refine ⟨_, rfl, (Warp.mergeAt_paths _).1, (Warp.mergeAt_paths _).2.2, (Warp.mergeAt_paths _).2.1, fun e => ?_⟩
    simp [e] at h

theorem Warp.divideByPlace_paths (cycle : Nat) (w : Warp) :
    w.SamePaths (w.divideByPlace cycle) ∧ (w.divideByPlace cycle).threads.map Thread.view = w.threads.map Thread.view ∧
      (w.divideByPlace cycle).turn = w.turn ∧ (w.divideByPlace cycle).ccnt = w.ccnt := by
  unfold Warp.divideByPlace
  split
  · exact ⟨rfl, rfl, rfl, rfl⟩
  · rename_i t0 ts _
    unfold Warp.divideAt
    dsimp only
    split
    · exact ⟨rfl, rfl, rfl, rfl⟩
    · refine ⟨rfl, ?_, rfl, rfl⟩
      simp only [List.map_map]
      apply List.map_congr_left
      intro t _
      simp only [Function.comp]
      split <;> rfl

theorem Warp.mapActive_paths (f : Thread → Thread) (w : Warp) :
    w.SamePaths (w.mapActive f) ∧ (w.mapActive f).threads = w.threads.map (fun t => if t.live && t.grp = w.turn then f t else t) := ⟨rfl, rfl⟩

/-- The active threads of a warp all waiting or halted, or not. -/
theorem Warp.ready_iff (w : Warp) (g : Nat) :
    w.ready g = true ↔ (∃ t ∈ w.threads, t.live = true ∧ t.grp = g) ∧ ∀ t ∈ w.threads, t.live = true → t.grp = g → t.wait = .none ∧ t.halted = false := by
  unfold Warp.ready
  simp only [Bool.and_eq_true, Bool.not_eq_true', List.isEmpty_eq_false_iff, List.all_eq_true, List.mem_filter, decide_eq_true_eq]
  constructor
  · rintro ⟨h1, h2⟩
    obtain ⟨t, ht⟩ := List.exists_mem_of_ne_nil _ h1
    rw [List.mem_filter] at ht
    simp only [Bool.and_eq_true, decide_eq_true_eq] at ht
    exact ⟨⟨t, ht.1, ht.2⟩, fun u hu hl hg => h2 u ⟨hu, hl, hg⟩⟩
  · rintro ⟨⟨t, ht, hl, hg⟩, h2⟩
    refine ⟨List.ne_nil_of_mem (a := t) ?_, fun u hu => h2 u hu.1 hu.2.1 hu.2.2⟩
    simp [List.mem_filter, ht, hl, hg]

theorem State.cx_get {s : State} {c : Cx} (h : s.cx? = some c) : s.warps.get? c.key = some c.w ∧ s.issue = some c.iss ∧ c.key = wkey c.iss.core c.iss.slot := by
  unfold State.cx? at h
  cases hi : s.issue with
  | none => simp [hi] at h
  | some iss =>
    rw [hi] at h
    dsimp only at h
    cases hw : s.warps.get? (wkey iss.core iss.slot) with
    | none => rw [hw] at h; simp at h
    | some w => rw [hw] at h; simp only [Option.some.injEq] at h; subst h; exact ⟨hw, rfl, rfl⟩

theorem State.modWarp_set (s : State) (k : Nat) (w : Warp) (f : Warp → Warp) :
    State.modWarp { s with warps := s.warps.set k w, issue := none } k f = { s with warps := s.warps.set k (f w), issue := none } := by
  unfold State.modWarp
  dsimp only
  rw [Tbl.get?_set_self]
  show State.setWarp _ _ _ = _
  unfold State.setWarp
  dsimp only
  rw [Tbl.set_set]

end Sys2Proof.Machine
end

