-- ==== Sys2Proof/Laws/PerInstr.lean ====
section
/-! SUPPORT. Sys2Proof/Laws/PerInstr.lean: the family Codec: the opcode of each instruction's header (R56) fits its field, and is one that
R66 assigns exactly where the instruction is portable. -/

namespace Sys2Proof.Laws.Codec

open Sys2Proof

/-- The opcode has 8 bits, and R66 assigns it exactly where portable words encode the instruction. -/
def Statement (i : Instr) : Prop := i.head.1 ≤ 0xFF ∧ opAssigned i.head.1 = i.isPortable

theorem nop : Statement (.nop) := ⟨Nat.le_of_ble_eq_true rfl, rfl⟩
theorem br (a1 : Bool) (a2 : Target) : Statement (.br a1 a2) := ⟨Nat.le_of_ble_eq_true rfl, rfl⟩
theorem brc (a1 : Hint) (a2 : Bool) (a3 : Opnd) (a4 : Target) (a5 : Target) : Statement (.brc a1 a2 a3 a4 a5) := ⟨Nat.le_of_ble_eq_true rfl, rfl⟩
theorem switch (a1 : Bool) (a2 : Opnd) (a3 : Target) (a4 : List Target) : Statement (.switch a1 a2 a3 a4) := ⟨Nat.le_of_ble_eq_true rfl, rfl⟩
theorem call (a1 : Ty) (a2 : BitVec 29) (a3 : List Opnd) : Statement (.call a1 a2 a3) := ⟨Nat.le_of_ble_eq_true rfl, rfl⟩
theorem ret : Statement (.ret) := ⟨Nat.le_of_ble_eq_true rfl, rfl⟩
theorem retValue (a1 : Opnd) : Statement (.retValue a1) := ⟨Nat.le_of_ble_eq_true rfl, rfl⟩
theorem exit : Statement (.exit) := ⟨Nat.le_of_ble_eq_true rfl, rfl⟩
theorem unreachable : Statement (.unreachable) := ⟨Nat.le_of_ble_eq_true rfl, rfl⟩
theorem select (a1 : Ty) (a2 : Pred) (a3 : Opnd) (a4 : Opnd) (a5 : Opnd) : Statement (.select a1 a2 a3 a4 a5) := ⟨Nat.le_of_ble_eq_true rfl, rfl⟩
theorem regn : Statement (.regn) := ⟨Nat.le_of_ble_eq_true rfl, rfl⟩
theorem yield : Statement (.yield) := ⟨Nat.le_of_ble_eq_true rfl, rfl⟩
theorem join (a1 : Fin 12) : Statement (.join a1) := ⟨Nat.le_of_ble_eq_true rfl, rfl⟩
theorem joinCond (a1 : Fin 12) (a2 : Opnd) : Statement (.joinCond a1 a2) := ⟨Nat.le_of_ble_eq_true rfl, rfl⟩
theorem leave (a1 : Fin 12) : Statement (.leave a1) := ⟨Nat.le_of_ble_eq_true rfl, rfl⟩
theorem leaveCond (a1 : Fin 12) (a2 : Opnd) : Statement (.leaveCond a1 a2) := ⟨Nat.le_of_ble_eq_true rfl, rfl⟩
theorem waitm (a1 : Fin 12) : Statement (.waitm a1) := ⟨Nat.le_of_ble_eq_true rfl, rfl⟩
theorem mrdP (a1 : Fin 12) : Statement (.mrdP a1) := ⟨Nat.le_of_ble_eq_true rfl, rfl⟩
theorem mrdB64 (a1 : Fin 12) (a2 : Fin 2) : Statement (.mrdB64 a1 a2) := ⟨Nat.le_of_ble_eq_true rfl, rfl⟩
theorem vote (a1 : VoteMode) (a2 : Opnd) (a3 : Fin 12) : Statement (.vote a1 a2 a3) := ⟨Nat.le_of_ble_eq_true rfl, rfl⟩
theorem voteBallot (a1 : Opnd) (a2 : Fin 2) (a3 : Fin 12) : Statement (.voteBallot a1 a2 a3) := ⟨Nat.le_of_ble_eq_true rfl, rfl⟩
theorem add (a1 : Ty) (a2 : Bool) (a3 : Bool) (a4 : Pred) (a5 : Opnd) (a6 : Opnd) : Statement (.add a1 a2 a3 a4 a5 a6) := ⟨Nat.le_of_ble_eq_true rfl, rfl⟩
theorem sub (a1 : Ty) (a2 : Bool) (a3 : Bool) (a4 : Pred) (a5 : Opnd) (a6 : Opnd) : Statement (.sub a1 a2 a3 a4 a5 a6) := ⟨Nat.le_of_ble_eq_true rfl, rfl⟩
theorem mul (a1 : Ty) (a2 : Bool) (a3 : Bool) (a4 : Pred) (a5 : Opnd) (a6 : Opnd) : Statement (.mul a1 a2 a3 a4 a5 a6) := ⟨Nat.le_of_ble_eq_true rfl, rfl⟩
theorem mulhi (a1 : Ty) (a2 : Bool) (a3 : Pred) (a4 : Opnd) (a5 : Opnd) : Statement (.mulhi a1 a2 a3 a4 a5) := ⟨Nat.le_of_ble_eq_true rfl, rfl⟩
theorem mad (a1 : Ty) (a2 : Bool) (a3 : Bool) (a4 : Pred) (a5 : Opnd) (a6 : Opnd) (a7 : Opnd) : Statement (.mad a1 a2 a3 a4 a5 a6 a7) := ⟨Nat.le_of_ble_eq_true rfl, rfl⟩
theorem div (a1 : Ty) (a2 : Bool) (a3 : Bool) (a4 : Bool) (a5 : Pred) (a6 : Opnd) (a7 : Opnd) : Statement (.div a1 a2 a3 a4 a5 a6 a7) := ⟨Nat.le_of_ble_eq_true rfl, rfl⟩
theorem rem (a1 : Ty) (a2 : Bool) (a3 : Bool) (a4 : Pred) (a5 : Opnd) (a6 : Opnd) : Statement (.rem a1 a2 a3 a4 a5 a6) := ⟨Nat.le_of_ble_eq_true rfl, rfl⟩
theorem neg (a1 : Ty) (a2 : Bool) (a3 : Bool) (a4 : Pred) (a5 : Opnd) : Statement (.neg a1 a2 a3 a4 a5) := ⟨Nat.le_of_ble_eq_true rfl, rfl⟩
theorem abs (a1 : Ty) (a2 : Bool) (a3 : Pred) (a4 : Opnd) : Statement (.abs a1 a2 a3 a4) := ⟨Nat.le_of_ble_eq_true rfl, rfl⟩
theorem min (a1 : Ty) (a2 : Bool) (a3 : Pred) (a4 : Opnd) (a5 : Opnd) : Statement (.min a1 a2 a3 a4 a5) := ⟨Nat.le_of_ble_eq_true rfl, rfl⟩
theorem max (a1 : Ty) (a2 : Bool) (a3 : Pred) (a4 : Opnd) (a5 : Opnd) : Statement (.max a1 a2 a3 a4 a5) := ⟨Nat.le_of_ble_eq_true rfl, rfl⟩
theorem and (a1 : Ty) (a2 : Pred) (a3 : Opnd) (a4 : Opnd) : Statement (.and a1 a2 a3 a4) := ⟨Nat.le_of_ble_eq_true rfl, rfl⟩
theorem or (a1 : Ty) (a2 : Pred) (a3 : Opnd) (a4 : Opnd) : Statement (.or a1 a2 a3 a4) := ⟨Nat.le_of_ble_eq_true rfl, rfl⟩
theorem xor (a1 : Ty) (a2 : Pred) (a3 : Opnd) (a4 : Opnd) : Statement (.xor a1 a2 a3 a4) := ⟨Nat.le_of_ble_eq_true rfl, rfl⟩
theorem not (a1 : Ty) (a2 : Pred) (a3 : Opnd) : Statement (.not a1 a2 a3) := ⟨Nat.le_of_ble_eq_true rfl, rfl⟩
theorem shl (a1 : Ty) (a2 : Pred) (a3 : Opnd) (a4 : Opnd) : Statement (.shl a1 a2 a3 a4) := ⟨Nat.le_of_ble_eq_true rfl, rfl⟩
theorem shr (a1 : Ty) (a2 : Bool) (a3 : Pred) (a4 : Opnd) (a5 : Opnd) : Statement (.shr a1 a2 a3 a4 a5) := ⟨Nat.le_of_ble_eq_true rfl, rfl⟩
theorem rot (a1 : Ty) (a2 : Pred) (a3 : Opnd) (a4 : Opnd) : Statement (.rot a1 a2 a3 a4) := ⟨Nat.le_of_ble_eq_true rfl, rfl⟩
theorem clz (a1 : Ty) (a2 : Pred) (a3 : Opnd) : Statement (.clz a1 a2 a3) := ⟨Nat.le_of_ble_eq_true rfl, rfl⟩
theorem popc (a1 : Ty) (a2 : Pred) (a3 : Opnd) : Statement (.popc a1 a2 a3) := ⟨Nat.le_of_ble_eq_true rfl, rfl⟩
theorem bfx (a1 : Ty) (a2 : Bool) (a3 : Pred) (a4 : Opnd) (a5 : Opnd) (a6 : Opnd) : Statement (.bfx a1 a2 a3 a4 a5 a6) := ⟨Nat.le_of_ble_eq_true rfl, rfl⟩
theorem bfi (a1 : Ty) (a2 : Pred) (a3 : Opnd) (a4 : Opnd) (a5 : Opnd) (a6 : Opnd) : Statement (.bfi a1 a2 a3 a4 a5 a6) := ⟨Nat.le_of_ble_eq_true rfl, rfl⟩
theorem brev (a1 : Ty) (a2 : Pred) (a3 : Opnd) : Statement (.brev a1 a2 a3) := ⟨Nat.le_of_ble_eq_true rfl, rfl⟩
theorem cmp (a1 : Ty) (a2 : Cond) (a3 : Bool) (a4 : Pred) (a5 : Opnd) (a6 : Opnd) : Statement (.cmp a1 a2 a3 a4 a5 a6) := ⟨Nat.le_of_ble_eq_true rfl, rfl⟩
theorem lea (a1 : Bool) (a2 : Pred) (a3 : Opnd) (a4 : Opnd) (a5 : Fin 8) : Statement (.lea a1 a2 a3 a4 a5) := ⟨Nat.le_of_ble_eq_true rfl, rfl⟩
theorem cvti (a1 : Ty) (a2 : Bool) (a3 : Bool) (a4 : Pred) (a5 : Opnd) : Statement (.cvti a1 a2 a3 a4 a5) := ⟨Nat.le_of_ble_eq_true rfl, rfl⟩
theorem cst (a1 : Ty) (a2 : Opnd) : Statement (.cst a1 a2) := ⟨Nat.le_of_ble_eq_true rfl, rfl⟩
theorem sreg (a1 : Ty) (a2 : Fin 14) : Statement (.sreg a1 a2) := ⟨Nat.le_of_ble_eq_true rfl, rfl⟩
theorem shfl (a1 : Ty) (a2 : ShflMode) (a3 : Fin 7) (a4 : Opnd) (a5 : Opnd) (a6 : Fin 12) : Statement (.shfl a1 a2 a3 a4 a5 a6) := ⟨Nat.le_of_ble_eq_true rfl, rfl⟩
theorem bcast (a1 : Ty) (a2 : Opnd) (a3 : Opnd) (a4 : Fin 12) : Statement (.bcast a1 a2 a3 a4) := ⟨Nat.le_of_ble_eq_true rfl, rfl⟩
theorem bcastFirst (a1 : Ty) (a2 : Opnd) (a3 : Fin 12) : Statement (.bcastFirst a1 a2 a3) := ⟨Nat.le_of_ble_eq_true rfl, rfl⟩
theorem scan (a1 : Ty) (a2 : ScanOp) (a3 : Bool) (a4 : Bool) (a5 : Opnd) (a6 : Fin 12) : Statement (.scan a1 a2 a3 a4 a5 a6) := ⟨Nat.le_of_ble_eq_true rfl, rfl⟩
theorem wred (a1 : Ty) (a2 : ScanOp) (a3 : Bool) (a4 : Opnd) (a5 : Fin 12) : Statement (.wred a1 a2 a3 a4 a5) := ⟨Nat.le_of_ble_eq_true rfl, rfl⟩
theorem fadd (a1 : Ty) (a2 : Bool) (a3 : Bool) (a4 : Pred) (a5 : Opnd) (a6 : Opnd) : Statement (.fadd a1 a2 a3 a4 a5 a6) := ⟨Nat.le_of_ble_eq_true rfl, rfl⟩
theorem fsub (a1 : Ty) (a2 : Bool) (a3 : Bool) (a4 : Pred) (a5 : Opnd) (a6 : Opnd) : Statement (.fsub a1 a2 a3 a4 a5 a6) := ⟨Nat.le_of_ble_eq_true rfl, rfl⟩
theorem fmul (a1 : Ty) (a2 : Bool) (a3 : Bool) (a4 : Pred) (a5 : Opnd) (a6 : Opnd) : Statement (.fmul a1 a2 a3 a4 a5 a6) := ⟨Nat.le_of_ble_eq_true rfl, rfl⟩
theorem fma (a1 : Ty) (a2 : Bool) (a3 : Bool) (a4 : Pred) (a5 : Opnd) (a6 : Opnd) (a7 : Opnd) : Statement (.fma a1 a2 a3 a4 a5 a6 a7) := ⟨Nat.le_of_ble_eq_true rfl, rfl⟩
theorem fmin (a1 : Ty) (a2 : Pred) (a3 : Opnd) (a4 : Opnd) : Statement (.fmin a1 a2 a3 a4) := ⟨Nat.le_of_ble_eq_true rfl, rfl⟩
theorem fmax (a1 : Ty) (a2 : Pred) (a3 : Opnd) (a4 : Opnd) : Statement (.fmax a1 a2 a3 a4) := ⟨Nat.le_of_ble_eq_true rfl, rfl⟩
theorem fabs (a1 : Ty) (a2 : Pred) (a3 : Opnd) : Statement (.fabs a1 a2 a3) := ⟨Nat.le_of_ble_eq_true rfl, rfl⟩
theorem fneg (a1 : Ty) (a2 : Pred) (a3 : Opnd) : Statement (.fneg a1 a2 a3) := ⟨Nat.le_of_ble_eq_true rfl, rfl⟩
theorem fcmp (a1 : Ty) (a2 : FCond) (a3 : Pred) (a4 : Opnd) (a5 : Opnd) : Statement (.fcmp a1 a2 a3 a4 a5) := ⟨Nat.le_of_ble_eq_true rfl, rfl⟩
theorem fdiv (a1 : Ty) (a2 : Bool) (a3 : Bool) (a4 : Pred) (a5 : Opnd) (a6 : Opnd) : Statement (.fdiv a1 a2 a3 a4 a5 a6) := ⟨Nat.le_of_ble_eq_true rfl, rfl⟩
theorem fsqrt (a1 : Ty) (a2 : Bool) (a3 : Bool) (a4 : Pred) (a5 : Opnd) : Statement (.fsqrt a1 a2 a3 a4 a5) := ⟨Nat.le_of_ble_eq_true rfl, rfl⟩
theorem frcp (a1 : Ty) (a2 : Bool) (a3 : Bool) (a4 : Pred) (a5 : Opnd) : Statement (.frcp a1 a2 a3 a4 a5) := ⟨Nat.le_of_ble_eq_true rfl, rfl⟩
theorem frsq (a1 : Ty) (a2 : Bool) (a3 : Bool) (a4 : Pred) (a5 : Opnd) : Statement (.frsq a1 a2 a3 a4 a5) := ⟨Nat.le_of_ble_eq_true rfl, rfl⟩
theorem fexp2 (a1 : Ty) (a2 : Bool) (a3 : Bool) (a4 : Pred) (a5 : Opnd) : Statement (.fexp2 a1 a2 a3 a4 a5) := ⟨Nat.le_of_ble_eq_true rfl, rfl⟩
theorem flog2 (a1 : Ty) (a2 : Bool) (a3 : Bool) (a4 : Pred) (a5 : Opnd) : Statement (.flog2 a1 a2 a3 a4 a5) := ⟨Nat.le_of_ble_eq_true rfl, rfl⟩
theorem fsin (a1 : Ty) (a2 : Bool) (a3 : Bool) (a4 : Pred) (a5 : Opnd) : Statement (.fsin a1 a2 a3 a4 a5) := ⟨Nat.le_of_ble_eq_true rfl, rfl⟩
theorem fcos (a1 : Ty) (a2 : Bool) (a3 : Bool) (a4 : Pred) (a5 : Opnd) : Statement (.fcos a1 a2 a3 a4 a5) := ⟨Nat.le_of_ble_eq_true rfl, rfl⟩
theorem ftanh (a1 : Ty) (a2 : Bool) (a3 : Bool) (a4 : Pred) (a5 : Opnd) : Statement (.ftanh a1 a2 a3 a4 a5) := ⟨Nat.le_of_ble_eq_true rfl, rfl⟩
theorem fsig (a1 : Ty) (a2 : Bool) (a3 : Bool) (a4 : Pred) (a5 : Opnd) : Statement (.fsig a1 a2 a3 a4 a5) := ⟨Nat.le_of_ble_eq_true rfl, rfl⟩
theorem frnd (a1 : Ty) (a2 : RndMode) (a3 : Pred) (a4 : Opnd) : Statement (.frnd a1 a2 a3 a4) := ⟨Nat.le_of_ble_eq_true rfl, rfl⟩
theorem fcvt (a1 : Ty) (a2 : Bool) (a3 : Bool) (a4 : Pred) (a5 : Opnd) : Statement (.fcvt a1 a2 a3 a4 a5) := ⟨Nat.le_of_ble_eq_true rfl, rfl⟩
theorem f2i (a1 : Ty) (a2 : Bool) (a3 : Bool) (a4 : Bool) (a5 : Pred) (a6 : Opnd) : Statement (.f2i a1 a2 a3 a4 a5 a6) := ⟨Nat.le_of_ble_eq_true rfl, rfl⟩
theorem i2f (a1 : Ty) (a2 : Bool) (a3 : Bool) (a4 : Bool) (a5 : Pred) (a6 : Opnd) : Statement (.i2f a1 a2 a3 a4 a5 a6) := ⟨Nat.le_of_ble_eq_true rfl, rfl⟩
theorem fclass (a1 : Ty) (a2 : Pred) (a3 : Opnd) : Statement (.fclass a1 a2 a3) := ⟨Nat.le_of_ble_eq_true rfl, rfl⟩
theorem pdot (a1 : Ty) (a2 : Bool) (a3 : Bool) (a4 : Bool) (a5 : Pred) (a6 : Opnd) (a7 : Opnd) (a8 : Opnd) : Statement (.pdot a1 a2 a3 a4 a5 a6 a7 a8) := ⟨Nat.le_of_ble_eq_true rfl, rfl⟩
theorem pwid (a1 : Ty) (a2 : Fmt) (a3 : Bool) (a4 : Bool) (a5 : Fin 4) (a6 : Pred) (a7 : Opnd) : Statement (.pwid a1 a2 a3 a4 a5 a6 a7) := ⟨Nat.le_of_ble_eq_true rfl, rfl⟩
theorem pnar (a1 : Ty) (a2 : Bool) (a3 : Bool) (a4 : Bool) (a5 : Bool) (a6 : Pred) (a7 : List Opnd) : Statement (.pnar a1 a2 a3 a4 a5 a6 a7) := ⟨Nat.le_of_ble_eq_true rfl, rfl⟩
theorem cbdec (a1 : Ty) (a2 : Bool) (a3 : Pred) (a4 : Opnd) (a5 : Fin 8) : Statement (.cbdec a1 a2 a3 a4 a5) := ⟨Nat.le_of_ble_eq_true rfl, rfl⟩
theorem cbenc (a1 : Ty) (a2 : Pred) (a3 : Opnd) (a4 : Fin 8) : Statement (.cbenc a1 a2 a3 a4) := ⟨Nat.le_of_ble_eq_true rfl, rfl⟩
theorem fldx (a1 : Ty) (a2 : Bool) (a3 : Bool) (a4 : Pred) (a5 : Opnd) (a6 : Opnd) : Statement (.fldx a1 a2 a3 a4 a5 a6) := ⟨Nat.le_of_ble_eq_true rfl, rfl⟩
theorem ftag (a1 : Pred) (a2 : Opnd) (a3 : Opnd) : Statement (.ftag a1 a2 a3) := ⟨Nat.le_of_ble_eq_true rfl, rfl⟩
theorem ftagGet (a1 : Pred) (a2 : Opnd) : Statement (.ftagGet a1 a2) := ⟨Nat.le_of_ble_eq_true rfl, rfl⟩
theorem ld (a1 : Ty) (a2 : Space) (a3 : Bool) (a4 : Pred) (a5 : Opnd) (a6 : Option (BitVec 30)) : Statement (.ld a1 a2 a3 a4 a5 a6) := ⟨Nat.le_of_ble_eq_true rfl, rfl⟩
theorem st (a1 : Ty) (a2 : Space) (a3 : Bool) (a4 : Pred) (a5 : Opnd) (a6 : Opnd) (a7 : Option (BitVec 30)) : Statement (.st a1 a2 a3 a4 a5 a6 a7) := ⟨Nat.le_of_ble_eq_true rfl, rfl⟩
theorem ldb (a1 : Ty) (a2 : Ord) (a3 : Space) (a4 : Pred) (a5 : Opnd) (a6 : Option (BitVec 30)) : Statement (.ldb a1 a2 a3 a4 a5 a6) := ⟨Nat.le_of_ble_eq_true rfl, rfl⟩
theorem stb (a1 : Ty) (a2 : Ord) (a3 : Space) (a4 : Pred) (a5 : Opnd) (a6 : Opnd) (a7 : Option (BitVec 30)) : Statement (.stb a1 a2 a3 a4 a5 a6 a7) := ⟨Nat.le_of_ble_eq_true rfl, rfl⟩
theorem prefetch (a1 : Bool) (a2 : Space) (a3 : Opnd) (a4 : Option (BitVec 30)) : Statement (.prefetch a1 a2 a3 a4) := ⟨Nat.le_of_ble_eq_true rfl, rfl⟩
theorem cctl (a1 : CctlOp) (a2 : Opnd) (a3 : Option (BitVec 30)) : Statement (.cctl a1 a2 a3) := ⟨Nat.le_of_ble_eq_true rfl, rfl⟩
theorem atom (a1 : Ty) (a2 : AtomOp) (a3 : Bool) (a4 : Ord) (a5 : Space) (a6 : Pred) (a7 : Opnd) (a8 : Opnd) (a9 : Option (BitVec 30)) : Statement (.atom a1 a2 a3 a4 a5 a6 a7 a8 a9) := ⟨Nat.le_of_ble_eq_true rfl, rfl⟩
theorem atomc (a1 : Ty) (a2 : Ord) (a3 : Space) (a4 : Pred) (a5 : Opnd) (a6 : Opnd) (a7 : Opnd) (a8 : Option (BitVec 30)) : Statement (.atomc a1 a2 a3 a4 a5 a6 a7 a8) := ⟨Nat.le_of_ble_eq_true rfl, rfl⟩
theorem red (a1 : Ty) (a2 : AtomOp) (a3 : Bool) (a4 : Ord) (a5 : Space) (a6 : Pred) (a7 : Opnd) (a8 : Opnd) (a9 : Option (BitVec 30)) : Statement (.red a1 a2 a3 a4 a5 a6 a7 a8 a9) := ⟨Nat.le_of_ble_eq_true rfl, rfl⟩
theorem fence (a1 : FenceOrd) (a2 : Scope) : Statement (.fence a1 a2) := ⟨Nat.le_of_ble_eq_true rfl, rfl⟩
theorem phase : Statement (.phase) := ⟨Nat.le_of_ble_eq_true rfl, rfl⟩
theorem gld (a1 : Bool) (a2 : Scope) (a3 : Space) (a4 : Space) (a5 : Opnd) (a6 : Opnd) (a7 : Opnd) (a8 : List Opnd) (a9 : Fin 64) (a10 : Option (BitVec 29)) : Statement (.gld a1 a2 a3 a4 a5 a6 a7 a8 a9 a10) := ⟨Nat.le_of_ble_eq_true rfl, rfl⟩
theorem gst (a1 : Bool) (a2 : Scope) (a3 : Space) (a4 : Space) (a5 : Opnd) (a6 : Opnd) (a7 : Opnd) (a8 : List Opnd) (a9 : Fin 64) (a10 : Option (BitVec 29)) : Statement (.gst a1 a2 a3 a4 a5 a6 a7 a8 a9 a10) := ⟨Nat.le_of_ble_eq_true rfl, rfl⟩
theorem shp (a1 : Opnd) : Statement (.shp a1) := ⟨Nat.le_of_ble_eq_true rfl, rfl⟩
theorem shpFree (a1 : Opnd) : Statement (.shpFree a1) := ⟨Nat.le_of_ble_eq_true rfl, rfl⟩
theorem taddr (a1 : Opnd) (a2 : Opnd) (a3 : List Opnd) : Statement (.taddr a1 a2 a3) := ⟨Nat.le_of_ble_eq_true rfl, rfl⟩
theorem ldt (a1 : Space) (a2 : Bool) (a3 : Pred) (a4 : Opnd) (a5 : Opnd) : Statement (.ldt a1 a2 a3 a4 a5) := ⟨Nat.le_of_ble_eq_true rfl, rfl⟩
theorem cpy (a1 : Scope) (a2 : Space) (a3 : Space) (a4 : Opnd) (a5 : Opnd) (a6 : Opnd) (a7 : Fin 64) (a8 : Option (BitVec 29)) : Statement (.cpy a1 a2 a3 a4 a5 a6 a7 a8) := ⟨Nat.le_of_ble_eq_true rfl, rfl⟩
theorem cpyShape (a1 : Bool) (a2 : Scope) (a3 : Space) (a4 : Space) (a5 : Opnd) (a6 : Opnd) (a7 : Opnd) (a8 : Fin 64) (a9 : Option (BitVec 29)) : Statement (.cpyShape a1 a2 a3 a4 a5 a6 a7 a8 a9) := ⟨Nat.le_of_ble_eq_true rfl, rfl⟩
theorem cpyw (a1 : Bool) (a2 : Fin 64) : Statement (.cpyw a1 a2) := ⟨Nat.le_of_ble_eq_true rfl, rfl⟩
theorem cpyf (a1 : Ty) (a2 : Scope) (a3 : Space) (a4 : Opnd) (a5 : Opnd) (a6 : Opnd) (a7 : Fin 64) (a8 : Option (BitVec 29)) : Statement (.cpyf a1 a2 a3 a4 a5 a6 a7 a8) := ⟨Nat.le_of_ble_eq_true rfl, rfl⟩
theorem cpyq (a1 : Ty) (a2 : CpyqOp) (a3 : Bool) (a4 : Bool) (a5 : Scope) (a6 : Space) (a7 : Space) (a8 : Opnd) (a9 : Opnd) (a10 : Opnd) (a11 : Fin 64) (a12 : Option (BitVec 29)) : Statement (.cpyq a1 a2 a3 a4 a5 a6 a7 a8 a9 a10 a11 a12) := ⟨Nat.le_of_ble_eq_true rfl, rfl⟩
theorem cjoin (a1 : Opnd) (a2 : Opnd) : Statement (.cjoin a1 a2) := ⟨Nat.le_of_ble_eq_true rfl, rfl⟩
theorem cleave : Statement (.cleave) := ⟨Nat.le_of_ble_eq_true rfl, rfl⟩
theorem cmap (a1 : Opnd) : Statement (.cmap a1) := ⟨Nat.le_of_ble_eq_true rfl, rfl⟩
theorem colr (a1 : Fin 64) (a2 : Fin 4) : Statement (.colr a1 a2) := ⟨Nat.le_of_ble_eq_true rfl, rfl⟩
theorem orsv (a1 : Bool) (a2 : MFmt) (a3 : Blk) (a4 : Bool) (a5 : Sparsity) (a6 : Opnd) (a7 : Fin 8) (a8 : BitVec 12) : Statement (.orsv a1 a2 a3 a4 a5 a6 a7 a8) := ⟨Nat.le_of_ble_eq_true rfl, rfl⟩
theorem orel (a1 : Opnd) : Statement (.orel a1) := ⟨Nat.le_of_ble_eq_true rfl, rfl⟩
theorem ofill (a1 : Bool) (a2 : Space) (a3 : Opnd) (a4 : Opnd) (a5 : Opnd) : Statement (.ofill a1 a2 a3 a4 a5) := ⟨Nat.le_of_ble_eq_true rfl, rfl⟩
theorem bfill (a1 : Space) (a2 : Opnd) (a3 : Opnd) (a4 : Opnd) : Statement (.bfill a1 a2 a3 a4) := ⟨Nat.le_of_ble_eq_true rfl, rfl⟩
theorem sclq (a1 : Space) (a2 : Opnd) (a3 : Opnd) (a4 : Opnd) : Statement (.sclq a1 a2 a3 a4) := ⟨Nat.le_of_ble_eq_true rfl, rfl⟩
theorem cbld (a1 : Bool) (a2 : Fin 8) (a3 : BitVec 29) : Statement (.cbld a1 a2 a3) := ⟨Nat.le_of_ble_eq_true rfl, rfl⟩
theorem cbldAddr (a1 : Bool) (a2 : Space) (a3 : Fin 8) (a4 : Opnd) : Statement (.cbldAddr a1 a2 a3 a4) := ⟨Nat.le_of_ble_eq_true rfl, rfl⟩
theorem aacq (a1 : Bool) : Statement (.aacq a1) := ⟨Nat.le_of_ble_eq_true rfl, rfl⟩
theorem arel (a1 : Opnd) : Statement (.arel a1) := ⟨Nat.le_of_ble_eq_true rfl, rfl⟩
theorem mma (a1 : Opnd) (a2 : Opnd) (a3 : Opnd) (a4 : Option (Fin 16)) : Statement (.mma a1 a2 a3 a4) := ⟨Nat.le_of_ble_eq_true rfl, rfl⟩
theorem mmsp (a1 : Opnd) (a2 : Opnd) (a3 : Opnd) (a4 : Option (Fin 16)) : Statement (.mmsp a1 a2 a3 a4) := ⟨Nat.le_of_ble_eq_true rfl, rfl⟩
theorem acrd (a1 : Ty) (a2 : Bool) (a3 : Bool) (a4 : Pred) (a5 : Opnd) (a6 : Opnd) (a7 : Opnd) : Statement (.acrd a1 a2 a3 a4 a5 a6 a7) := ⟨Nat.le_of_ble_eq_true rfl, rfl⟩
theorem acwr (a1 : Ty) (a2 : Pred) (a3 : Opnd) (a4 : Opnd) (a5 : Opnd) (a6 : Opnd) : Statement (.acwr a1 a2 a3 a4 a5 a6) := ⟨Nat.le_of_ble_eq_true rfl, rfl⟩
theorem acwrZero (a1 : Opnd) : Statement (.acwrZero a1) := ⟨Nat.le_of_ble_eq_true rfl, rfl⟩
theorem sign (a1 : Fin 16) : Statement (.sign a1) := ⟨Nat.le_of_ble_eq_true rfl, rfl⟩
theorem cvset (a1 : Fin 16) (a2 : Opnd) : Statement (.cvset a1 a2) := ⟨Nat.le_of_ble_eq_true rfl, rfl⟩
theorem gsync : Statement (.gsync) := ⟨Nat.le_of_ble_eq_true rfl, rfl⟩
theorem mstat (a1 : Bool) : Statement (.mstat a1) := ⟨Nat.le_of_ble_eq_true rfl, rfl⟩
theorem barv (a1 : Fin 64) (a2 : Option Opnd) : Statement (.barv a1 a2) := ⟨Nat.le_of_ble_eq_true rfl, rfl⟩
theorem barw (a1 : Fin 64) (a2 : Opnd) : Statement (.barw a1 a2) := ⟨Nat.le_of_ble_eq_true rfl, rfl⟩
theorem bars (a1 : Fin 64) (a2 : Option Opnd) : Statement (.bars a1 a2) := ⟨Nat.le_of_ble_eq_true rfl, rfl⟩
theorem bmem (a1 : Scope) (a2 : Fin 64) (a3 : Option Opnd) : Statement (.bmem a1 a2 a3) := ⟨Nat.le_of_ble_eq_true rfl, rfl⟩
theorem bcnt (a1 : Fin 64) : Statement (.bcnt a1) := ⟨Nat.le_of_ble_eq_true rfl, rfl⟩
theorem prgqB64 : Statement (.prgqB64) := ⟨Nat.le_of_ble_eq_true rfl, rfl⟩
theorem prgqP : Statement (.prgqP) := ⟨Nat.le_of_ble_eq_true rfl, rfl⟩
theorem sleep (a1 : Bool) (a2 : Opnd) : Statement (.sleep a1 a2) := ⟨Nat.le_of_ble_eq_true rfl, rfl⟩
theorem flagw (a1 : Ty) (a2 : Cond) (a3 : Bool) (a4 : Opnd) (a5 : Opnd) : Statement (.flagw a1 a2 a3 a4 a5) := ⟨Nat.le_of_ble_eq_true rfl, rfl⟩
theorem launch (a1 : Bool) (a2 : Opnd) : Statement (.launch a1 a2) := ⟨Nat.le_of_ble_eq_true rfl, rfl⟩
theorem ljoin : Statement (.ljoin) := ⟨Nat.le_of_ble_eq_true rfl, rfl⟩
theorem lquery (a1 : Fin 5) : Statement (.lquery a1) := ⟨Nat.le_of_ble_eq_true rfl, rfl⟩
theorem wsplit : Statement (.wsplit) := ⟨Nat.le_of_ble_eq_true rfl, rfl⟩
theorem migrate (a1 : Bool) (a2 : Opnd) : Statement (.migrate a1 a2) := ⟨Nat.le_of_ble_eq_true rfl, rfl⟩
theorem wdone : Statement (.wdone) := ⟨Nat.le_of_ble_eq_true rfl, rfl⟩
theorem trap (a1 : BitVec 16) (a2 : Pred) : Statement (.trap a1 a2) := ⟨Nat.le_of_ble_eq_true rfl, rfl⟩
theorem brkpt (a1 : BitVec 16) : Statement (.brkpt a1) := ⟨Nat.le_of_ble_eq_true rfl, rfl⟩
theorem tprf (a1 : TprfKind) (a2 : BitVec 29) : Statement (.tprf a1 a2) := ⟨Nat.le_of_ble_eq_true rfl, rfl⟩
theorem tprfHandle (a1 : TprfKind) (a2 : Opnd) (a3 : Fin 16) : Statement (.tprfHandle a1 a2 a3) := ⟨Nat.le_of_ble_eq_true rfl, rfl⟩
theorem clock (a1 : Bool) : Statement (.clock a1) := ⟨Nat.le_of_ble_eq_true rfl, rfl⟩
theorem smpl (a1 : SmplMode) : Statement (.smpl a1) := ⟨Nat.le_of_ble_eq_true rfl, rfl⟩
theorem watch (a1 : Bool) (a2 : Opnd) (a3 : Opnd) : Statement (.watch a1 a2 a3) := ⟨Nat.le_of_ble_eq_true rfl, rfl⟩
theorem unwatch (a1 : Opnd) : Statement (.unwatch a1) := ⟨Nat.le_of_ble_eq_true rfl, rfl⟩
theorem logm (a1 : Ty) (a2 : Pred) (a3 : Opnd) (a4 : BitVec 16) : Statement (.logm a1 a2 a3 a4) := ⟨Nat.le_of_ble_eq_true rfl, rfl⟩
theorem rgn (a1 : BitVec 16) : Statement (.rgn a1) := ⟨Nat.le_of_ble_eq_true rfl, rfl⟩
theorem ckst (a1 : NReg) (a2 : Fin 16) (a3 : Bool) : Statement (.ckst a1 a2 a3) := ⟨Nat.le_of_ble_eq_true rfl, rfl⟩
theorem ckld (a1 : NReg) (a2 : Fin 16) (a3 : Bool) : Statement (.ckld a1 a2 a3) := ⟨Nat.le_of_ble_eq_true rfl, rfl⟩
theorem vsp (a1 : NReg) (a2 : BitVec 16) : Statement (.vsp a1 a2) := ⟨Nat.le_of_ble_eq_true rfl, rfl⟩
theorem vfl (a1 : NReg) (a2 : BitVec 16) : Statement (.vfl a1 a2) := ⟨Nat.le_of_ble_eq_true rfl, rfl⟩
theorem rotWindow (a1 : Fin 128) (a2 : Fin 64) : Statement (.rotWindow a1 a2) := ⟨Nat.le_of_ble_eq_true rfl, rfl⟩
theorem waitc (a1 : Eng) (a2 : Fin 4) (a3 : BitVec 8) : Statement (.waitc a1 a2 a3) := ⟨Nat.le_of_ble_eq_true rfl, rfl⟩
theorem mvw (a1 : NReg) (a2 : NReg) : Statement (.mvw a1 a2) := ⟨Nat.le_of_ble_eq_true rfl, rfl⟩
theorem mvz (a1 : NReg) (a2 : NReg) : Statement (.mvz a1 a2) := ⟨Nat.le_of_ble_eq_true rfl, rfl⟩
theorem qpsh (a1 : NReg) (a2 : Bool) : Statement (.qpsh a1 a2) := ⟨Nat.le_of_ble_eq_true rfl, rfl⟩
theorem qpop (a1 : NReg) (a2 : Bool) : Statement (.qpop a1 a2) := ⟨Nat.le_of_ble_eq_true rfl, rfl⟩
theorem bundleStep (a1 : Nat) (a2 : Nat) (a3 : Eng) : Statement (.bundleStep a1 a2 a3) := ⟨Nat.le_of_ble_eq_true rfl, rfl⟩
theorem loadComplete (a1 : Nat) (a2 : Nat) (a3 : Nat) : Statement (.loadComplete a1 a2 a3) := ⟨Nat.le_of_ble_eq_true rfl, rfl⟩
theorem schedulerIssue (a1 : Nat) (a2 : Nat) : Statement (.schedulerIssue a1 a2) := ⟨Nat.le_of_ble_eq_true rfl, rfl⟩
theorem firmwareCredit (a1 : Nat) (a2 : Nat) : Statement (.firmwareCredit a1 a2) := ⟨Nat.le_of_ble_eq_true rfl, rfl⟩
theorem fairnessTimerExpiry (a1 : Nat) (a2 : Nat) : Statement (.fairnessTimerExpiry a1 a2) := ⟨Nat.le_of_ble_eq_true rfl, rfl⟩
theorem hang (a1 : Nat) (a2 : Nat) : Statement (.hang a1 a2) := ⟨Nat.le_of_ble_eq_true rfl, rfl⟩
theorem sleepWake (a1 : Nat) (a2 : Nat) : Statement (.sleepWake a1 a2) := ⟨Nat.le_of_ble_eq_true rfl, rfl⟩
theorem flagwRepoll (a1 : Nat) (a2 : Nat) : Statement (.flagwRepoll a1 a2) := ⟨Nat.le_of_ble_eq_true rfl, rfl⟩
theorem translationDemand (a1 : Nat) (a2 : Nat) : Statement (.translationDemand a1 a2) := ⟨Nat.le_of_ble_eq_true rfl, rfl⟩
theorem translationServe (a1 : Nat) : Statement (.translationServe a1) := ⟨Nat.le_of_ble_eq_true rfl, rfl⟩
theorem translationComplete (a1 : Nat) : Statement (.translationComplete a1) := ⟨Nat.le_of_ble_eq_true rfl, rfl⟩
theorem hqDoorbell (a1 : Nat) (a2 : Nat) (a3 : Nat) (a4 : W64) : Statement (.hqDoorbell a1 a2 a3 a4) := ⟨Nat.le_of_ble_eq_true rfl, rfl⟩
theorem hqEnable (a1 : Nat) (a2 : Nat) (a3 : W64) : Statement (.hqEnable a1 a2 a3) := ⟨Nat.le_of_ble_eq_true rfl, rfl⟩
theorem hqDisable (a1 : Nat) (a2 : Nat) (a3 : W64) : Statement (.hqDisable a1 a2 a3) := ⟨Nat.le_of_ble_eq_true rfl, rfl⟩
theorem packetRead (a1 : Nat) : Statement (.packetRead a1) := ⟨Nat.le_of_ble_eq_true rfl, rfl⟩
theorem launchAccept (a1 : Nat) (a2 : Option Nat) : Statement (.launchAccept a1 a2) := ⟨Nat.le_of_ble_eq_true rfl, rfl⟩
theorem launchCompletion (a1 : Nat) (a2 : Nat) : Statement (.launchCompletion a1 a2) := ⟨Nat.le_of_ble_eq_true rfl, rfl⟩
theorem walkerDispatch (a1 : Nat) (a2 : Nat) : Statement (.walkerDispatch a1 a2) := ⟨Nat.le_of_ble_eq_true rfl, rfl⟩
theorem splitRequest (a1 : Nat) (a2 : Nat) (a3 : Nat) : Statement (.splitRequest a1 a2 a3) := ⟨Nat.le_of_ble_eq_true rfl, rfl⟩
theorem split (a1 : Nat) (a2 : Nat) : Statement (.split a1 a2) := ⟨Nat.le_of_ble_eq_true rfl, rfl⟩
theorem drainNotice (a1 : Nat) (a2 : Nat) : Statement (.drainNotice a1 a2) := ⟨Nat.le_of_ble_eq_true rfl, rfl⟩
theorem unitBlocked (a1 : Nat) (a2 : Nat) : Statement (.unitBlocked a1 a2) := ⟨Nat.le_of_ble_eq_true rfl, rfl⟩
theorem priorityPreemption (a1 : Nat) (a2 : Nat) : Statement (.priorityPreemption a1 a2) := ⟨Nat.le_of_ble_eq_true rfl, rfl⟩
theorem timeSlice (a1 : Nat) (a2 : Nat) (a3 : Nat) : Statement (.timeSlice a1 a2 a3) := ⟨Nat.le_of_ble_eq_true rfl, rfl⟩
theorem preemption (a1 : Nat) (a2 : Nat) (a3 : Cause) : Statement (.preemption a1 a2 a3) := ⟨Nat.le_of_ble_eq_true rfl, rfl⟩
theorem resumePlacement (a1 : Nat) : Statement (.resumePlacement a1) := ⟨Nat.le_of_ble_eq_true rfl, rfl⟩
theorem parkResume (a1 : Nat) : Statement (.parkResume a1) := ⟨Nat.le_of_ble_eq_true rfl, rfl⟩
theorem landedWarpPlacement (a1 : Nat) (a2 : Nat) : Statement (.landedWarpPlacement a1 a2) := ⟨Nat.le_of_ble_eq_true rfl, rfl⟩
theorem warpRestart (a1 : Nat) (a2 : Nat) : Statement (.warpRestart a1 a2) := ⟨Nat.le_of_ble_eq_true rfl, rfl⟩
theorem workgroupRelease (a1 : Nat) (a2 : Nat) : Statement (.workgroupRelease a1 a2) := ⟨Nat.le_of_ble_eq_true rfl, rfl⟩
theorem jobStart (a1 : Nat) (a2 : Nat) : Statement (.jobStart a1 a2) := ⟨Nat.le_of_ble_eq_true rfl, rfl⟩
theorem jobComplete (a1 : Nat) (a2 : Nat) : Statement (.jobComplete a1 a2) := ⟨Nat.le_of_ble_eq_true rfl, rfl⟩
theorem tileOpComplete (a1 : Nat) : Statement (.tileOpComplete a1) := ⟨Nat.le_of_ble_eq_true rfl, rfl⟩
theorem scaleEntryArrival (a1 : Nat) (a2 : Nat) : Statement (.scaleEntryArrival a1 a2) := ⟨Nat.le_of_ble_eq_true rfl, rfl⟩
theorem sliceWrite (a1 : Nat) (a2 : Nat) : Statement (.sliceWrite a1 a2) := ⟨Nat.le_of_ble_eq_true rfl, rfl⟩
theorem lineFill (a1 : Nat) (a2 : W64) : Statement (.lineFill a1 a2) := ⟨Nat.le_of_ble_eq_true rfl, rfl⟩
theorem pageWalk (a1 : Nat) (a2 : Nat) (a3 : Bool) (a4 : W64) (a5 : Bool) : Statement (.pageWalk a1 a2 a3 a4 a5) := ⟨Nat.le_of_ble_eq_true rfl, rfl⟩
theorem faultRecordPost (a1 : Nat) (a2 : Nat) : Statement (.faultRecordPost a1 a2) := ⟨Nat.le_of_ble_eq_true rfl, rfl⟩
theorem faultRetry (a1 : Nat) (a2 : W64) : Statement (.faultRetry a1 a2) := ⟨Nat.le_of_ble_eq_true rfl, rfl⟩
theorem faultFail (a1 : Nat) (a2 : W64) : Statement (.faultFail a1 a2) := ⟨Nat.le_of_ble_eq_true rfl, rfl⟩
theorem tlbInvalidate (a1 : Nat) (a2 : W64) : Statement (.tlbInvalidate a1 a2) := ⟨Nat.le_of_ble_eq_true rfl, rfl⟩
theorem tlbInvalidateComplete (a1 : Nat) : Statement (.tlbInvalidateComplete a1) := ⟨Nat.le_of_ble_eq_true rfl, rfl⟩
theorem detWindowRelease (a1 : Nat) (a2 : Nat) : Statement (.detWindowRelease a1 a2) := ⟨Nat.le_of_ble_eq_true rfl, rfl⟩
theorem snapshotArm (a1 : Nat) (a2 : W64) : Statement (.snapshotArm a1 a2) := ⟨Nat.le_of_ble_eq_true rfl, rfl⟩
theorem snapshotBackgroundCopy (a1 : Nat) (a2 : Nat) (a3 : Nat) : Statement (.snapshotBackgroundCopy a1 a2 a3) := ⟨Nat.le_of_ble_eq_true rfl, rfl⟩
theorem faultFrame (a1 : Nat) (a2 : Nat) : Statement (.faultFrame a1 a2) := ⟨Nat.le_of_ble_eq_true rfl, rfl⟩
theorem disposition (a1 : Nat) (a2 : Nat) : Statement (.disposition a1 a2) := ⟨Nat.le_of_ble_eq_true rfl, rfl⟩
theorem handlerReturn (a1 : Nat) (a2 : Nat) : Statement (.handlerReturn a1 a2) := ⟨Nat.le_of_ble_eq_true rfl, rfl⟩
theorem coreDump (a1 : Nat) (a2 : Nat) : Statement (.coreDump a1 a2) := ⟨Nat.le_of_ble_eq_true rfl, rfl⟩
theorem dwReadValue (a1 : Nat) (a2 : W64) : Statement (.dwReadValue a1 a2) := ⟨Nat.le_of_ble_eq_true rfl, rfl⟩
theorem dwWriteValue (a1 : Nat) (a2 : W64) : Statement (.dwWriteValue a1 a2) := ⟨Nat.le_of_ble_eq_true rfl, rfl⟩
theorem dwReadControl (a1 : Nat) (a2 : W64) : Statement (.dwReadControl a1 a2) := ⟨Nat.le_of_ble_eq_true rfl, rfl⟩
theorem dwResume (a1 : Nat) (a2 : W64) : Statement (.dwResume a1 a2) := ⟨Nat.le_of_ble_eq_true rfl, rfl⟩
theorem debugDetach (a1 : Nat) (a2 : Nat) (a3 : W64) : Statement (.debugDetach a1 a2 a3) := ⟨Nat.le_of_ble_eq_true rfl, rfl⟩
theorem uncorrectable (a1 : ErrSource) : Statement (.uncorrectable a1) := ⟨Nat.le_of_ble_eq_true rfl, rfl⟩
theorem dieReset (a1 : Nat) : Statement (.dieReset a1) := ⟨Nat.le_of_ble_eq_true rfl, rfl⟩
theorem dieEnable (a1 : Nat) : Statement (.dieEnable a1) := ⟨Nat.le_of_ble_eq_true rfl, rfl⟩
theorem flrPf (a1 : Nat) : Statement (.flrPf a1) := ⟨Nat.le_of_ble_eq_true rfl, rfl⟩
theorem flrVf (a1 : Nat) (a2 : Nat) : Statement (.flrVf a1 a2) := ⟨Nat.le_of_ble_eq_true rfl, rfl⟩
theorem ctxLoad (a1 : Nat) (a2 : Nat) : Statement (.ctxLoad a1 a2) := ⟨Nat.le_of_ble_eq_true rfl, rfl⟩
theorem ctxTeardown (a1 : Nat) (a2 : Nat) : Statement (.ctxTeardown a1 a2) := ⟨Nat.le_of_ble_eq_true rfl, rfl⟩
theorem ctxSave (a1 : Nat) (a2 : Nat) : Statement (.ctxSave a1 a2) := ⟨Nat.le_of_ble_eq_true rfl, rfl⟩
theorem ctxRestore (a1 : Nat) (a2 : Nat) : Statement (.ctxRestore a1 a2) := ⟨Nat.le_of_ble_eq_true rfl, rfl⟩
theorem smpArm (a1 : Nat) (a2 : W64) : Statement (.smpArm a1 a2) := ⟨Nat.le_of_ble_eq_true rfl, rfl⟩
theorem smpDisarm (a1 : Nat) (a2 : W64) : Statement (.smpDisarm a1 a2) := ⟨Nat.le_of_ble_eq_true rfl, rfl⟩
theorem smpLimitRaise (a1 : Nat) (a2 : W64) : Statement (.smpLimitRaise a1 a2) := ⟨Nat.le_of_ble_eq_true rfl, rfl⟩
theorem sampleTag (a1 : Nat) (a2 : Nat) : Statement (.sampleTag a1 a2) := ⟨Nat.le_of_ble_eq_true rfl, rfl⟩
theorem sampleRecord (a1 : Nat) (a2 : Nat) : Statement (.sampleRecord a1 a2) := ⟨Nat.le_of_ble_eq_true rfl, rfl⟩
theorem fwwdtKick (a1 : Nat) (a2 : W64) : Statement (.fwwdtKick a1 a2) := ⟨Nat.le_of_ble_eq_true rfl, rfl⟩
theorem fwwdtFire (a1 : Nat) : Statement (.fwwdtFire a1) := ⟨Nat.le_of_ble_eq_true rfl, rfl⟩
theorem correctedError (a1 : Nat) : Statement (.correctedError a1) := ⟨Nat.le_of_ble_eq_true rfl, rfl⟩
theorem shardRestore (a1 : Nat) (a2 : W64) : Statement (.shardRestore a1 a2) := ⟨Nat.le_of_ble_eq_true rfl, rfl⟩
theorem packageBoot (a1 : Bool) (a2 : Bool) : Statement (.packageBoot a1 a2) := ⟨Nat.le_of_ble_eq_true rfl, rfl⟩
theorem scrubComplete (a1 : ScrubItem) : Statement (.scrubComplete a1) := ⟨Nat.le_of_ble_eq_true rfl, rfl⟩
theorem backingStoreFetch (a1 : Nat) : Statement (.backingStoreFetch a1) := ⟨Nat.le_of_ble_eq_true rfl, rfl⟩
theorem xbsCfgWrite (a1 : Nat) (a2 : W64) : Statement (.xbsCfgWrite a1 a2) := ⟨Nat.le_of_ble_eq_true rfl, rfl⟩
theorem lockInterface (a1 : Nat) (a2 : Nat) : Statement (.lockInterface a1 a2) := ⟨Nat.le_of_ble_eq_true rfl, rfl⟩
theorem startInterface (a1 : Nat) (a2 : Nat) : Statement (.startInterface a1 a2) := ⟨Nat.le_of_ble_eq_true rfl, rfl⟩
theorem stopInterface (a1 : Nat) (a2 : Nat) : Statement (.stopInterface a1 a2) := ⟨Nat.le_of_ble_eq_true rfl, rfl⟩
theorem ideKmKey (a1 : Nat) (a2 : Nat) (a3 : Nat) : Statement (.ideKmKey a1 a2 a3) := ⟨Nat.le_of_ble_eq_true rfl, rfl⟩
theorem spdmGetMeasurements (a1 : List Byte) : Statement (.spdmGetMeasurements a1) := ⟨Nat.le_of_ble_eq_true rfl, rfl⟩
theorem spdmGetCertificate (a1 : List Byte) : Statement (.spdmGetCertificate a1) := ⟨Nat.le_of_ble_eq_true rfl, rfl⟩
theorem spdmChallenge (a1 : List Byte) : Statement (.spdmChallenge a1) := ⟨Nat.le_of_ble_eq_true rfl, rfl⟩
theorem spdmKeyExchange (a1 : List Byte) : Statement (.spdmKeyExchange a1) := ⟨Nat.le_of_ble_eq_true rfl, rfl⟩
theorem pldmPowerLimit (a1 : Nat) : Statement (.pldmPowerLimit a1) := ⟨Nat.le_of_ble_eq_true rfl, rfl⟩
theorem pldmFirmwareUpdate (a1 : List Byte) : Statement (.pldmFirmwareUpdate a1) := ⟨Nat.le_of_ble_eq_true rfl, rfl⟩
theorem pldmSensorRead (a1 : Nat) : Statement (.pldmSensorRead a1) := ⟨Nat.le_of_ble_eq_true rfl, rfl⟩
theorem hostPortTrain (a1 : Nat) : Statement (.hostPortTrain a1) := ⟨Nat.le_of_ble_eq_true rfl, rfl⟩
theorem registerWrite (a1 : RegBlock) (a2 : Nat) (a3 : W64) : Statement (.registerWrite a1 a2 a3) := ⟨Nat.le_of_ble_eq_true rfl, rfl⟩
theorem coreReturnedToService (a1 : Nat) : Statement (.coreReturnedToService a1) := ⟨Nat.le_of_ble_eq_true rfl, rfl⟩

end Sys2Proof.Laws.Codec
end

