-- ==== Sys2Proof/Tests/Slice0.lean ====
section
/-! SUPPORT. Sys2Proof/Tests/Slice0.lean: checks of the model by hand-made cases: ill-formed terms, words written out from the encoding tables
of the spec, single steps whose results the spec gives, and for the statements a state and operands that meet the hypotheses of each. -/

namespace Sys2Proof.Tests

open Sys2Proof Sys2Proof.Machine

def r (d : Nat) : Opnd := .ref (BitVec.ofNat 30 d)

/-! ## Well-formedness: in each pair the first term is accepted, the second refused for the check that the pair names -/

def pairs (l : List (Instr × Instr)) : Bool := l.all fun p => p.1.wf && !p.2.wf

def f8x4 : Ty := { fmt := .e4m3, pack := .x4 }
def cb4x8 : Ty := { fmt := .cb4, pack := .x8 }
def i4x8 : Ty := { fmt := .i4, pack := .x8 }
def bad8 : Ty := { fmt := .b64, pack := .x8 }

theorem wf_types_integer : pairs [
  (.call tyB32 1 [], .call bad8 1 []),
  (.select tyP none (r 1) (r 2) (r 3), .select tyVoid none (r 1) (r 2) (r 3)),
  (.add tyB32 false false none (r 1) (r 2), .add tyF32 false false none (r 1) (r 2)),
  (.clz tyB64 none (r 1), .clz bad8 none (r 1)),
  (.and tyP none (r 1) (r 2), .and tyF32 none (r 1) (r 2)),
  (.bfx tyB32 false none (r 1) (r 2) (r 3), .bfx { fmt := .b16 } false none (r 1) (r 2) (r 3)),
  (.cmp tyB32 .eq false none (r 1) (r 2), .cmp { fmt := .b8, pack := .x4 } .eq false none (r 1) (r 2)),
  (.cvti i4x8 true false none (r 1), .cvti tyF32 true false none (r 1)),
  (.cst tyB32 (.imm 1), .cst tyDyn (.imm 1)),
  (.shfl tyDyn .idx 0 (r 1) (r 2) 0, .shfl tyVoid .idx 0 (r 1) (r 2) 0),
  (.scan tyB32 .add false false (r 1) 0, .scan tyF32 .add false false (r 1) 0),
  (.wred tyP .xor false (r 1) 0, .wred tyP .min false (r 1) 0)] = true := by decide

theorem wf_types_float : pairs [
  (.fadd tyDyn false false none (r 1) (r 2), .fadd tyB32 false false none (r 1) (r 2)),
  (.fcmp tyF32 .eq none (r 1) (r 2), .fcmp f8x4 .eq none (r 1) (r 2)),
  (.fdiv tyF32 false false none (r 1) (r 2), .fdiv tyDyn false false none (r 1) (r 2)),
  (.fsin tyF32 false false none (r 1), .fsin { fmt := .f64 } false false none (r 1)),
  (.fcvt f8x4 false false none (r 1), .fcvt tyDyn false false none (r 1)),
  (.f2i tyB32 true false false none (r 1), .f2i tyF32 true false false none (r 1)),
  (.i2f tyF32 false false false none (r 1), .i2f tyB32 false false false none (r 1)),
  (.pdot f8x4 false false false none (r 1) (r 2) (r 3), .pdot tyF32 false false false none (r 1) (r 2) (r 3)),
  (.pwid f8x4 .f16 false false 0 none (r 1), .pwid f8x4 .b8 false false 0 none (r 1)),
  (.pnar f8x4 false false false false none [r 1], .pnar tyF32 false false false false none [r 1]),
  (.cbdec cb4x8 false none (r 1) 0, .cbdec tyB32 false none (r 1) 0),
  (.cbenc { fmt := .cb6 } none (r 1) 0, .cbenc cb4x8 none (r 1) 0)] = true := by decide

theorem wf_types_memory : pairs [
  (.ld tyB32 .global false none (r 1) none, .ld tyP .global false none (r 1) none),
  (.st tyDyn .global false none (r 1) (r 2) none, .st tyP .global false none (r 1) (r 2) none),
  (.atom tyF32 .fadd false .none .global none (r 1) (r 2) none, .atom tyF32 .add false .none .global none (r 1) (r 2) none),
  (.atomc tyB64 .none .global none (r 1) (r 2) (r 3) none, .atomc tyF32 .none .global none (r 1) (r 2) (r 3) none),
  (.cpyf tyB32 .core .scratch (r 1) (r 2) (r 3) 0 none, .cpyf tyF32 .core .scratch (r 1) (r 2) (r 3) 0 none),
  (.cpyq tyF32 .fadd false false .core .scratch .scratch (r 1) (r 2) (r 3) 0 none, .cpyq tyB32 .fadd false false .core .scratch .scratch (r 1) (r 2) (r 3) 0 none),
  (.acrd tyF32 false false none (r 1) (r 2) (r 3), .acrd tyB32 false false none (r 1) (r 2) (r 3)),
  (.flagw tyB32 .eq false (r 1) (r 2), .flagw tyF32 .eq false (r 1) (r 2)),
  (.logm tyB64 none (r 1) 0, .logm tyF32 none (r 1) 0)] = true := by decide

theorem wf_forms_control : pairs [
  (.br false { block := 1, args := [r 1] }, .br false { block := 1, args := List.replicate 65 (r 1) }),
  (.brc .none false (r 1) { block := 1, args := [] } { block := 2, args := [] }, .brc .none false (r 0) { block := 1, args := [] } { block := 2, args := [] }),
  (.retValue (r 1), .retValue (.nat (.v 0))),
  (.cst tyP (.imm 1), .cst tyP (.imm 2)),
  (.cst tyB64 (.lit64 1), .cst tyB32 (.lit64 1)),
  (.cst { fmt := .b8 } (.lit32 255), .cst { fmt := .b8 } (.lit32 256)),
  (.sreg tyB64 2, .sreg tyB32 2),
  (.cvti i4x8 true false none (r 1), .cvti i4x8 false false none (r 1)),
  (.f2i i4x8 true false false none (r 1), .f2i i4x8 false false false none (r 1)),
  (.wred tyB32 .min true (r 1) 0, .wred tyB32 .add true (r 1) 0),
  (.pdot { fmt := .b8, pack := .x4 } true false false none (r 1) (r 2) (r 3), .pdot f8x4 true false false none (r 1) (r 2) (r 3)),
  (.pwid f8x4 .f32 false false 1 none (r 1), .pwid f8x4 .f32 false false 2 none (r 1)),
  (.pnar f8x4 false false false false none [r 1, r 2], .pnar f8x4 false false false false none [r 1, r 2, r 3]),
  (.cbdec cb4x8 true none (r 1) 0, .cbdec { fmt := .cb6 } true none (r 1) 0)] = true := by decide

theorem wf_forms_memory : pairs [
  (.ld tyB32 .host true none (r 1) none, .ld tyB32 .scratch true none (r 1) none),
  (.st tyB32 .scratch false none (r 1) (r 2) none, .st tyB32 .const false none (r 1) (r 2) none),
  (.ldt .const false none (r 1) (r 2), .ldt .param false none (r 1) (r 2)),
  (.ldb tyB32 (.acq .die) .global none (r 1) none, .ldb tyB32 (.rel .die) .global none (r 1) none),
  (.stb tyB32 (.rel .die) .global none (r 1) (r 2) none, .stb tyB32 (.acq .die) .global none (r 1) (r 2) none),
  (.prefetch false .host (r 1) none, .prefetch false .scratch (r 1) none),
  (.atom tyB32 .exch false .none .host none (r 1) (r 2) none, .atom tyB32 .xor false .none .host none (r 1) (r 2) none),
  (.atom tyB32 .min true .none .global none (r 1) (r 2) none, .atom tyB32 .add true .none .global none (r 1) (r 2) none),
  (.atomc tyB32 .none .scratch none (r 1) (r 2) (r 3) none, .atomc tyB32 .none .param none (r 1) (r 2) (r 3) none),
  (.red tyB32 .add false (.rel .core) .global none (r 1) (r 2) none, .red tyB32 .add false (.acq .core) .global none (r 1) (r 2) none),
  (.red tyB32 .xor false .none .global none (r 1) (r 2) none, .red tyB32 .inc false .none .global none (r 1) (r 2) none),
  (.gld false .core .global .scratch (r 1) (r 2) (r 3) [r 4] 0 none, .gld false .core .scratch .global (r 1) (r 2) (r 3) [r 4] 0 none),
  (.gst false .core .scratch .host (r 1) (r 2) (r 3) [r 4] 0 none, .gst false .core .scratch .host (r 1) (r 2) (r 3) [] 0 none),
  (.taddr (r 1) (r 2) [r 3], .taddr (r 1) (r 2) (List.replicate 11 (r 3))),
  (.cpy .core .const .cluster (r 1) (r 2) (r 3) 0 none, .cpy .core .param .cluster (r 1) (r 2) (r 3) 0 none),
  (.cpyf tyB32 .core .host (r 1) (r 2) (r 3) 0 none, .cpyf tyB32 .core .const (r 1) (r 2) (r 3) 0 none),
  (.cpyq tyB32 .min true false .core .global .global (r 1) (r 2) (r 3) 0 none, .cpyq tyB32 .min true true .core .global .global (r 1) (r 2) (r 3) 0 none)] = true := by decide

theorem wf_forms_matrix : pairs [
  (.orsv true .b8 .none false .dense (.imm 16) 0 0, .orsv true .b8 .none true .dense (.imm 16) 0 0),
  (.orsv false .b8 .none false (.of4 2) (r 1) 0 0, .orsv false .b8 .none false (.of4 0) (r 1) 0 0),
  (.orsv false .cb4 .none false .dense (r 1) 3 0, .orsv false .b8 .none false .dense (r 1) 3 0),
  (.ofill false .scratch (r 1) (r 2) (.imm 16), .ofill false .host (r 1) (r 2) (.imm 16)),
  (.bfill .cluster (r 1) (r 2) (r 3), .bfill .cluster (r 1) (r 2) (.lit32 16)),
  (.cbldAddr true .const 1 (r 1), .cbldAddr true .const 1 (.sym 1)),
  (.cvset 1 (.imm 2048), .cvset 1 (.imm 2049)),
  (.barv 1 (some (.imm 262144)), .barv 1 (some (.imm 0))),
  (.sleep false (.imm 1048575), .sleep false (r 1)),
  (.sleep true (r 1), .sleep true (.imm 1))] = true := by decide

/-- What has no portable encoding is no well-formed portable instruction: a native-only operation, a happening. -/
theorem wf_portable_only : (Instr.rgn 1).wf = false ∧ (Instr.sleepWake 0 0).wf = false ∧ encode (.rgn 1) = none := by decide

/-! ## Decoding: words written out bit by bit from R56-R60, R66 and each instruction's own MOD table -/

/-- Each row's words are the instruction's encoding and decode to it, and it is well-formed. -/
def agree (rows : List (List W32 × Instr)) : Bool :=
  rows.all fun q => q.2.wf && encode q.2 = some q.1 && match decodeWords q.1 with
    | .ok (i, rest) => i = q.2 && rest = []
    | .error _ => false

theorem decode_control_1 : agree [
  ([0x00000000], .nop),
  ([0x05000000], .ret),
  ([0x05008000, 0x00000002], .retValue (r 2)),
  ([0x06000000], .exit),
  ([0x07000000], .unreachable),
  ([0x09000000], .regn),
  ([0x0A000000], .yield),
  ([0x01010001, 0x80100002, 0x00000003], .br true { block := 2, args := [r 3] }),
  ([0x02018004, 0x00000001, 0x80000003, 0x80000002], .brc .unlikely false (r 1) { block := 3, args := [] } { block := 2, args := [] }),
  ([0x03120006, 0x00000001, 0x80000001, 0x80100002, 0x00000005], .switch true (r 1) { block := 1, args := [] } [{ block := 2, args := [r 5] }]),
  ([0x04110000, 0xA0000001, 0x00000004], .call tyB32 1 [r 4]),
  ([0x08164000, 0x00000001, 0x00000002, 0x00000003, 0x40000007], .select tyB64 (some 7) (r 1) (r 2) (r 3)),
  ([0x0B008000, 0x40000003], .join 3),
  ([0x0B050000, 0x4000000B, 0x00000002], .joinCond 11 (r 2)),
  ([0x0C008000, 0x40000004], .leave 4),
  ([0x0C050000, 0x40000000, 0x00000001], .leaveCond 0 (r 1))] = true := by decide

theorem decode_control_2 : agree [
  ([0x0D008000, 0x40000005], .waitm 5),
  ([0x0E048000, 0x40000006], .mrdP 6),
  ([0x0E150000, 0x40000006, 0x40000001], .mrdB64 6 1),
  ([0x0F050002, 0x00000001, 0x40000009], .vote .uni (r 1) 9),
  ([0x0F158003, 0x00000001, 0x40000001, 0x40000002], .voteBallot (r 1) 1 2)] = true := by decide

theorem decode_integer_1 : agree [
  ([0x108D0003, 0x00000001, 0x00000002], .add { fmt := .b16, pack := .x4 } true true none (r 1) (r 2)),
  ([0x118D0003, 0x00000001, 0x00000002], .sub { fmt := .b16, pack := .x4 } true true none (r 1) (r 2)),
  ([0x128D0003, 0x00000001, 0x00000002], .mul { fmt := .b16, pack := .x4 } true true none (r 1) (r 2)),
  ([0x13110001, 0x00000001, 0x00000002], .mulhi tyB32 true none (r 1) (r 2)),
  ([0x14124002, 0x00000001, 0x00000002, 0x00000003, 0x40000001], .mad tyB32 false true (some 1) (r 1) (r 2) (r 3)),
  ([0x15110005, 0x00000001, 0x00000002], .div tyB32 true false true none (r 1) (r 2)),
  ([0x16110004, 0x00000001, 0x40000007], .rem tyB32 false true none (r 1) (.imm 7)),
  ([0x17108003, 0x00000001], .neg tyB32 true true none (r 1)),
  ([0x18148002, 0x00000001], .abs tyB64 true none (r 1)),
  ([0x19110001, 0x00000001, 0x00000002], .min tyB32 true none (r 1) (r 2)),
  ([0x1A110001, 0x00000001, 0x00000002], .max tyB32 true none (r 1) (r 2)),
  ([0x1B11C000, 0x00000001, 0x00000002, 0x40000003], .and tyB32 (some 3) (r 1) (r 2)),
  ([0x1C11C000, 0x00000001, 0x00000002, 0x40000003], .or tyB32 (some 3) (r 1) (r 2)),
  ([0x1D11C000, 0x00000001, 0x00000002, 0x40000003], .xor tyB32 (some 3) (r 1) (r 2)),
  ([0x1F11C000, 0x00000001, 0x00000002, 0x40000003], .shl tyB32 (some 3) (r 1) (r 2)),
  ([0x2111C000, 0x00000001, 0x00000002, 0x40000003], .rot tyB32 (some 3) (r 1) (r 2))] = true := by decide

theorem decode_integer_2 : agree [
  ([0x1E048000, 0x00000001], .not tyP none (r 1)),
  ([0x20110001, 0x00000001, 0x00000002], .shr tyB32 true none (r 1) (r 2)),
  ([0x22C88000, 0x00000001], .clz { fmt := .b8, pack := .x8 } none (r 1)),
  ([0x23C88000, 0x00000001], .popc { fmt := .b8, pack := .x8 } none (r 1)),
  ([0x26C88000, 0x00000001], .brev { fmt := .b8, pack := .x8 } none (r 1))] = true := by decide

theorem decode_fields : agree [
  ([0x24118001, 0x00000001, 0x00000002, 0x00000003], .bfx tyB32 true none (r 1) (r 2) (r 3)),
  ([0x25160000, 0x00000001, 0x00000002, 0x40000008, 0x40000004], .bfi tyB64 none (r 1) (r 2) (.imm 8) (.imm 4)),
  ([0x27110014, 0x00000001, 0x00000002], .cmp tyB32 .ge false none (r 1) (r 2)),
  ([0x28158001, 0x00000001, 0x00000002, 0x40000003], .lea true none (r 1) (r 2) 3),
  ([0x290C8003, 0x00000001], .cvti { fmt := .b16 } true true none (r 1)),
  ([0x2A108000, 0x7FFFFFFE], .cst tyB32 (.imm 0x3FFFFFFE)),
  ([0x2A148000, 0xC0000001, 0x9ABCDEF0, 0x12345678], .cst tyB64 (.lit64 0x123456789ABCDEF0)),
  ([0x2A208000, 0xC0000000, 0x3F800000], .cst tyF32 (.lit32 0x3F800000)),
  ([0x2B148000, 0x40000002], .sreg tyB64 2),
  ([0x2B108000, 0x4000000A], .sreg tyB32 10)] = true := by decide

theorem decode_collectives : agree [
  ([0x2C11800B, 0x00000001, 0x00000002, 0x40000004], .shfl tyB32 .xor 2 (r 1) (r 2) 4),
  ([0x2D158000, 0x00000001, 0x00000002, 0x40000000], .bcast tyB64 (r 1) (r 2) 0),
  ([0x2D150001, 0x00000001, 0x40000000], .bcastFirst tyB64 (r 1) 0),
  ([0x2E110032, 0x00000001, 0x40000001], .scan tyB32 .max true true (r 1) 1),
  ([0x2F210006, 0x00000001, 0x40000001], .wred tyF32 .fadd false (r 1) 1)] = true := by decide

theorem decode_floats_1 : agree [
  ([0x30210003, 0x00000001, 0x00000002], .fadd tyF32 true true none (r 1) (r 2)),
  ([0x31210003, 0x00000001, 0x00000002], .fsub tyF32 true true none (r 1) (r 2)),
  ([0x32210003, 0x00000001, 0x00000002], .fmul tyF32 true true none (r 1) (r 2)),
  ([0x39210003, 0x00000001, 0x00000002], .fdiv tyF32 true true none (r 1) (r 2)),
  ([0x33224003, 0x00000001, 0x00000002, 0x00000003, 0x40000005], .fma tyF32 true true (some 5) (r 1) (r 2) (r 3)),
  ([0x343D0000, 0x00000001, 0x00000002], .fmin tyDyn none (r 1) (r 2)),
  ([0x353D0000, 0x00000001, 0x00000002], .fmax tyDyn none (r 1) (r 2)),
  ([0x36988000, 0x00000001], .fabs { fmt := .f16, pack := .x4 } none (r 1)),
  ([0x37988000, 0x00000001], .fneg { fmt := .f16, pack := .x4 } none (r 1)),
  ([0x3821001C, 0x00000001, 0x00000002], .fcmp tyF32 .uno none (r 1) (r 2)),
  ([0x3A208002, 0x00000001], .fsqrt tyF32 false true none (r 1)),
  ([0x3B208002, 0x00000001], .frcp tyF32 false true none (r 1)),
  ([0x3C208002, 0x00000001], .frsq tyF32 false true none (r 1)),
  ([0x3D208002, 0x00000001], .fexp2 tyF32 false true none (r 1)),
  ([0x3E208002, 0x00000001], .flog2 tyF32 false true none (r 1)),
  ([0x3F208002, 0x00000001], .fsin tyF32 false true none (r 1))] = true := by decide

theorem decode_floats_2 : agree [
  ([0x40208002, 0x00000001], .fcos tyF32 false true none (r 1)),
  ([0x41208002, 0x00000001], .ftanh tyF32 false true none (r 1)),
  ([0x42208002, 0x00000001], .fsig tyF32 false true none (r 1)),
  ([0x43208004, 0x00000001], .frnd tyF32 .rp none (r 1)),
  ([0x44A88001, 0x00000001], .fcvt { fmt := .e4m3, pack := .x4 } true false none (r 1))] = true := by decide

theorem decode_conversions : agree [
  ([0x45108007, 0x00000001], .f2i tyB32 true true true none (r 1)),
  ([0x46208004, 0x00000001], .i2f tyF32 true false false none (r 1)),
  ([0x47208000, 0x00000001], .fclass tyF32 none (r 1)),
  ([0x48898005, 0x00000001, 0x00000002, 0x00000003], .pdot { fmt := .b8, pack := .x4 } true true false none (r 1) (r 2) (r 3)),
  ([0x49988218, 0x00000001], .pwid { fmt := .f16, pack := .x4 } .f32 false true 1 none (r 1)),
  ([0x4A99000B, 0x00000001, 0x00000002], .pnar { fmt := .f16, pack := .x4 } false true true true none [r 1, r 2]),
  ([0x4BF50001, 0x00000001, 0x40000007], .cbdec { fmt := .cb4, pack := .x8 } true none (r 1) 7),
  ([0x4C390000, 0x00000001, 0x40000002], .cbenc { fmt := .cb6 } none (r 1) 2),
  ([0x4D210001, 0x00000001, 0x00000002], .fldx tyF32 true false none (r 1) (r 2)),
  ([0x4E3D0000, 0x00000001, 0x40000008], .ftag none (r 1) (.imm 8)),
  ([0x4E108001, 0x00000001], .ftagGet none (r 1))] = true := by decide

theorem decode_memory : agree [
  ([0x5015C00D, 0x00000001, 0x7FFFFFF8, 0x40000002], .ld tyB64 .host true (some 2) (r 1) (some 0x3FFFFFF8)),
  ([0x51110001, 0x00000001, 0x00000002], .st tyB32 .scratch false none (r 1) (r 2) none),
  ([0x5210A200, 0x00000001], .ldb tyB32 (.acq .domain) .global none (r 1) none),
  ([0x53118402, 0x00000001, 0x00000002, 0x40000010], .stb tyB32 (.rel .core) .cluster none (r 1) (r 2) (some 16)),
  ([0x54008010, 0x00000001], .prefetch true .global (r 1) none),
  ([0x55010030, 0x00000001, 0x40000080], .cctl .cold (r 1) (some 128)),
  ([0x56111F10, 0x00000001, 0x00000002], .atom tyB32 .min true (.acqrel .package) .global none (r 1) (r 2) none),
  ([0x57158005, 0x00000001, 0x00000002, 0x00000003], .atomc tyB64 .none .host none (r 1) (r 2) (r 3) none),
  ([0x58210090, 0x00000001, 0x00000002], .red tyF32 .fadd false .none .global none (r 1) (r 2) none),
  ([0x59002C00], .fence .rel .system),
  ([0x5A000000], .phase)] = true := by decide

theorem decode_copies : agree [
  ([0x5B030108, 0xA0000001, 0x00000007, 0x00000004, 0x40000003, 0xA0000002, 0x40000003], .gld true .core .global .scratch (.sym 1) (r 7) (r 4) [.imm 3, .sym 2] 3 none),
  ([0x5C02A001, 0x00000001, 0x00000002, 0x00000003, 0x00000004, 0x4000003F], .gst false .die .scratch .global (r 1) (r 2) (r 3) [r 4] 63 none),
  ([0x5D108000, 0x00000001], .shp (r 1)),
  ([0x5D008001, 0x00000001], .shpFree (r 1)),
  ([0x5E160000, 0x00000001, 0x00000002, 0x00000003, 0x00000004], .taddr (r 1) (r 2) [r 3, r 4]),
  ([0x5F3DC000, 0x00000001, 0x00000002, 0x40000001], .ldt .global false (some 1) (r 1) (r 2)),
  ([0x60029808, 0x00000001, 0x00000002, 0x00000003, 0x40000003, 0xA0000005], .cpy .cluster .global .scratch (r 1) (r 2) (r 3) 3 (some 5)),
  ([0x60020301, 0x00000001, 0x00000002, 0x00000003, 0x40000004], .cpyShape true .core .scratch .global (r 1) (r 2) (r 3) 4 none),
  ([0x61108001, 0x40000009], .cpyw true 9),
  ([0x62120008, 0x00000001, 0x00000002, 0x00000003, 0x40000000], .cpyf tyB32 .core .scratch (r 1) (r 2) (r 3) 0 none),
  ([0x631200C0, 0x00000001, 0x00000002, 0x00000003, 0x40000001], .cpyq tyB32 .add true true .core .global .global (r 1) (r 2) (r 3) 1 none),
  ([0x64110000, 0x00000001, 0x00000002], .cjoin (r 1) (r 2)),
  ([0x65000000], .cleave),
  ([0x66148000, 0x00000001], .cmap (r 1)),
  ([0x67010000, 0x40000007, 0x40000002], .colr 7 2)] = true := by decide

theorem decode_matrix_1 : agree [
  ([0x7011F500, 0x00000001, 0x40000002, 0x40000020], .orsv true .cb4 .b32 false .dense (r 1) 2 32),
  ([0x70119C52, 0x40000040, 0x40000000, 0x40000000], .orsv false .bf16 .none true (.of4 2) (.imm 64) 0 0),
  ([0x71008000, 0x00000001], .orel (r 1)),
  ([0x72018009, 0x00000001, 0x00000002, 0x00000003], .ofill true .scratch (r 1) (r 2) (r 3)),
  ([0x73018002, 0x00000001, 0x00000002, 0x40000040], .bfill .cluster (r 1) (r 2) (.imm 64)),
  ([0x74018000, 0x00000001, 0x00000002, 0x40000001], .sclq .global (r 1) (r 2) (.imm 1)),
  ([0x75350000, 0x40000001, 0xA0000003], .cbld false 1 3),
  ([0x75390003, 0x40000001, 0x00000002], .cbldAddr true .const 1 (r 2)),
  ([0x76100001], .aacq true),
  ([0x77008000, 0x00000001], .arel (r 1)),
  ([0x78020000, 0x00000001, 0x00000002, 0x00000003, 0x4000000F], .mma (r 1) (r 2) (r 3) (some 15)),
  ([0x79018000, 0x00000001, 0x00000002, 0x00000003], .mmsp (r 1) (r 2) (r 3) none),
  ([0x7A218003, 0x00000001, 0x00000002, 0x00000003], .acrd tyF32 true true none (r 1) (r 2) (r 3)),
  ([0x7B22C000, 0x00000001, 0x00000002, 0x00000003, 0x00000004, 0x40000001], .acwr tyF32 (some 1) (r 1) (r 2) (r 3) (r 4)),
  ([0x7B008004, 0x00000001], .acwrZero (r 1)),
  ([0x7C008000, 0x40000003], .sign 3)] = true := by decide

theorem decode_matrix_2 : agree [
  ([0x7D010000, 0x40000004, 0x40000080], .cvset 4 (.imm 128)),
  ([0x7E000000], .gsync),
  ([0x7F140001], .mstat true)] = true := by decide

theorem decode_barriers : agree [
  ([0x90008000, 0x40000003], .barv 3 none),
  ([0x91010000, 0x40000003, 0x00000001], .barw 3 (r 1)),
  ([0x92110000, 0x4000003F, 0x00000002], .bars 63 (some (r 2))),
  ([0x93010800, 0x40000000, 0x40000040], .bmem .cluster 0 (some (.imm 64))),
  ([0x94140000], .prgqB64),
  ([0x94040000], .prgqP),
  ([0x95008000, 0x40000064], .sleep false (.imm 100)),
  ([0x95108000, 0x00000002], .sleep true (r 2)),
  ([0x96110011, 0x00000001, 0x00000002], .flagw tyB32 .gt true (r 1) (r 2)),
  ([0x97148000, 0x40000005], .bcnt 5)] = true := by decide

theorem decode_launches : agree [
  ([0xA0108001, 0x00000001], .launch true (r 1)),
  ([0xA1100000], .ljoin),
  ([0xA2148000, 0x40000004], .lquery 4),
  ([0xA3000000], .wsplit),
  ([0xA4108001, 0x00000001], .migrate true (r 1)),
  ([0xA5000000], .wdone)] = true := by decide

theorem decode_system : agree [
  ([0xB0014000, 0x40000007, 0x40000002], .trap 7 (some 2)),
  ([0xB1008000, 0x40000003], .brkpt 3),
  ([0xB2008001, 0xA0000002], .tprf .other 2),
  ([0xB2110002, 0x00000001, 0x40000008], .tprfHandle .both (r 1) 0),
  ([0xB3140001], .clock true),
  ([0xB4000002], .smpl .now),
  ([0xB5110001, 0x00000001, 0x00000002], .watch true (r 1) (r 2)),
  ([0xB6008000, 0x00000001], .unwatch (r 1)),
  ([0xB715C000, 0x00000005, 0x40000009, 0x40000001], .logm tyB64 (some 1) (r 5) 9)] = true := by decide


/-- Each row's words are no instruction, and are rejected with the event that R67 names. -/
def rejected (rows : List (List W32 × Nat)) : Bool :=
  rows.all fun q => match decodeWords q.1 with | .error ev => ev = q.2 | .ok _ => false

/-- An opcode of no row, TY and MOD bits that the row does not list, a missing operand, a reserved modifier. -/
theorem decode_rejects : rejected [
  ([0x4F000000], evIllegalOp), ([0xB9000000], evIllegalOp), ([0x10220000, 1, 2], evType), ([0x10108000, 1], evVerify), ([0x10110010, 1, 2], evVerify),
  ([0x59000000], evVerify), ([0x5A000001], evVerify), ([0x10110000, 1], evVerify)] = true := by decide

/-- Native slots (R70-R75): ENG, OPC, D, A, B, C, MOD from bit 55 down. -/
theorem decode_native :
    decodeSlot 32 none (1#56 <<< 53 ||| 0xC0#56 <<< 45 ||| 3#56 <<< 13) none = some (.S, .only (.rgn 3)) ∧
    decodeSlot 32 none (2#56 <<< 53 ||| 0xC1#56 <<< 45 ||| 7#56 <<< 29 ||| 5#56) none = some (.L, .only (.ckst (.v 7) 5 false)) ∧
    decodeSlot 32 none (2#56 <<< 53 ||| 0xC2#56 <<< 45 ||| 9#56 <<< 37 ||| 4#56) none = some (.L, .only (.ckld (.v 9) 4 false)) ∧
    decodeSlot 32 none (2#56 <<< 53 ||| 0xC3#56 <<< 45 ||| 1#56 <<< 29 ||| 1#56 <<< 21 ||| 2#56 <<< 13) none = some (.L, .only (.vsp (.v 1) 258)) ∧
    decodeSlot 32 none (2#56 <<< 53 ||| 0xC4#56 <<< 45 ||| 1#56 <<< 37 ||| 0x97#56 <<< 13) none = some (.L, .only (.vfl (.v 1) 0x97)) ∧
    decodeSlot 32 none (1#56 <<< 53 ||| 0xC5#56 <<< 45 ||| 16#56 <<< 37 ||| 3#56) none = some (.S, .only (.rotWindow 16 3)) ∧
    decodeSlot 32 none (5#56 <<< 53 ||| 0xC6#56 <<< 45 ||| 0x97#56 <<< 29 ||| 2#56) none = some (.X, .only (.waitc .X 2 151)) ∧
    decodeSlot 32 none (3#56 <<< 53 ||| 0xC7#56 <<< 45 ||| 0x81#56 <<< 37 ||| 2#56 <<< 29) none = some (.V, .only (.mvw (.w 1) (.v 2))) ∧
    decodeSlot 32 none (3#56 <<< 53 ||| 0xC8#56 <<< 45 ||| 2#56 <<< 37 ||| 0x91#56 <<< 29) none = some (.V, .only (.mvz (.v 2) (.z 1))) ∧
    decodeSlot 32 none (2#56 <<< 53 ||| 0xC9#56 <<< 45 ||| 3#56 <<< 29 ||| 1#56) none = some (.L, .only (.qpsh (.v 3) true)) ∧
    decodeSlot 32 none (4#56 <<< 53 ||| 0xCA#56 <<< 45 ||| 0x83#56 <<< 37) none = some (.M, .only (.qpop (.w 3) false)) ∧
    decodeSlot 32 none (3#56 <<< 53 ||| 0x10#56 <<< 45 ||| 3#56 <<< 37 ||| 1#56 <<< 29 ||| 2#56 <<< 21 ||| 4#56 <<< 7) none =
      some (.V, .op (.add tyB32 false false none (.nat (.v 1)) (.nat (.v 2))) (.v 3) 0) := by decide

/-- Slot faults: an engine that does not accept the opcode, a specifier beyond the budget, a reserved specifier, a literal without an extension, a `ckld`
into the zero register. -/
theorem decode_native_rejects :
    (([(6#56 <<< 53), (2#56 <<< 53 ||| 0x10#56 <<< 45 ||| 4#56 <<< 7), (3#56 <<< 53 ||| 0x10#56 <<< 45 ||| 32#56 <<< 37 ||| 4#56 <<< 7),
      (3#56 <<< 53 ||| 0x10#56 <<< 45 ||| 1#56 <<< 37 ||| 0x98#56 <<< 29 ||| 4#56 <<< 7), (3#56 <<< 53 ||| 0x10#56 <<< 45 ||| 1#56 <<< 37 ||| 0x97#56 <<< 29 ||| 4#56 <<< 7),
      (2#56 <<< 53 ||| 0xC2#56 <<< 45 ||| 0x95#56 <<< 37), (1#56 <<< 53 ||| 0xCB#56 <<< 45)] : List (BitVec 56)).all fun w => (decodeSlot 32 none w none).isNone) = true := by decide

/-- A bundle at the head of a region, with one slot (R69). -/
def headBundle : BitVec 256 := 0x84#256 <<< 248 ||| 5#256 <<< 236 ||| 5#256 <<< 224 ||| 1#256 <<< 53 ||| 0xC0#256 <<< 45 ||| 7#256 <<< 13

/-- R4, R68, R69: a bundle's bits [7:0] lie lowest, and its header stands in bits 255 to 224. -/
theorem decode_bundle :
    bundleBytes (0x9C#256 <<< 248 ||| 0x34#256) = 0x34#8 :: List.replicate 30 0#8 ++ [0x9C#8] ∧
    ((decodeBundle 32 [] headBundle).any fun b => b.head && !b.ckpt && b.hint = 0 && b.seq = 5 && b.stx = 5 && b.slots = [(0, .S, .only (.rgn 7))]) = true := by
  decide

/-! ## Single steps -/

/-- A warp of one thread, issued, at the kernel's first instruction. -/
def at0 : State := State.reset.withFetchWord 32 0

/-- The issued warp of a state, where one is. -/
def issued (s : State) (P : Cx → Bool) : Bool := s.cx?.any P

/-- The state that an instruction answers. -/
def after (i : Instr) (s : State) (P : State → Bool) : Bool := match exec i s with | .next t => P t | _ => false

/-- The value that the instruction defines in lane 0. -/
def gives (i : Instr) (v : W64) : Bool :=
  after i at0 fun t => ((t.warps.get? 0).bind fun w => w.threads.head?.bind fun u => u.vals.get? 0).any fun x => x.bits = v

def imm (n : Int) : Opnd := .imm (BitVec.ofInt 30 n)

/-- What the next step executes is the instruction placed. -/
theorem step_runs : step (State.reset.withFetchWord 32 0) = exec .nop { at0 with issue := some { core := 0, slot := 0, n := 0, mode := .portable } } := by rfl

/-- R81, R178: the thread moves on to the next instruction. -/
theorem step_moves : after .nop at0 (fun t => (t.warps.get? 0).any fun w => w.threads.map Thread.pc = [{ fsym := 0, pix := 1 }]) = true := by decide

/-- R144: Wrap and Clamp of a sum, signed and unsigned; the most negative number. -/
theorem test_add_wraps : gives (.add tyB32 false false none (imm (-1)) (imm 1)) 0 = true ∧ gives (.add tyB32 false true none (imm (-1)) (imm 1)) 0xFFFFFFFF = true ∧
    gives (.add tyB32 true true none (.lit32 0x7FFFFFFF) (imm 1)) 0x7FFFFFFF = true ∧ gives (.neg tyB32 true false none (.lit32 0x80000000)) 0x80000000 = true ∧
    gives (.abs tyB32 true none (.lit32 0x80000000)) 0x7FFFFFFF = true := by decide

/-- R144: the upper half of the signed and of the unsigned product. -/
theorem test_mulhi : gives (.mulhi tyB32 true none (imm (-1)) (imm 2)) 0xFFFFFFFF = true ∧ gives (.mulhi tyB32 false none (imm (-1)) (imm 2)) 1 = true := by decide

/-- R145: a division by zero gives all ones and the remainder x; the quotient is toward zero. -/
theorem test_division : gives (.div tyB32 true false false none (imm (-7)) (imm 2)) 0xFFFFFFFD = true ∧ gives (.div tyB32 true false false none (imm 5) (imm 0)) 0xFFFFFFFF = true ∧
    gives (.rem tyB32 true false none (imm (-7)) (imm 2)) 0xFFFFFFFF = true ∧ gives (.rem tyB32 true false none (imm 5) (imm 0)) 5 = true := by decide

/-- R146: shifts by the width and beyond, and a rotation. -/
theorem test_shifts : gives (.shl tyB32 none (imm 1) (imm 32)) 0 = true ∧ gives (.shr tyB32 true none (imm (-8)) (imm 40)) 0xFFFFFFFF = true ∧
    gives (.shr tyB32 false none (imm (-8)) (imm 1)) 0x7FFFFFFC = true ∧ gives (.rot tyB32 none (.lit32 0x80000001) (imm 4)) 0x18 = true := by decide

/-- R147, R148: counts, reversal, bit fields. -/
theorem test_bits : gives (.clz tyB32 none (imm 1)) 31 = true ∧ gives (.popc tyB32 none (imm 7)) 3 = true ∧ gives (.brev tyB32 none (imm 1)) 0x80000000 = true ∧
    gives (.bfx tyB32 true none (imm 0xF0) (imm 4) (imm 4)) 0xFFFFFFFF = true ∧ gives (.bfi tyB32 none (imm 0) (imm 5) (imm 8) (imm 4)) 0x500 = true := by decide

/-- R149-R153: comparison, address, conversion. -/
theorem test_compare : gives (.cmp tyB32 .lt true none (imm (-1)) (imm 0)) 1 = true ∧ gives (.cmp tyB32 .lt false none (imm (-1)) (imm 0)) 0 = true ∧
    gives (.lea true none (imm 100) (imm (-2)) 3) 84 = true ∧ gives (.select tyB32 none (imm 0) (imm 1) (imm 2)) 2 = true := by decide

/-- R159, R160: one rounding, to nearest even and toward zero. -/
theorem test_floats : gives (.fadd tyF32 false false none (.lit32 0x3F800000) (.lit32 0x40000000)) 0x40400000 = true ∧
    gives (.fdiv tyF32 false false none (.lit32 0x3F800000) (.lit32 0x40400000)) 0x3EAAAAAB = true ∧
    gives (.fdiv tyF32 false true none (.lit32 0x3F800000) (.lit32 0x40400000)) 0x3EAAAAAA = true ∧
    gives (.fsqrt tyF32 false false none (.lit32 0x41100000)) 0x40400000 = true ∧ gives (.fneg tyF32 none (.lit32 0x00000000)) 0x80000000 = true := by
  decide +kernel

/-- R167: the values that the table requires exactly. -/
theorem test_approx_exact : gives (.fexp2 tyF32 false false none (.lit32 0x40400000)) 0x41000000 = true ∧ gives (.flog2 tyF32 false false none (.lit32 0x41000000)) 0x40400000 = true ∧
    gives (.frsq tyF32 false false none (.lit32 0x40800000)) 0x3F000000 = true ∧ gives (.fcos tyF32 false false none (.lit32 0)) 0x3F800000 = true ∧
    gives (.fsig tyF32 false false none (.lit32 0)) 0x3F000000 = true ∧ gives (.ftanh tyF32 false false none (.lit32 0x7F800000)) 0x3F800000 = true := by decide

/-- R168, R169: conversions of one. -/
theorem test_conversions : gives (.i2f tyF32 true false false none (imm (-2))) 0xC0000000 = true ∧ gives (.fclass tyF32 none (.lit32 0x3F800000)) 0x40 = true := by decide

/-- R386, R374: `trap` raises USER_TRAP with its number. -/
theorem test_trap : after (.trap 7 none) at0 (fun t => (t.warps.get? 0).any fun w => w.event.any fun e => e.code = 0x0B && e.qual = 7 && e.flanes = 1) = true := by decide

/-- R188: the warp's last thread exits, and its slot is free. -/
theorem test_exit : after .exit at0 (fun t => t.warps = [] && t.issue = none) = true := by decide

/-- R192: `leave` clears the thread's bit of the mask. -/
theorem test_leave : after (.leave 0) at0 (fun t => (t.warps.get? 0).any fun w => w.masks.head? = some 0) = true := by decide

/-! ## For each statement, a state and operands that meet its hypotheses -/

/-- Context 0 loaded on die 0, a launch of it, a grant of 1,024 bytes, and the page 0x10000 mapped onto device memory. -/
def ctx0 : State := { at0 with
  dies := at0.dies.set 0 { at0.die 0 with enabled := true, ctxs := [(1, { words := ((List.replicate 21 0#64).set 6 8).set 0 0x10000 })] }
  clusters := [(0, { tlb := [{ asid := 0, host := false, base := 1, log2 := 16, frame := 0x20000, w := true, pub := false, nc := false, dirtySet := true }] })]
  wgs := [(0, { warps := [0], grant := 4 })]
  launches := [{ asid := 0, lseq := 0, record := List.replicate 16 0 }] }

def ctx0Core (k : Core) : State := { ctx0 with cores := [(0, k)] }
def ctx0Wg (g : Workgroup) : State := { ctx0 with wgs := [(0, g)] }

/-- The issued warp with other threads and masks. -/
def withWarp (s : State) (f : Warp → Warp) : State := { s with warps := s.warps.map fun p => (p.1, f p.2) }

/-- A second thread in lane 1, in another group, waiting as given. -/
def beside (s : State) (wait : Wait) : State := withWarp s fun w =>
  { w with masks := 3#128 :: w.masks.drop 1, threads := w.threads ++ [{ lane := 1, grp := 1, wait := wait }] }

/-- The place in memory that an access names. -/
def placedAt (s : State) (c : Cx) (sp : Space) (a n : Nat) (wr : Bool) : Option Xlat :=
  match s.place c.iss.core c.w.asid c.w.wg sp a n wr with
  | .ok (.mem x) => some x
  | _ => none

/-- A state in canonical form with no saved, parked or landed unit. -/
def plain (s : State) : Bool :=
  Memory.wf s.mem && Memory.wf s.hostMem && s.wgs.all (fun g => Memory.wf g.2.scratch) && decide ((s.warps.map Prod.fst).Pairwise (· < ·)) &&
  decide ((s.wgs.map Prod.fst).Pairwise (· < ·)) && s.dies.all fun d => d.2.resume = [] && d.2.parked = [] && d.2.landings = [] && d.2.reland = [] &&
    d.2.ctxs.all fun c => c.2.saveUnits = [] && c.2.savedLandings = []

theorem plain_canonical (s : State) (h : plain s = true) : s.canonical := by
  simp only [plain, Bool.and_eq_true, List.all_eq_true, decide_eq_true_eq] at h
  obtain ⟨⟨⟨⟨⟨h1, h2⟩, h3⟩, h4⟩, h5⟩, h6⟩ := h
  refine ⟨⟨h1, h2⟩, h3, fun d hd => ?_, h4, h5⟩
  obtain ⟨⟨⟨⟨a, b⟩, l⟩, e⟩, f⟩ := h6 d hd
  refine ⟨?_, ?_, ?_, fun c hc => ?_⟩
  · simp [a, b]
  · simp [l]
  · simp [e]
  · simp [(f c hc).1, (f c hc).2]

theorem wit_canonical : ctx0.canonical ∧ at0.canonical := ⟨plain_canonical _ (by decide), plain_canonical _ (by decide)⟩

theorem wit_IntegerArithmetic : issued at0 (fun _ => tyB32 ≠ tyDyn) = true := by decide
theorem wit_ModularArithmeticAndAtomicOperations : 0 < 32 ∧ [1, 2, 3, 4].length = (⟨.b8, .x4⟩ : Ty).count ∧ (⟨.b8, .x4⟩ : Ty).count * (⟨.b8, .x4⟩ : Ty).width ≤ 64 ∧
    ∀ e ∈ [1, 2, 3, 4], e < 2 ^ (⟨.b8, .x4⟩ : Ty).width := by decide
theorem wit_Division : issued at0 (fun c => tyB32 ≠ tyDyn ∧ (c.active.any fun t => (elems tyB32 (c.rd tyB32 t (imm 0))).any (· = 0)) ∧
    !(c.active.any fun t => (elems tyB32 (c.rd tyB32 t (imm 1))).any (· = 0))) = true := by decide
theorem wit_Shifts : issued at0 (fun _ => tyB32 ≠ tyDyn ∧ 0 < tyB32.width) = true := by decide
theorem wit_BitOperations : issued at0 (fun _ => tyB32 ≠ tyDyn ∧ 0 < tyB32.width ∧ tyB32.bits = tyB32.width ∧ tyB32.width ≤ 64) = true := by decide
theorem wit_CompareAddressConvert : issued at0 (fun _ => tyB32 ≠ tyDyn) = true := by decide
theorem wit_SpecialValues : issued ctx0 (fun c => (ctx0.launch? c.w.asid c.w.lseq).isSome ∧ tyB32 ≠ tyDyn) = true := by decide
theorem wit_SelectAndMaskRead : issued at0 (fun _ => tyB32 ≠ tyDyn) = true := by decide
theorem wit_FloatArithmetic : issued at0 (fun _ => tyF32 ≠ tyDyn) = true := by decide
theorem wit_FloatSpecialValues : 0 < 1 ∧ Fmt.f32.isFloat = true := by decide
theorem wit_FloatSelectionCompareClass : issued at0 (fun _ => true) = true := by decide

/-- Of each exact case, and of a value whose result the table only bounds. -/
theorem wit_ApproximateFunctions : issued at0 (fun _ => tyF32 ≠ tyDyn) = true ∧ ((2 : Nat) : Int) + 0 = 2 * 1 ∧ (XR.fin false 128 1 0).lt (.fin false 128 1 0) = false ∧
    (XR.fin false 10 1 0).lt (.fin false 73 8 0) = false ∧ approxExact .rsq (.fin false 3 1 0) = none ∧ approxExact .exp2 (.fin false 1 1 (-1)) = none ∧
    approxExact .sin (.fin false 1 1 0) = none := by decide
theorem wit_Conversions : issued at0 (fun c => tyF32 ≠ tyDyn ∧ c.raising none (fun _ => false) = []) = true := by decide
theorem wit_PackedConversions : issued at0 (fun _ => f8x4 ≠ tyDyn ∧ [imm 1].head? = some (imm 1)) = true := by decide

/-- A codebook slot of the kind, one of the other kind, and none. -/
theorem wit_CodebooksAndFormatTags :
    let s := { ctx0Core { cbslots := [(2, { owner := some 0, state := .cb4, entries := List.replicate 16 0 })] } with wgs := [(0, { warps := [0], cbs := [(1, 2)] })] }
    issued s (fun c => cb4x8 ≠ tyDyn ∧ ((((s.wg c.w.wg).cbs.get? 1).bind fun ph => (s.core c.iss.core).cbslots.get? ph).map CbSlot.state = some .cb4) ∧
      (((s.wg c.w.wg).cbs.get? 0).bind fun ph => (s.core c.iss.core).cbslots.get? ph) = none) = true := by decide

theorem wit_Branches : issued at0 (fun c => (c.active.head?.bind fun t => moduleFunc c.ws t.pc.fsym).any fun f => (f.blocks[(0 : Nat)]?).isSome) = true := by decide
theorem wit_CallsAndReturns : issued at0 (fun c => (moduleFunc c.ws 0).isSome ∧ ∀ u ∈ c.active, u.sb + c.nspill u.pc.fsym + c.nspill 0 ≤ at0.spillSlots c) = true := by decide

/-- Another ready group, that has not yielded and stands elsewhere than the yielding group will. -/
theorem wit_NopRegnYield : issued (beside at0 .none) (fun c => c.iss.mode = .portable ∧ 1 ≠ c.w.turn ∧ c.w.ready 1 = true ∧ 1 ∉ c.w.yielded ∧
    ∀ t ∈ c.w.threads, t.live = true → t.grp = 1 → ∀ u ∈ c.active, t.pc ≠ u.pc.succ) = true := by decide
theorem wit_ExitEndsThreads : issued at0 (fun c => at0.logMode c.site c.w.asid c.w.lseq ≠ 1 ∧ !(c.w.threads.any fun u => u.live && !c.w.activeLanes.contains u.lane)) = true ∧
    issued (beside at0 .none) (fun c => c.w.threads.any fun u => u.live && !c.w.activeLanes.contains u.lane) = true := by decide

/-- No thread waits on the mask; the one other live member waits on it; the group holds every member; another member is elsewhere; a thread is no member. -/
theorem wit_LaneMasks :
    issued at0 (fun c => (∀ u ∈ c.w.threads, u.live = true → u.wait.onMask 3 = false) ∧ c.w.event = none ∧ c.w.ready c.w.turn = true ∧
      (c.active.filter fun u => !laneIn (c.w.mask 3) u.lane) ≠ [] ∧ (c.active.filter fun u => !laneIn (c.w.mask 0) u.lane) = [] ∧ c.w.members 0 = c.active ∧
      ∀ u ∈ c.active, u.pc = c.lead.pc ∧ u.nat = c.lead.nat) = true ∧
    issued (beside at0 (.mask 0)) (fun c => let rest := c.w.threads.filter fun u => u.live && laneIn (c.w.mask 0) u.lane && !c.w.activeLanes.contains u.lane
      rest ≠ [] ∧ c.w.masks.length = 12 ∧ (∀ u ∈ c.w.threads, u.lane < 128) ∧ ∀ u ∈ rest, u.wait = .mask 0 ∧ u.pc = {}) = true ∧
    issued (beside at0 .none) (fun c => ∃ u ∈ c.w.members 0, u.grp ≠ c.w.turn ∧ u.wait.onMask 0 = false) = true := by decide

/-- The group holds every member; operands of one tag, and of tags that do not fit. -/
theorem wit_Collectives : issued at0 (fun c => c.w.event = none ∧ c.w.ready c.w.turn = true ∧ c.w.members 0 = c.active ∧ (∀ u ∈ c.active, u.pc = c.lead.pc ∧ u.nat = c.lead.nat) ∧
    (c.active.filter fun u => !laneIn (c.w.mask 0) u.lane) = [] ∧ (c.active.filter fun u => !laneIn (c.w.mask 1) u.lane) ≠ [] ∧
    commonTag Ty.float (c.active.map fun u => c.val tyDyn u (.lit32 0)) = none) = true := by decide

/-- A misaligned address, and one whose bytes do not end within the grant. -/
theorem wit_ScratchChecks : issued ctx0 (fun c =>
    let a (x : Int) (u : Thread) : Nat := (c.rd tyB64 u (imm x)).toNat
    let fails (x : Int) (u : Thread) : Option Nat := if a x u % Nat.min 4 8 ≠ 0 then some evAddrAlign else if (ctx0.wg c.w.wg).grant * 256 < a x u + 4 then some evScratchBounds else none
    tyB32.dynTag = true ∧ c.active.map (fails 2) = [some evAddrAlign] ∧ c.active.map (fails 1022) = [some evAddrAlign] ∧ c.active.map (fails 1024) = [some evScratchBounds] ∧
    c.active.map (fails 1020) = [none]) = true := by decide

/-- A page that no table maps, and one that a held translation maps without W. -/
theorem wit_TranslationFaults :
    let s := { ctx0 with clusters := [(0, { tlb := [{ asid := 0, host := false, base := 1, log2 := 16, frame := 0x20000, w := false, pub := false, nc := false, dirtySet := true }] })] }
    issued s (fun c => tyB32.dynTag = true ∧ (c.active.filter fun u => !c.off none u).length = 1 ∧
      ([(0x10000, false), (0x10000, true), (0x50000, false), (0x50000, true)].all fun (a, wr) =>
        let s1 := s.walks c.iss.core c.w.asid [(.global, a, wr)]
        s1.dpage c.site c.w.asid = false && ((s1.die c.site).ctx? c.w.asid).isSome &&
        ((((s1.core c.iss.core).utlb ++ (s1.cluster (clusterOf c.iss.core)).tlb).find? fun e => e.holds c.w.asid false a && (!wr || !e.w || e.dirtySet)).map fun e => e.w) =
          (if a = 0x10000 then some false else none)) ∧
      ((s.walks c.iss.core c.w.asid [(.global, 0x50000, true)]).walk c.site c.w.asid false 0x50000).2 = .absent) = true := by decide

/-- Scratch and global space, where no check raises an event. -/
theorem wit_OrdinaryLoad : issued ctx0 (fun c => [(Space.scratch, 8), (.global, 0x10008)].all fun p => let s1 := ctx0.walks c.iss.core c.w.asid (c.active.map fun _ => (p.1, p.2, false))
    ∀ u ∈ c.active, c.events s1 u false { space := p.1, addr := p.2, n := 4, align := 4, read := true, write := false, ord := true } = []) = true := by decide
theorem wit_OrdinaryStore : issued ctx0 (fun c => [(Space.scratch, 8, 4), (.global, 0x10008, 4), (.global, 0x10080, 128)].all fun p =>
    let s1 := ctx0.walks c.iss.core c.w.asid (c.active.map fun _ => (p.1, p.2.1, true))
    let rs : List StoreReq := c.active.map fun u => { t := u, addr := p.2.1, bytes := List.replicate p.2.2 0 }
    (∀ u ∈ c.active, c.events s1 u (p.1 = .global) { space := p.1, addr := p.2.1, n := p.2.2, align := p.2.2, read := false, write := true } = []) ∧
    (s1.core c.iss.core).hold.length + newLines (s1.core c.iss.core) c.w.name (rs.filterMap (reqPlace s1 c p.1)) ≤ 512 ∧ s1.smpFor c.site c.w.asid ≠ 1) = true := by decide
theorem wit_StrongAccess : issued ctx0 (fun c => [(Space.scratch, 8), (.global, 0x10008)].all fun p => let s1 := ctx0.walks c.iss.core c.w.asid [(p.1, p.2, true)]
    (c.active.filter fun u => !c.off none u).length = 1 ∧ (s1.place c.iss.core c.w.asid c.w.wg p.1 p.2 4 true).isOk ∧
    (∀ u ∈ c.active, u.home = none ∧ c.events s1 u (p.1 = .global) { space := p.1, addr := p.2, n := 4, align := 4, read := true, write := true } = []) ∧
    (∀ e ∈ (s1.core c.iss.core).hold, e.owner ≠ c.w.name) ∧ ((List.range 4).all fun i => (s1.die i).det.isEmpty && (s1.die i).snap.isNone) ∧ c.site < 4 ∧ s1.logMode c.site c.w.asid c.w.lseq = 0 ∧
    s1.smpFor c.site c.w.asid ≠ 1 ∧ s1.detFlag c = false ∧ ctx0.detFlag c = false) = true := by decide

/-- A DET launch (flag 49). -/
def detState : State := { ctx0 with launches := [{ asid := 0, lseq := 0, record := (1#64 <<< 49) :: List.replicate 15 0 }] }

theorem wit_BufferedReduction : issued detState (fun c => let s1 := detState.walks c.iss.core c.w.asid [(.global, 0x10008, true)]
    imageGen c.ws = 3 ∧ detState.detFlag c = true ∧ (c.active.filter fun u => !c.off none u).length = 1 ∧
    (placedAt s1 c .global 0x10008 4 true).any (fun x => s1.redRoom c.w.asid [] [x]) ∧
    (∀ u ∈ c.active, c.events s1 u false { space := .global, addr := 0x10008, n := 4, align := 4, read := true, write := true } = []) ∧ s1.openLines c = 0 ∧
    s1.logMode c.site c.w.asid c.w.lseq ≠ 1) = true := by decide
theorem wit_FencesAndPhases : issued ctx0 (fun c => ctx0.logMode c.site c.w.asid c.w.lseq ≠ 1 ∧ FenceOrd.rel ≠ .acq) = true := by decide
theorem wit_PrefetchAndCacheControl : issued ctx0 (fun _ => CctlOp.wb ≠ .zero) = true := by decide

/-- A tensor of eight b32 elements, whole as its box; its handle is slot 1, generation 1. -/
def shape8 : Shape := { ety := tyB32, strides := [4], extents := [8], boxes := [8] }
def shaped : State := { ctx0 with infos := [(0, { shapes := [(1, { shape := some shape8 })] })] }
def hd8 : Opnd := imm 4097

/-- No shape and a live one; a descriptor that can be read; a load through the handle. -/
theorem wit_ShapesAndTensors : issued shaped (fun c => let s1 := shaped.walks c.iss.core c.w.asid ((List.range 21).map fun i => (.global, 0x10000 + 8 * i, false))
    shaped.logMode c.site c.w.asid c.w.lseq ≠ 1 ∧ s1.logMode c.site c.w.asid c.w.lseq ≠ 1 ∧ c.rd64 c.lead (imm 0x10000) = 0x10000 ∧
    ((List.range 21).all fun i => c.events s1 c.lead false { space := .global, addr := 0x10000 + 8 * i, n := 8, align := 8, read := true, write := false, ord := true } = []) ∧
    shaped.shape? c.w.asid (c.rd32 c.lead (imm 1)) = none ∧ c.active ≠ [] ∧
    (∀ u ∈ c.active, (shaped.shape? c.w.asid (c.rd32 u hd8)).map Shape.strides = some [4] ∧
      c.events shaped u false { space := .scratch, addr := 16, n := 4, align := 4, read := true, write := false, ord := true } = [])) = true := by
  decide +kernel

/-- A copy and a fill within the grant, a copy of length 0, a transfer through a shape, and a shape that does not fit its operands. -/
theorem wit_CopyInstructionsIssueJobs : issued shaped (fun c =>
    let rng (lo len : Nat) : Rng := { space := .scratch, lo := lo, len := len }
    shaped.logMode c.site c.w.asid c.w.lseq ≠ 1 ∧ tooLong .scratch 0 16 (2 ^ 40) = none ∧ 0 % Nat.max 1 tyB32.bytes = 0 ∧ (∀ q ∈ [rng 0 16, rng 64 16], shaped.rangeEvent c q = []) ∧
    (shaped.core c.iss.core).jobs.length < 128 ∧ (shaped.tag c.iss.core (shaped.tagOf c.w.wg 0)).count < 255 ∧
    (shaped.shape? c.w.asid (c.rd32 c.lead hd8)).map (fun sh => sh.strides.length) = some 1 ∧ (shaped.shape? c.w.asid (c.rd32 c.lead (imm 1))).isNone ∧
    (boxSpec shaped c true false .global .scratch 0x10000 0 hd8 [imm 0]).isOk ∧ (boxSpec shaped c false false .global .scratch 0x10000 0 hd8 [imm 0]).isOk) = true := by decide

/-- A tag with no job and nothing pending, one with a code pending, one with a job out, and a group that has its code. -/
theorem wit_CopyWaitAndClass :
    let s := { ctx0Core { tags := [(1, { pend := true, err := 0x10 }), (2, { count := 1 })] } with wgs := [(0, { warps := [0], grant := 4, tags := [(1, 1), (2, 2)] })] }
    issued s (fun c => s.logMode c.site c.w.asid c.w.lseq ≠ 1 ∧ c.lead.cwait = none ∧ (s.tag c.iss.core (s.tagOf c.w.wg 0)).count = 0 ∧
      (s.tag c.iss.core (s.tagOf c.w.wg 0)).pend = false ∧ (s.tag c.iss.core (s.tagOf c.w.wg 1)).pend = true ∧ (s.tag c.iss.core (s.tagOf c.w.wg 1)).count = 0 ∧
      (s.tag c.iss.core (s.tagOf c.w.wg 1)).err ≠ 0 ∧ (s.tag c.iss.core (s.tagOf c.w.wg 2)).count ≠ 0) = true ∧
    issued (withWarp s fun w => { w with threads := w.threads.map fun u => { u with cwait := some (2, some 0) } }) (fun c => c.lead.cwait = some (2, some 0)) = true := by decide

/-- In no group; and the member of a group that no job uses. -/
theorem wit_SharingGroups :
    let s := { ctx0Wg { warps := [0], grant := 4, group := some (0, 3) } with clusters := [(0, { groups := [(0, { asid := 0, key := 7, members := [(3, 0)] })] })] }
    issued ctx0 (fun c => ctx0.logMode c.site c.w.asid c.w.lseq ≠ 1 ∧ c.active.length = 1 ∧ (ctx0.wgs.get? c.w.wg).isSome ∧ (ctx0.wg c.w.wg).group = none) = true ∧
    issued s (fun c => s.logMode c.site c.w.asid c.w.lseq ≠ 1 ∧ c.active.length = 1 ∧ (s.wgs.get? c.w.wg).isSome ∧ (s.wg c.w.wg).isGang = false ∧
      (∀ e ∈ (s.core c.iss.core).hold, e.owner ≠ c.w.name) ∧ (∀ d ∈ s.dies, ∀ h ∈ d.2.det, h.owner ≠ c.w.name) ∧
      ((s.wg c.w.wg).group.any fun q => ((s.cluster (clusterOf c.iss.core)).groups.get? q.1).any fun x => x.members.get? q.2 = some c.w.wg &&
        x.members.all fun m => (s.core (m.2 / 16)).jobs.all fun o => !o.touches c.w.wg)) = true := by decide

/-- With breakpoints enabled and without. -/
theorem wit_StoppingInstructions :
    let s := { ctx0 with dies := ctx0.dies.set 0 { ctx0.die 0 with vfs := [(1, { bound := true, slot := 1, dbgCtl := 2 })] } }
    let enabled (s : State) (c : Cx) : Bool := match (s.die c.site).ctx? c.w.asid with
      | some d => (((s.die c.site).vfs.find? fun v => v.2.bound && v.2.slot = d.1).map fun v => v.2.dbgCtl.getLsbD 1).getD false
      | none => false
    issued s (enabled s) = true ∧ issued ctx0 (fun c => !enabled ctx0 c && (c.active.filter fun u => !c.off none u) ≠ []) = true := by decide

/-- A K that R355 allows and one that it does not; room, no room; a live handle and a stale one; accumulator units free and taken. -/
def matCore : Core := {
  resv := [(0, { held := some 0, gen := 1, fmt := .b8, rows32 := true, k := 16, base := 0, units := 1 }), (1, { held := some 0, gen := 1, side := true, fmt := .b8, k := 16, base := 0, units := 1 }),
    (2, { held := some 0, gen := 1, fmt := .b8, rows32 := true, blk := .b32, k := 32, base := 1, units := 1 })]
  acc := [(0, { held := some 0, gen := 1, first := true })] }
def mat : State := ctx0Core matCore
def hA : Nat := 2 ^ 20
def hB : Nat := 2 ^ 20 + 33
def hScaled : Nat := 2 ^ 20 + 2
def hAcc : Nat := 2 ^ 20 + 8

theorem wit_MatrixReservations : issued mat (fun c => let x := mat.core c.iss.core
    let r0 : Resv := { held := some c.w.wg, fmt := .b8, k := 16 }
    let room (b : Nat) : Bool := b + r0.need ≤ Config.operandUnits && x.resv.all fun q => q.2.held = none || q.2.side || b + r0.need ≤ q.2.base || q.2.base + q.2.units ≤ b
    c.rd32 c.lead (imm 16) = 16 ∧ 16 % 16 = 0 ∧ 7 % 16 ≠ 0 ∧ (x.resv.get {} 3).held = none ∧ ([0, 1, 2].all fun j => (x.resv.get {} j).held ≠ none) ∧
    room 2 ∧ !room 0 ∧ !room 1 ∧ (mat.resv? c.iss.core c.w.wg hA).isSome ∧ (mat.resv? c.iss.core c.w.wg 0).isNone ∧ x.tileOps = [] ∧
    (x.acc.get {} 0).held ≠ none ∧ (x.acc.get {} 1).held = none ∧ (x.acc.get {} 2).held = none ∧ (x.acc.get {} 3).held = none ∧
    (mat.acc? c.iss.core c.w.wg hAcc).isSome ∧ (mat.acc? c.iss.core c.w.wg 0).isNone) = true ∧
    issued (ctx0Core { acc := (List.range 8).map fun u => (u, { held := some 1 }) }) (fun _ => (List.range 8).all fun u =>
      (((ctx0Core { acc := (List.range 8).map fun u => (u, { held := some 1 }) }).core 0).acc.get {} u).held ≠ none) = true ∧
    issued (ctx0Core { resv := (List.range 32).map fun u => (u, { held := some 1 }) }) (fun _ => (List.range 32).all fun u =>
      (((ctx0Core { resv := (List.range 32).map fun u => (u, { held := some 1 }) }).core 0).resv.get {} u).held ≠ none) = true := by decide

/-- Fills of each side and a scale entry whose shapes fit and whose bytes lie within the grant. -/
theorem wit_MatrixOperands : issued mat (fun c =>
    ((mat.resv? c.iss.core c.w.wg hA).any fun q => !q.2.side && packedLen q.2.fmt q.2.vals ≤ 32 && c.rangeEvents mat .scratch ((List.range 32).map fun i => (i * 16, 16)) = []) ∧
    ((mat.resv? c.iss.core c.w.wg hB).any fun q => q.2.side && packedLen q.2.fmt 64 ≤ 64 && c.rangeEvents mat .scratch ((List.range 16).map fun i => (i * 64, 64)) = []) ∧
    ((mat.resv? c.iss.core c.w.wg hScaled).any fun q => q.2.blk ≠ .none && c.rangeEvents mat .scratch [(0, 2 * q.2.rows)] = []) ∧
    (mat.core c.iss.core).scaleq.length < 64 ∧ c.rangeEvents mat .scratch [(0, 32)] = [] ∧ (mat.resv? c.iss.core c.w.wg 0).isNone) = true := by decide

/-- Operands that fit; a convergence register that is READY, one OPEN and one IDLE; an element within the accumulator and one without. -/
theorem wit_MatrixMultipliesAndElements :
    let s := ctx0Core { matCore with cvs := [(0, { state := .ready, cnt := 1 }), (1, { state := .open_, cnt := 2 })] }
    let s := { s with wgs := [(0, { warps := [0], grant := 4, cvs := [(0, 0), (1, 1), (2, 2)] })] }
    issued s (fun c => tyF32 ≠ tyDyn ∧ c.lead.consumed = false ∧
      ((s.acc? c.iss.core c.w.wg hAcc).any fun X => (s.resv? c.iss.core c.w.wg hA).any fun A => (s.resv? c.iss.core c.w.wg hB).any fun B =>
        !A.2.side && B.2.side && A.2.k = B.2.k && A.2.rows = X.2.rows && A.2.sp = .dense && A.2.fmt = .b8 && B.2.fmt = .b8 && X.2.second = none &&
        takeScales c.w.wg (s.core c.iss.core).scaleq (scaleNeeds A.1 A.2 ++ scaleNeeds B.1 B.2) = .ok) ∧
      (s.cv c.iss.core (s.cvOf c.w.wg 0)).state = .ready ∧ (s.cv c.iss.core (s.cvOf c.w.wg 1)).state = .open_ ∧ (s.cv c.iss.core (s.cvOf c.w.wg 2)).state = .idle ∧
      (s.wgs.get? c.w.wg).isSome ∧ (c.active.filter fun u => !c.off none u).length = 1 ∧ (s.core c.iss.core).tileOps = []) = true := by decide

/-- A register in each state; a gang of one, and a thread that has not arrived. -/
theorem wit_ConvergenceAndGang :
    let s := { ctx0Core { cvs := [(0, { state := .open_, cnt := 2 }), (1, { state := .ready, cnt := 2 })] } with wgs := [(0, { warps := [0], grant := 4, cvs := [(0, 0), (1, 1), (2, 2)] })] }
    issued s (fun c => c.active.length = 1 ∧ s.logMode c.site c.w.asid c.w.lseq ≠ 1 ∧ (s.cv c.iss.core (s.cvOf c.w.wg 0)).state = .open_ ∧ (s.cv c.iss.core (s.cvOf c.w.wg 1)).state = .ready ∧
      (s.cv c.iss.core (s.cvOf c.w.wg 2)).state = .idle ∧ c.w.wg ∈ s.ownerWgs c.w.wg ∧
      (s.warps.all fun q => q.2.threads.all fun x => x.live && q.1 = c.key && x.grp = c.w.turn)) = true ∧
    issued (beside ctx0 .none) (fun c => c.active.length = 1 ∧ c.w.wg ∈ ctx0.ownerWgs c.w.wg ∧ c.w.threads.any fun x => x.live && x.grp ≠ c.w.turn && !waitsGang 0 x) = true := by decide

/-- A barrier with one arrival to come, one with more, a count that differs; an abandoned generation. -/
theorem wit_NamedBarriers :
    let s := { ctx0 with clusters := [(0, { nbs := [(0, { cnt := some 2, arr := 1 }), (1, { abv := true, abg := 5 })] })], wgs := [(0, { warps := [0], nbs := [(0, 0), (1, 1), (2, 2)] })] }
    issued s (fun c => s.logMode c.site c.w.asid c.w.lseq ≠ 1 ∧ c.active.length = 1 ∧ (∀ x ∈ c.w.threads, x.live = true → x.lane = 0 → x ∈ c.active) ∧
      (s.nbar 0 (s.nbOf c.w.wg 0)).cnt = some 2 ∧ (s.nbar 0 (s.nbOf c.w.wg 0)).all = false ∧ (s.nbar 0 (s.nbOf c.w.wg 0)).arr + 1 = 2 ∧ (s.nbar 0 (s.nbOf c.w.wg 2)).cnt = none ∧
      (s.nbar 0 (s.nbOf c.w.wg 2)).arr + 1 ≠ 3 ∧ (s.nbar 0 (s.nbOf c.w.wg 1)).abv = true ∧ (c.active.map fun u => c.rd32 u (imm 5) % 65536) = [(s.nbar 0 (s.nbOf c.w.wg 1)).abg] ∧
      (∀ e ∈ (s.core c.iss.core).hold, e.owner ≠ c.w.name) ∧ (∀ d ∈ s.dies, ∀ h ∈ d.2.det, h.owner ≠ c.w.name)) = true := by decide

/-- A poll of a word in device memory, with nothing of its line held. -/
theorem wit_WaitingAndQueries : issued ctx0 (fun c => let s1 := ctx0.walks c.iss.core c.w.asid [(.global, 0x10008, false)]
    c.active.length = 1 ∧ (∀ u ∈ c.active, u.halted = false ∧ (∀ y ∈ c.w.threads, y.live = true → y.lane = u.lane → y = u) ∧ c.addr u (imm 0x10008) none = 0x10008 ∧
      c.events s1 u false { space := .global, addr := 0x10008, n := 4, align := 4, read := true, write := false } = []) ∧ c.w.event = none ∧
    (placedAt s1 c .global 0x10008 4 false).isSome ∧ s1.logMode c.site c.w.asid c.w.lseq = 0 ∧ (s1.core c.iss.core).hold = []) = true := by decide

/-- A record that can be read; one warp and thread of the workgroup; an interval that can be split, with a walker free in a neighbour; a warp that may
migrate to its own die, and one that may not. -/
def walking : State := { ctx0 with
  clusters := [(0, { walkers := [(0, { state := .active, tcur := 0, tend := 4 })], tlb := (ctx0.cluster 0).tlb })]
  wgs := [(0, { warps := [0] })]
  cores := [(0, { utlb := (ctx0.cluster 0).tlb })] }

theorem wit_LaunchInstructions :
    let s := walking
    issued s (fun c => let s1 := s.walks c.iss.core c.w.asid [(.global, 0x10000, false), (.global, 0x1007F, false)]
      (∀ e ∈ (s.core c.iss.core).hold, e.owner ≠ c.w.name) ∧ (∀ d ∈ s.dies, ∀ h ∈ d.2.det, h.owner ≠ c.w.name) ∧ plain s ∧ c.active.length = 1 ∧
      ((List.range 16).all fun i => c.events s1 c.lead false { space := .global, addr := 0x10000 + 8 * i, n := 8, align := 8, read := true, write := false } = []) ∧ (s1.die c.site).pool.length < Config.poolEntries ∧
      (∀ x ∈ c.w.threads, x.live = true → x.grp = c.w.turn ∧ x.pc = c.lead.pc) ∧ (s.wg c.w.wg).stop = none ∧ c.w.event = none ∧ c.w.framed = false ∧ (s.wg c.w.wg).joined = 0 ∧
      s.wgWarps c.w.wg = [(c.key, c.w)] ∧ (s.walker 0 0).state = .active ∧ 2 ≤ (s.walker 0 0).tend - (s.walker 0 0).tcur ∧ (s.launch? c.w.asid c.w.lseq).isSome ∧ s.logMode 0 0 0 = 0 ∧
      (s.core c.iss.core).utlb.any (fun e => e.serves c.w.asid false 0x10000 false) = true ∧ (placedAt s c .global 0x10000 1 false).isSome ∧ s.migrateDenied c = false) = true ∧
    issued s (fun c => (s.launch? c.w.asid c.w.lseq).any fun l => ((s.stealOrder 0).find? fun k =>
      (s.ctxDies c.site c.w.asid).contains (k / 4) && (s.freeWalker k).isSome && (coresOf k).any fun x => s.holds x (s.demand l (k / 4))).isSome) = true ∧
    issued ctx0 ctx0.migrateDenied = true := by decide

/-- Page tables from the root 0: VA 0x10000 is the page 0x20000, written. -/
def tabled : State := { ctx0 with mem := [(0, 1), (1, 0x10), (0x1000, 1), (0x1001, 0x20), (0x2000, 1), (0x2001, 0x30), (0x3008, 7), (0x300A, 2)] }

/-- A launch of the module's kernel: one unit of one warp of one thread, budget 8. -/
def rec1 : List W64 := [2#64 <<< 56 ||| 0x10000, 0, 1#64 <<< 32 ||| 1, 1#64 <<< 32 ||| 1, 1#64 <<< 32 ||| 1, 0, 1, 0, 0, 0, 0, 0, 0, 0, 0, 0]

/-- An image of one kernel `k` of one block that holds `exit` (R61-R64). -/
def exitImage : List W32 := [0x4D46505A, 0x103, 1, 10, 22, 0, 22, 4, 0, 23, 0, 2, 14, 0, 8, 0, 1, 0x40, 0, 0, 0x200, 0x06000000, 0x006B006D]

/-- Context 0 with a module whose kernel exits, and nothing resident. -/
def idle : State := { tabled with
  issue := none, warps := [], wgs := [], launches := []
  modules := [{ asid := 0, load := 1, modid := 0, words := exitImage }]
  dies := tabled.dies.map fun d => (d.1, { d.2 with enabled := d.1 = 0 }) }

/-- The context's happenings are logged (mode 1) or replayed (mode 2), with a buffer of 4 KiB at 0 that holds one CLOCK record. -/
def observed (mode : W64) : State := ({ ctx0 with launches := [{ asid := 0, lseq := 0, record := (1#64 <<< 54) :: List.replicate 15 0 }], mem := [(7, 0x14)] } : State).modDie 0 fun d =>
  { d with smpCtl := mode, smpLimit := 0x1000 }

def unit0 : UnitKey := { asid := 0, modIdx := 0, fsym := 0, w2e := true, budget := 8 }
def cluster0 (f : Cluster → Cluster) : State := idle.modCluster 0 f

/-- A module whose kernel has two regions; and a unit of a function that no module has. -/
def twoRegions : State := { idle with modules := [{ asid := 0, load := 1, modid := 0, words := exitImage.take 20 ++ [0x400, 0x5A000000, 0x06000000] }] }
def unit9 : UnitKey := { unit0 with modIdx := 9, fsym := 9 }

/-- A handle of a kernel and one of none; a log with room and one without; a record to replay; a cluster whose lapidary works, one that waits, one with a
unit to fetch. -/
theorem wit_TranslationPrefetchClockAndHappenings :
    let m : State := { ctx0 with modules := idle.modules }
    let full : State := (observed 1).modDie 0 fun d => { d with smpLimit := 0 }
    let held (s : State) : State := s.modDie 0 fun d => { d with units := [{ key := unit0, bundles := [] }] }
    let dem : State := cluster0 fun c => { c with demands := [{ unit := unit0 }] }
    let pre : State := cluster0 fun c => { c with prefetch := [unit0] }
    let cur : State := cluster0 fun c => { c with current := some { unit := unit0 } }
    let fet : State := cluster0 fun c => { c with fetching := [{ unit := unit0 }] }
    let has (s : State) : Bool := ((s.die 0).unit? unit0).isSome || s.inTranslation 0 unit0
    issued m (fun c => (m.kernel? c.w.asid (c.rd32 c.lead (imm 0x10000))).isSome && (m.kernel? c.w.asid (c.rd32 c.lead (imm 1))).isNone && m.logMode c.site c.w.asid c.w.lseq = 0) = true ∧
    issued (observed 1) (fun c => (observed 1).logMode c.site c.w.asid c.w.lseq = 1 && ((observed 1).die c.site).smpFree ≠ 0) = true ∧
    issued full (fun c => full.logMode c.site c.w.asid c.w.lseq = 1 && (full.die c.site).smpFree = 0) = true ∧
    issued (observed 2) (fun c => (observed 2).logMode c.site c.w.asid c.w.lseq = 2 && ((observed 2).threadRec c.site 0x14 c.w.lseq c.w.tidx c.w.widx none).isSome) = true ∧
    (m.warps.get? (wkey 0 0)).isSome = true ∧ clusterOf 0 = 0 ∧ (cur.cluster 0).current.isSome = true ∧
    (dem.cluster 0).current = none ∧ (dem.cluster 0).demands = [{ unit := unit0 }] ∧ has dem = false ∧ has (held dem) = true ∧
    (pre.cluster 0).current = none ∧ (pre.cluster 0).demands = [] ∧ (pre.cluster 0).prefetch = [unit0] ∧ has pre = false ∧ verifyKernel (pre.moduleWords 0) 0 = none ∧
    ((fet.cluster 0).fetching.find? fun x => !fet.inTranslation 0 x.unit) = some { unit := unit0 } ∧ ((fet.die 0).unit? unit0) = none ∧ ((held fet).die 0).unit? unit0 ≠ none ∧
    twoRegions.unitLimit 0 unit0 = false ∧ 1 < (twoRegions.keyPlan unit0).nregion ∧ idle.unitLimit 0 unit9 = false ∧ (idle.keyPlan unit9).nregion ≤ 1 ∧
    storeUsed (idle.die 0).units + ((idle.xin 9).unit unit9 (idle.modid 9)).bytes ≤ (idle.die 0).share := by
  decide +kernel

def watched (es : Tbl WatchEntry) : State := { ctx0 with infos := [(0, { watches := es })] }
def sampler (f : Die → Die) : State := ctx0.modDie 0 fun d => f { d with smpBase := 0x8000, smpLimit := 0x10000, smpHead := 0x8000, smpCtl := 0x11 }

/-- Each case of `logm` and of the watches; a tag free and one taken; a sampler idle with a buffer and without, and one armed. -/
theorem wit_Sampling :
    let one : Tbl WatchEntry := [(0, { live := true, base := 64, len := 8 })]
    let all : Tbl WatchEntry := (List.range 16).map fun i => (i, { live := true, base := i, len := 1 })
    let busy := (sampler id).modCore 0 fun k => { k with samples := [{ busy := true }, {}, {}, {}] }
    let off := sampler fun d => { d with smpCtl := 0 }
    let none_ := sampler fun d => { d with smpCtl := 0, smpLimit := 0 }
    let tag (s : State) := (s.core 0).samples.getD 0 {}
    let room (s : State) (n : Nat) : Bool := (s.die 0).smpHeadPa % 32 = 0 && (s.die 0).smpHeadPa + 32 * n < 2 ^ 57
    issued ctx0 (fun c => ctx0.logMode c.site c.w.asid c.w.lseq = 0 && (c.active.filter fun u => !c.off none u) ≠ []) = true ∧
    issued (observed 1) (fun c => (observed 1).logMode c.site c.w.asid c.w.lseq = 1 && (c.active.filter fun u => !c.off none u) ≠ [] && room (observed 1) 1) = true ∧
    issued (watched one) (fun c => c.rd64 c.lead (imm 64) = 64 ∧ c.rd64 c.lead (imm 8) = 8 ∧ (((watched one).info c.w.asid).watches.get {} 0).base = 64 ∧
      (((watched one).info c.w.asid).watches.get {} 1).live = false ∧ c.rd32 c.lead (imm 16) / 16 % 4096 = 1 ∧ c.rd32 c.lead (imm 16) % 16 = 0) = true ∧
    issued (watched all) (fun c => (List.range 16).all fun i => (((watched all).info c.w.asid).watches.get {} i).live && (((watched all).info c.w.asid).watches.get {} i).len ≠ 8) = true ∧
    siteOf 0 = 0 ∧ ((sampler id).die 0).sampling = true ∧ (tag (sampler id)).busy = false ∧ (tag (sampler id)).due = none ∧ ((sampler id).core 0).samples.length = 4 ∧
    (busy.die 0).sampling = true ∧ (tag busy).busy = true ∧ (busy.core 0).samples.length = 4 ∧ (busy.die 0).smpHeadPa + 32 ≤ (busy.die 0).smpLimitPa ∧ room busy 1 = true ∧
    (off.die 0).smpModeRead = 0 ∧ (off.die 0).smpBasePa < (off.die 0).smpLimitPa ∧ deviceByte (off.die 0).smpBasePa = true ∧ siteOfPa (off.die 0).smpBasePa = 0 ∧
    (none_.die 0).smpModeRead = 0 ∧ (none_.die 0).smpLimitPa ≤ (none_.die 0).smpBasePa ∧ ((sampler id).die 0).smpModeRead ≠ 0 ∧ ((sampler id).die 0).smpOut = [] ∧
    ((sampler fun d => { d with smpOut := [0x8000] }).die 0).smpOut ≠ [] ∧ ((sampler id).die 0).smpLimitPa < 0x10020 ∧ 0x10020 ≤ ((sampler id).die 0).smpBasePa + 2 ^ 26 := by
  decide +kernel

/-- Context 0's warp in native slots: its function's unit of the bundles given is in the store and cached, and every engine stands at the bundle given. -/
def inNative (bs : List (BitVec 256)) (b : Nat) (nt : Native) : State :=
  let key : UnitKey := { asid := 0, modIdx := 0, fsym := 0, w2e := w2eCore 0, budget := 8 }
  let s := withWarp ctx0 fun w => { w with native := nt, threads := w.threads.map fun u => { u with nat := .startAt 0 b } }
  let s := s.modDie 0 fun d => { d with units := [{ key := key, bundles := bs }] }
  let s := s.modCluster 0 fun c => { c with tc := [{ unit := key }] }
  { s with issue := s.issue.map fun i => { i with mode := .native .V (.v 3) 0 } }

/-- Within a checkpoint run and outside one; a spill slot within the context's window, mapped; nothing outstanding and a load; queues empty and not. -/
theorem wit_NativeOperations :
    let run : BitVec 256 := 1#256 <<< 254
    let s := (inNative [0, run] 0 {}).modDie 0 fun d => { d with ctxs := d.ctxs.map fun c => (c.1, { c.2 with words := (c.2.words.set 3 0x10000).set 4 4 }) }
    let t := inNative [0, run] 1 { outstanding := [{ dest := .v 1, vals := [] }], qTile := [[(0, {})]], qScale := [[(0, {})]] }
    let inRun (s : State) (c : Cx) : Bool := ((c.lead.nat.at_.get? Eng.S.tag).bind (s.bundleAt c.iss.core c.w)).any bundleC
    let fits (c : Cx) : Bool := c.iss.mode = .native .V (.v 3) 0 && (c.active.all fun u => u.lane < 128) && c.w.native.wb + c.w.native.wn < 256
    issued s (fun c => let sx (wr : Bool) := s.walks c.iss.core c.w.asid (c.active.map fun u => (.global, s.spillAddr c 0 u, wr))
      fits c && !inRun s c && (c.active.all fun u => (sx true).spillEvents c 0 true u = [] && (sx false).spillEvents c 0 false u = []) &&
      plain s && ((List.range 4).all fun i => ((sx true).die i).snap.isNone) && c.w.native.outstanding = [] && c.w.native.qTile = [] && c.w.native.qScale = []) = true ∧
    issued t (fun c => fits c && inRun t c && c.w.native.outstanding.length = 1 && c.w.native.qTile ≠ [] && c.w.native.qScale ≠ []) = true ∧
    (Ty.ofCode (({} : Val).tag)).bits ≤ 32 := by
  decide +kernel

/-- One warp of its scheduler, that may issue. -/
def ready : State := { ctx0 with issue := none, clusters := [(0, { tlb := (ctx0.cluster 0).tlb, tc := ctx0.needReqs 0 ((ctx0.warps.get? 0).getD {}) })] }

/-- The warp alone and while a trap is pending; an engine at a bundle without a slot of it; a load outstanding; the fairness timer, the hang timer and
a sleep that has ended; a poll whose word satisfies the comparison. -/
theorem wit_WarpHappenings :
    let s := { ready with cycle := 2 ^ 33 }
    let w (s : State) : Warp := (s.warps.get? 0).getD {}
    let trap := { s with warps := s.warps ++ [(1, { wg := 1, frame := [1#64 <<< 45] })] }
    let n := { inNative [0] 0 { outstanding := [{ dest := .v 1, vals := [(0, {}, 32)] }] } with issue := none, cycle := 2 ^ 33 }
    let two := { beside s .none with issue := none }
    let asleep := withWarp s fun w => { w with threads := w.threads.map fun u => { u with wait := .sleep 5 } }
    let iss : Issue := { core := 0, slot := 0 }
    let polls := withWarp s fun w => { w with threads := w.threads.map fun u => { u with wait := .flag none iss (.flagw tyB32 .eq false (imm 0x10008) (imm 0)) } }
    let place (s : State) := placedAt s (s.cxFor iss (w s)) .global 0x10008 4 false
    let issues (s : State) : Bool := s.issue.isNone && !s.hasIssued 0 0 && decide ((s.warps.map Prod.fst).Pairwise (· < ·)) && s.schedWarps 0 0 = [(0, w s)] &&
      (s.warps.all fun q => q.2.threads.all fun u => !u.atLjoin && match u.wait with | .migrate _ _ => false | _ => true) && s.mayIssue 0 (w s) && !(w s).active.any Thread.native &&
      !s.blockDue (w s).wg && (s.cxFor { core := 0, slot := 0 } (w s)).spillDue.isNone
    let trapped (s : State) : Bool := s.warps.any fun q => q.1 / 16 = 0 && (q.2.event.isSome || q.2.framed)
    issues s = true ∧ trapped s = false ∧ issues trap = true ∧ trapped trap = true ∧ 0 < (trap.cycle - 0) / 2 ^ 5 ∧
    (trap.core 0).credits.length = 4 ∧ (trap.core 0).creditAt.length = 4 ∧ (trap.core 0).issuedAt.length = 4 ∧
    ((w n).active.head?.any fun u => u.native && (w n).active.all (fun y => y.nat = u.nat) && u.nat.place Eng.S.tag = some (0, 0) && u.nat.jump = none && u.nat.skip = none && u.nat.mayStep Eng.S.tag (w n).slipw (bundleH 0)) = true ∧
    n.bundleReq 0 (w n) (0, 0) ∈ (n.cluster 0).tc ∧ (n.unitOf 0 (w n) 0).bundles[0]? = some 0 ∧
    (((n.unitOf 0 (w n) 0).decode (n.moduleWords (w n).modIdx) 0).any fun b => b.slots = [] && !b.ckpt) = true ∧ n.mayIssue 0 (w n) = true ∧ n.blockDue (w n).wg = false ∧
    ((w n).native.outstanding[0]?).isSome = true ∧ (w n).native.wb + (w n).native.wn < 256 ∧
    (two.launch? 0 0).any (fun l => !l.flag 50) = true ∧ two.stopping 0 (w two) = false ∧ (w two).framed = false ∧ (w two).active ≠ [] ∧ (w two).native.pv = false ∧
    (w two).turnStart + Nat.max 64 (512 % 2 ^ 16) ≤ two.cycle ∧ (∀ g ∈ (w two).groups, (w two).stamps.get 0 g < (w two).stampClock) ∧ (w two).stamps = [] ∧ 1 ∈ (w two).groups ∧ 1 ≠ (w two).turn ∧
    (w two).ready 1 = true ∧ 1 ∉ (w two).yielded ∧ (s.core 0).hangcfg.getLsbD 6 = false ∧ (w s).event = none ∧ (w s).pendingRestart = none ∧ 2 ^ 32 ≤ (w s).hangCount s.cycle ∧
    ((w asleep).threads.any fun u => u.live && match u.wait with | .sleep c => c ≤ asleep.cycle | _ => false) = true ∧
    (polls.wg (w polls).wg).stop = none ∧ (w polls).threads.length = 1 ∧ (place polls).isSome = true ∧ polls.logMode 0 0 0 = 0 ∧ (polls.core 0).hold = [] ∧
    ((place polls).any fun x => condHolds .eq (readInt false 32 (leOf 4 (polls.homeByte (polls.cxFor iss (w polls)) (.mem x)))) (readInt false 32 0)) = true := by
  decide +kernel

/-- A launch of the module's kernel, its units with walker 0 of cluster 0. -/
def launched : Launch := { asid := 0, lseq := 0, record := rec1.set 6 (64#64 <<< 32 ||| 1), modIdx := 9, n := 4, clusters := [0], budgets := [(0, 8)] }
def accepted : State := { idle with launches := [launched], clusters := [(0, { walkers := [(0, { state := .active, tend := 4 })] })] }
def queued (f : HostQueue → HostQueue) : State := idle.modDie 0 fun d => { d with hq := [(0, f { en := true, base := 0x10000, log2n := 4, widx := 1 })] }

/-- A doorbell behind and beyond the ring, a window closed; a queue to enable and one to disable; a packet to read; a launch turned down, and one accepted, from a
queue and from the pool; a launch with nothing left to run. -/
theorem wit_QueueAndLaunchHappenings :
    let s := queued id
    let pk (r : List W64) := queued fun h => { h with packet := some r }
    let en : PoolEntry := { order := 0, record := rec1, asid := 0, prio := 0 }
    let pool := idle.modDie 0 fun d => { d with pool := [en] }
    let done : State := { idle with launches := [{ launched with clusters := [] }] }
    let more (s : State) (t : Option State) : Bool := t.any fun t => s.launches.length < t.launches.length
    s.windowOpen 0 1 0 = false ∧ ({ s.queue 0 0 with widx := 3 } : HostQueue).ahead = false ∧ ({ s.queue 0 0 with widx := 100 } : HostQueue).ahead = true ∧
    (s.queue 0 0).en = true ∧ (s.queue 0 0).state = 0 ∧ (s.queue 0 1).en = false ∧ s.lockOf? 0 (s.queue 0 0).asid = none ∧ s.lockOf? 0 (s.queue 0 1).asid = none ∧ ((s.die 0).ctx? 0).isSome = true ∧
    s.nextQueue 0 = some 0 ∧ (s.queue 0 0).ahead = false ∧ (s.readVa 0 0 ((s.queue 0 0).base.toNat + 128 * ((s.queue 0 0).ridx.toNat % 2 ^ (s.queue 0 0).log2n)) 128).isSome = true ∧
    (((pk rec1).queue 0 0).packet = some rec1) ∧ ((pk rec1).queue 0 0).state ≠ 3 ∧ (pk rec1).ctxStopped 0 0 = false ∧ ((pk rec1).info 0).snapPending = none ∧ ((pk rec1).queue 0 0).live = [] ∧
    (pk rec1).launchReason 0 0 rec1 false true = 0 ∧ (pk []).launchReason 0 0 [] false true ≠ 0 ∧ recW [] 8 = 0 ∧
    more (pk rec1) ((pk rec1).acceptLaunch 0 0 rec1 (Nat.min (recPrio rec1) ((pk rec1).queue 0 0).pmax) (some (0, 0)) none none) = true ∧
    poolHeads ((pool.die 0).pool.filter fun e => e.accepted.isNone && !pool.ctxStopped 0 e.asid) = [en] ∧ pool.launchReason 0 0 rec1 true true = 0 ∧
    more pool (pool.acceptLaunch 0 0 rec1 0 none (some (0, 0)) none) = true ∧
    (done.launch? 0 launched.lseq).isSome = true ∧ done.launchBusy { launched with clusters := [] } = false ∧ recW launched.record 8 = 0 ∧ (done.dies.all fun x => x.2.reds = []) = true ∧ launched.parent = none := by
  decide +kernel

/-- The launch with its walker as given; with `full`, none of the 64 barriers that a unit needs is free in cluster 0, and one core of cluster 1 is in service. -/
def walks (f : Walker → Walker) (full : Bool) : State :=
  let s : State := { accepted with cores := if full then ((coresOf 1).drop 1).map fun k => (k, ({ inService := false } : Core)) else [] }
  s.modCluster 0 fun c => { c with nbs := if full then [(0, { owner := some 0 })] else [], walkers := c.walkers.map fun p => (p.1, if p.1 = 0 then f p.2 else p.2) }

/-- A launch, its walker active, that is neither stopped nor logged. -/
def walkerReady (s : State) : Bool := s.launch? (s.walker 0 0).asid (s.walker 0 0).lseq = some launched && (s.walker 0 0).state = .active && !s.ctxStopped 0 (s.walker 0 0).asid &&
  s.logMode 0 (s.walker 0 0).asid (s.walker 0 0).lseq = 0 && (s.walker 0 0).tcur + 1 < (s.walker 0 0).tend

/-- A unit that the core preferred takes, and one that none takes; a walker to steal from, and a request of it; a draining launch. -/
theorem wit_WalkerHappenings :
    let s := walks (fun w => { w with prefer := some 0 }) false
    let full := walks id true
    let req : SplitReq := { core := 1, nw := 1, asid := 0, lseq := 0, victim := 0, arrive := 0 }
    let asked := s.modCluster 0 fun c => { c with splitReqs := [req] }
    let drain : State := { s with launches := s.launches.map fun l => { l with draining := true } }
    let later : State := { s with cycle := 100 }
    walkerReady s = true ∧ (s.walker 0 0).nextAt ≤ s.cycle ∧ launched.status = 0 ∧ recGang launched.record = false ∧ s.placeUnit launched 0 (s.walker 0 0).prefer = some [0] ∧
    walkerReady full = true ∧ (full.walker 0 0).nextAt ≤ full.cycle ∧ full.placeUnit launched 0 (full.walker 0 0).prefer = none ∧ full.lowerTo launched 0 = none ∧
    walkerReady later = true ∧ Nat.max launched.acceptedAt ((later.core 1).lastDispatch.getD 0) + 16 ≤ later.cycle ∧ 0 ∈ later.ctxDies 0 0 ∧ later.holds 1 (later.demand launched 0) = true ∧
    (later.freeWalker 0).isSome = true ∧ (later.splitVictim 0 0 0).isSome = true ∧
    walkerReady asked = true ∧ firstReq 0 asked.cycle (asked.cluster 0).splitReqs = some req ∧ 2 ≤ (asked.walker 0 0).tend - (asked.walker 0 0).tcur ∧
    (drain.launch? 0 0).any Launch.draining = true ∧ (drain.walker 0 0).state = .active := by
  decide +kernel

/-- A unit blocked in its cluster for 4,096 cycles that cluster 1 takes. -/
theorem wit_UnitBlocked :
    let s : State := { walks (fun w => { w with triedAt := some 0 }) true with cycle := 5000 }
    walkerReady s = true ∧ (s.walker 0 0).tcur = launched.wm ∧ (s.walker 0 0).triedAt = some 0 ∧ 0 + 4096 ≤ s.cycle ∧ s.afterStops.placeUnit launched 0 (s.walker 0 0).prefer = none ∧
    ((s.stealOrder 0).filter (fun c => c ≠ 0 && (s.ctxDies 0 0).contains (c / 4))).find? (fun c => (s.placeUnit launched c none).isSome && (s.freeWalker c).isSome) = some 1 ∧
    (s.placeUnit launched 1 none).isSome = true ∧ (s.freeWalker 1).isSome = true := by
  decide +kernel

/-- Context 0 with a save area and one core of cluster 0 in service, whose scratchpad its one unit holds whole. -/
def pressed : State :=
  let s : State := { ctx0 with issue := none, cycle := 2 ^ 33, cores := ((coresOf 0).drop 1).map fun k => (k, ({ inService := false } : Core)) }
  let s := s.modDie 0 fun d => { d with ctxs := d.ctxs.map fun c => (c.1, { c.2 with words := ((List.replicate 21 0#64).set 17 0x40000000).set 18 0x40000000 }) }
  s.modWg 0 fun g => { g with grant := Config.scratchUnits (w2eCore 0) }

/-- A launch that waits for a whole scratchpad of cluster 0. -/
def waiting (asid prio : Nat) : Launch :=
  { asid := asid, lseq := 5, record := rec1.set 6 (BitVec.ofNat 64 (Config.scratchUnits (w2eCore 0) * 256)), modIdx := 9, prio := prio, n := 4, clusters := [0] }
def waits (l : Launch) : State :=
  { pressed with launches := pressed.launches ++ [l], clusters := [(0, { walkers := [(0, { state := .active, asid := l.asid, lseq := 5, tend := 4, triedAt := some 0 })] })] }

/-- A unit of higher priority, and one of another context, that wait for a core. -/
theorem wit_PreemptionForPlace :
    let s := waits (waiting 0 1)
    let t := waits (waiting 1 0)
    let waits (s : State) (l : Launch) : Bool := s.launch? (s.walker 0 0).asid (s.walker 0 0).lseq = some l && (s.walker 0 0).state = .active && (s.walker 0 0).tcur < (s.walker 0 0).tend && l.status = 0 &&
      !s.ctxStopped 0 l.asid && s.logMode 0 l.asid l.lseq ≠ 2 && s.afterStops.placeUnit l 0 (s.walker 0 0).prefer = none && (s.walker 0 0).triedAt = some 0
    let ts := (t.die 0).schedcfg.toNat / 2 ^ 16 % 2 ^ 16 * 600
    waits s (waiting 0 1) = true ∧ (s.die 0).schedcfg.toNat % 2 ^ 16 ≤ s.cycle ∧ 0 ∈ coresOf 0 ∧ ((s.afterStops.coreWgs 0).any fun g => s.afterStops.unitPrio g.1 < 1) = true ∧
    s.afterStops.clearFor 0 (waiting 0 1) (· < 1) 16 [] = some [0] ∧
    waits t (waiting 1 0) = true ∧ ts ≠ 0 ∧ ts ≤ t.cycle ∧ (t.wgs.all fun g => g.2.asid = 0 && !g.2.ended && t.afterStops.unitPrio g.1 = 0 && g.2.placed + ts ≤ t.cycle) = true ∧ t.wgs ≠ [] ∧
    (t.die 0).lastSlice.get 0 0 = 0 ∧ t.afterStops.sliceFor (waiting 1 0) 0 0 256 [] = some [0] := by
  decide +kernel

/-- A unit with a job under way, and one drained that the save area takes; a saved unit, a parked one and a landed warp that a core takes; a warp placed again;
a workgroup that has ended. -/
theorem wit_PreemptionHappenings :
    let s : State := { pressed with launches := [launched] }
    let j : Job := { id := 0, asid := 0, wg := 0, owner := ⟨0, 0, 0, 0, 0⟩, tag := 0, scope := .cluster, op := .fill { space := .scratch } 0 1 0, reads := [], writes := [] }
    let busy := s.modCore 0 fun k => { k with jobs := [j] }
    let u := s.saveUnit [0] false
    let none_ : State := { s with warps := [], wgs := [] }
    let saved := none_.modDie 0 fun d => { d with resume := [u] }
    let parked := none_.modDie 0 fun d => { d with parked := [{ u with parked := true }] }
    let landed := none_.modDie 0 fun d => { d with landings := [(0, { wg := s.wg 0, warp := (s.warps.get? 0).getD {} })] }
    let again := withWarp s fun w => { w with pendingRestart := some [] }
    let ended := (none_.setWg 0 { grant := 4, ended := true })
    (s.wgs.get? 0).isSome = true ∧ (s.wg 0).ended = false ∧ s.unitWgs 0 = [0] ∧ s.warpsOf [0] ≠ [] ∧ s.logMode (siteOf 0) 0 0 = 0 ∧
    ((s.warpsOf [0]).all fun p => !p.2.framed && p.2.event.isNone && !p.2.inSpan && !p.2.midEffect && p.2.asid = (s.wg 0).asid && p.2.lseq = (s.wg 0).lseq) = true ∧ busy.drained [0] = false ∧
    (busy.wgs.get? 0).isSome = true ∧ s.drained [0] = true ∧ s.saveFits 0 0 u = true ∧ ((s.die 0).ctx? 0).any (fun x => !ctxFlag x.2 4) = true ∧ plain s = true ∧ (s.dies.all fun d => d.2.snap.isNone) = true ∧
    sortUnits (saved.die 0).resume = [u] ∧ (saved.settleRestored 0).logMode 0 u.asid u.lseq = 0 ∧ (firstPlace (saved.settleRestored 0) u none ((saved.settleRestored 0).homesFor u)).isSome = true ∧
    sortUnits ((parked.die 0).parked.filter fun u => u.members.all fun m => !m.wg.parking || m.wg.joined = 0) = [{ u with parked := true }] ∧
    (firstPlace parked { u with parked := true } none (parked.homesFor { u with parked := true })).isSome = true ∧
    (landed.launch? 0 0).isSome = true ∧ (landed.die 0).resume = [] ∧ ((((List.range 4).map (0 * 4 + ·)).findSome? fun k => (landed.pickCore k (landed.demand launched 0) none).map fun c => (k, c)).isSome) = true ∧
    ((again.warps.get? (wkey 0 0)).any fun x => x.pendingRestart = some [] && x.event.isNone && !x.framed && !x.pageWaits && !x.midEffect) = true ∧ (again.writeBack 0 0 []).isOk = true ∧
    (ended.wgs.get? 0).any (fun g => g.ended && g.group.isNone && g.grant ≠ 0) = true ∧ ended.wgWarps 0 = [] ∧ ended.drained [0] = true := by
  decide +kernel

/-- A job of the warp that fills the place given. -/
def fillOf (sp : Space) (addr : Nat) : Job :=
  { id := 0, asid := 0, wg := 0, owner := ⟨0, 0, 0, 0, 0⟩, tag := 0, scope := .cluster, op := .fill { space := sp, addr := addr } 16 4 7, reads := [], writes := [{ space := sp, lo := addr, len := 16 }] }
def working (tag : CopyTag) (j : Job) : State := { tabled with issue := none, cores := [(0, { jobs := [j], tags := [(0, tag)] })] }

/-- Jobs to start whose pages translate, whose constants end, and whose page is absent; started ones of either space; a tag's last job and one of two, with and
without a waiting group. -/
theorem wit_JobHappenings :
    let s := working { count := 1 } (fillOf .global 0x10000)
    let ended := working { count := 2 } { fillOf .scratch 0 with reads := [{ space := .const, lo := 0, len := 16 }] }
    let gone := working { count := 1 } (fillOf .global 0x50000)
    let page : TlbEntry := { asid := 0, host := false, base := 1, log2 := 16, frame := 0x20000, w := true, pub := false, nc := false, dirtySet := true }
    let scr := working { count := 1 } { fillOf .scratch 0 with started := true }
    let glo := working { count := 1 } { fillOf .global 0x10000 with started := true, pages := [page] }
    let stalls := withWarp scr fun w => { w with threads := w.threads.map fun u => { u with cwait := some (0, none) } }
    let waits (s : State) : Bool := s.warps.any fun p => p.1 / 16 = 0 && s.goesOn p.2 && p.2.threads.any (stalledOn 0)
    let job (s : State) : Job := ((s.core 0).jobs.find? (fun x => x.id = 0)).getD (fillOf .scratch 0)
    let starts (s : State) : Bool := plain s && !(s.core 0).jobs.isEmpty && s.mayStart 0 (job s) && (s.core 0).jobs.all (fun x => !servedBefore x (job s)) && (s.die (siteOf 0)).pins.length + (job s).globals.length ≤ 1024
    let pins (s : State) := s.pinPages 0 (job s).asid (job s).pageList []
    starts s = true ∧ (pins s).2.isOk = true ∧ (pins s).1.constOver (job s) = false ∧ starts ended = true ∧ (pins ended).2.isOk = true ∧ (pins ended).1.constOver (job ended) = true ∧
    starts gone = true ∧ (pins gone).2.isOk = false ∧ ((scr.core 0).jobs.find? (fun x => x.id = 0 && x.started)).isSome = true ∧ (job scr).declared = false ∧ (scr.wgs.get? 0).isSome = true ∧
    ((job glo).pinned false 0x10000).any (fun x => x.pa % 65536 + 16 ≤ 65536 && (List.range 16).all fun i => deviceByte (x.pa + i)) = true ∧ (glo.dies.all fun d => d.2.snap.isNone) = true ∧
    waits scr = false ∧ waits stalls = true ∧ (scr.tag 0 0).count ≤ 1 ∧ 2 ≤ (ended.tag 0 0).count := by
  decide +kernel

/-- A tile operation due and a scale entry on its way; a held line to publish; a line of zeros; a page that a table maps; a DET access whose time has come. -/
theorem wit_MemoryHappenings :
    let e : HoldEntry := { owner := ⟨0, 0, 0, 0, 0⟩, slot := 0, pl := { host := false, line := 0x400 }, bytes := [(0, (1, 0))], phase := some 0 }
    let s : State := { working {} (fillOf .scratch 0) with cycle := 5000, cores := [(0, { hold := [e], tileOps := [{ slot := 0, wg := 0 }], scaleq := [{ wg := 0, resv := 0, gen := 1, bi := 0 }] })] }
    let h : HomeOp := { owner := ⟨0, 0, 0, 0, 0⟩, core := 0, slot := 0, lane := 0, wid := 0, n := 0, arrive := 0, host := false, va := 0x10000, pa := 0x20000, dom := 0, nc := false
                        instr := .ldb tyB32 .none .global none (imm 0) none, ty := tyB32, v := 0, cmp := 0, det := true, rel := none, log := none, watch := [], seq := none }
    let d : State := { s with cores := [], dies := s.dies.map fun p => (p.1, { p.2 with det := if p.1 = 0 then [h] else [] }) }
    let x := s.translate 0 0 0 false 0x10000 false
    let walk := s.walk (siteOf 0) 0 false 0x10008
    let win := (d.die 0).det.filter fun x => x.det && homeSlice x.pa = homeSlice h.pa
    plain s = true ∧ (s.dies.all fun d => d.2.snap.isNone && d.2.det.isEmpty) = true ∧ ((s.core 0).tileOps.all fun o => o.due ≤ s.cycle) = true ∧ (s.core 0).tileOps.length = 1 ∧ ((s.core 0).scaleq[0]?).isSome = true ∧
    (s.core 0).hold[0]? = some e ∧ s.mayPublish 0 e = true ∧ e.logged = none ∧ (s.die (siteOfPa (e.pl.line * 128))).enabled = true ∧ s.logMode (siteOf 0) e.owner.asid e.owner.lseq ≠ 2 ∧
    (s.loadedOn 0).head? = some 0 ∧ (match x with | .ok x => (s.die (siteOfPa x.pa)).enabled && !x.nc && ((s.die (siteOfPa x.pa)).tags.get? (lineOf x.pa)).isNone &&
      ((List.range 128).all fun i => s.byte (x.pa / 128 * 128 + i) = 0) && ((s.die (siteOfPa x.pa)).takeTag (lineOf x.pa) x.dom).isSome | .error _ => false) = true ∧
    ((s.die (siteOf 0)).ctx? 0).isSome = true ∧ (match walk.2 with | .leaf _ pte _ => pte.getLsbD 2 && !pte.getLsbD 3 | _ => false) = true ∧ (walk.1.all deviceByte) = true ∧
    win = [h] ∧ h.arrive + Nat.max 64 ((d.die 0).detcfg.toNat % 65536) ≤ d.cycle ∧ d.mayPerform h = true ∧ (d.die 0).det = [h] ∧ (d.warps.get? (wkey 0 0)).any (fun w => w.name = h.owner) = true := by
  decide +kernel

/-- A warp that waits for page 5 of the context, counted by a record or not, with demand paging as given. -/
def faulting (joined paging : Bool) (known : List FaultRec) : State :=
  let s := withWarp { ctx0 with issue := none } fun w => { w with threads := w.threads.map fun u => { u with wait := .page 5 1 0x50000 .global true joined } }
  s.modDie 0 fun d => { d with fqCfg := if paging then 0x80000006 else 0, fqBase := 0x30000, fqRespVa := 0x50000, faults := known
                               ctxs := d.ctxs.map fun c => (c.1, { c.2 with words := c.2.words.set 0 0x10004 }) }

/-- A source and a destination frame in a table at 0x8000, with what has been copied. -/
def snapped (copied : List (Nat × Nat)) : State := ({ ctx0 with issue := none, mem := [(0x8082, 0x10), (0x808A, 0x20)] } : State).modDie 0 fun d =>
  { d with snapSft := 0x8000, snapStep := 4, snapCtl := 2, snap := some { frames := [(0x100000, 0x200000)], copied := copied } }

/-- A page's first fault and a later one, and one without paging; an answer for a record and for none. -/
theorem wit_FaultQueue :
    let s := faulting false true []
    let k := faulting false true [{ asid := 0, vpage := 5 }]
    let j := faulting true true [{ asid := 0, vpage := 5 }]
    let n := faulting false false []
    let w (s : State) : Warp := (s.warps.get? 0).getD {}
    let d := s.die 0
    let at_ := d.fqBase.toNat / 4096 % 2 ^ 52 * 4096 + 32 * (d.fqHead % 2 ^ (d.fqCfg.toNat % 32))
    ((plain s && plain k && plain j && plain n) && siteOf 0 = 0 && (w s).pageOf = some (5, 1, 0x50000, .global, false) && (w k).pageOf = (w s).pageOf && (w n).pageOf = (w s).pageOf &&
    s.dpage 0 (w s).asid && k.dpage 0 (w k).asid && n.dpage 0 (w n).asid = false && (d.fqHead + 2 ^ 32 - d.fqTail) % 2 ^ 32 < 2 ^ (d.fqCfg.toNat % 32) && (s.dies.all fun d => d.2.snap.isNone) &&
    ((List.range 32).all fun i => deviceByte (at_ + i)) && d.faults = [] &&
    ((j.die 0).faults.any fun r => r.asid = 0 && r.vpage = (j.die 0).fqRespVa.toNat / 65536 % 2 ^ 41) && j.pageWaiters 0 0 5 true = [(0, w j)] && (w j).pendingRestart = none && (w j).midEffect = false &&
    (w j).pageOf = some (5, 1, 0x50000, .global, true)) = true := by
  decide +kernel

/-- An invalidation to start and one that is done; a frame table that is good and one that is not; the last line copied. -/
theorem wit_InvalidationAndSnapshots :
    let s := faulting false true []
    let inv := s.modDie 0 fun d => { d with tlbCtl := 1 }
    let arm := (snapped []).modDie 0 fun d => { d with snapCtl := 0, snap := none }
    let all := snapped ((List.range 512).map fun i => (0, i))
    (s.die 0).tlbCtl.getLsbD 0 = false ∧ (inv.die 0).tlbCtl.getLsbD 0 = true ∧ (plain inv && plain arm && plain all && inv.cores.isEmpty) = true ∧ (inv.dies.all fun d => d.2.det.isEmpty && d.2.pins.isEmpty) = true ∧
    (arm.die 0).snapActive = false ∧ frameTableOk 0 (arm.snapEntries (arm.die 0).snapBase 1) = true ∧ frameTableOk 0 (arm.snapEntries (arm.die 0).snapBase 0) = false ∧ (arm.dies.all fun d => d.2.snap.isNone) = true ∧
    ((List.range (128 + 80)).all fun i => deviceByte ((arm.die 0).snapBase + i)) = true ∧
    ((all.die 0).snap.any fun sn => sn.copied.contains (0, 3) && sn.frames.length * 512 ≤ sn.copied.length && (sn.pending? (lineOf ((all.die 0).snapBase + 88))).isNone) = true ∧ (all.die 0).tags = [] ∧
    (all.die 0).snapBase % 4096 = 0 ∧ ((List.range 8).all fun i => deviceByte ((all.die 0).snapBase + 88 + i)) = true ∧ siteOfPa ((all.die 0).snapBase + 88) = 0 := by
  decide +kernel

theorem wit_SnapshotLine : let s := snapped []
    (∀ i < 65536, deviceByte (0x200000 + i) = true) ∧ 0x100000 % 65536 = 0 ∧ 0x200000 % 65536 = 0 ∧ ((s.die 0).snap.any fun sn => sn.frames[0]? = some (0x100000, 0x200000) && !sn.copied.contains (0, 3)) = true ∧
    deviceByte (snapBitPa (s.die 0) 1 0 3) = true ∧ snapBitPa (s.die 0) 1 0 3 < 0x200000 := by
  refine ⟨fun i hi => ?_, by decide⟩
  exact Bool.and_eq_true_iff.mpr ⟨decide_eq_true (by omega), decide_eq_true (show (0x200000 + i) % 2 ^ 38 < 0x3000000000 by omega)⟩

/-- A module whose kernel adds twice and exits; the warp stands at the second sum, with the first in a value. -/
def summing : State :=
  let s : State := { tabled with issue := none, modules := [{ asid := 0, load := 1, modid := 0, words := exitImage.take 20 ++ [0x600, 0x10110000, 0x40000001, 0x40000001, 0x10110000, 1, 0x40000001, 0x06000000] }] }
  withWarp s fun w => { w with threads := w.threads.map fun u => { u with pc := { fsym := 0, pix := 1 }, vals := [(0, mkVal tyB32 2)] } }

/-- A precise frame of a USER_TRAP of lane 0. -/
def trapFrame : FFrame := ((List.replicate 16 0#64).set 0 (0x0B#64 ||| 1#64 <<< 45 ||| 1#64 <<< 46)).set 14 1
def framedIn (s : State) (f : FFrame) : State := withWarp s fun w => { w with frame := f }
def onVf (s : State) (ctl halts : W64) : State := s.modDie 0 fun d => { d with vfs := [(1, { bound := true, slot := 1, dbgCtl := ctl, haltSet := halts })] }
/-- Context 0 with its descriptor's words changed. -/
def described (s : State) (f : List W64 → List W64) : State := s.modDie 0 fun d => { d with ctxs := d.ctxs.map fun c => (c.1, { c.2 with words := f c.2.words }) }

/-- An event to be framed, in a dump too; a frame for a debugger, for a handler, for the end of the launch, for a dump. -/
theorem wit_FaultHappenings :
    let s := summing
    let ev : Event := { code := 0x0B, flanes := 1, glanes := 1 }
    let raised := withWarp s fun w => { w with event := some ev }
    let dumped := (withWarp s fun w => { w with event := some { ev with early := true } }).modWg 0 fun g => { g with dumping := some (1, 0) }
    let f := framedIn s trapFrame
    let halts := onVf f 1 8
    let handled := described { f with mem := f.mem ++ [(0x20108, 8)] } fun ws => (ws.set 7 0x10100).set 8 1
    let dumps := described f fun ws => (ws.set 0 0x10008).set 14 0x1000
    let w (s : State) : Warp := (s.warps.get? (wkey 0 0)).getD {}
    let halt (s : State) : Bool := s.attached 0 0 && s.haltsOn 0 0 0x0B
    ((w raised).event = some ev && !(w raised).framed && (raised.wg 0).dumping.isNone && raised.warpDrained (w raised) && !(w raised).inSpan && plain raised &&
      (w dumped).event.any (fun e => e.early) && !(w dumped).framed && (dumped.wg 0).dumping.isSome && dumped.drained (dumped.unitWgs 0) &&
      (w f).framed && (f.wg 0).dumping.isNone && frCode (w f).frame = 0x0B && frCode (w f).frame ≠ evGangLost && frCode (w f).frame ≠ evUncorrectable && !halt f && (f.handlerFor 0 (w f) (w f).frame).isNone && !f.dumps 0 0 &&
      halt halts && (w halts).framed && !halt handled && (handled.handlerFor 0 (w handled) (w handled).frame).isSome && !halt dumps && (dumps.handlerFor 0 (w dumps) (w dumps).frame).isNone && dumps.dumps 0 0 &&
      (f.launch? 0 0).any fun l => l.status = 0 && !l.done) = true := by
  decide +kernel

/-- A handler that returned 0, with and without an access at its home in another group, and one that returned 1. -/
theorem wit_HandlerReturns :
    let ret (a : W64) : State := withWarp summing fun w => { w with threads := w.threads.map fun u =>
      { u with handler := some { pc := u.pc, vals := u.vals, stack := [], sb := 0, ck := {}, action := some a }, frame := trapFrame } }
    let mid : State := withWarp (ret 0) fun w => { w with threads := w.threads ++ [{ lane := 1, grp := 1, home := some none }] }
    let w (s : State) : Warp := (s.warps.get? (wkey 0 0)).getD {}
    let ts (s : State) := (w s).threads.filter fun u => u.live && u.handler.isSome
    let returns (s : State) (a : W64) : Bool := !(ts s).isEmpty && (ts s).all fun u => u.handler.bind HandlerSave.action = some a && u.frame = trapFrame && (frLanes trapFrame).contains u.lane
    (returns (ret 0) 0 && returns (ret 1) 1 && returns mid 0 && (w mid).midEffect && !(w (ret 0)).midEffect && decide ((w mid).threads.map Thread.lane).Nodup &&
      frPrecise trapFrame && frCode trapFrame ≠ evUnreachable && (ts (ret 1)).all (fun u => u.handler.any fun h => !h.wait.past && h.nat.at_.isEmpty &&
        ((moduleFunc (summing.moduleWords 0) h.pc.fsym).bind fun fn => instrAt fn.blocks h.pc.pix).isSome)) = true := by
  decide +kernel

/-- A dump drained; a stopped thread with a live value, a dead one, one whose tag is asked for and one whose is not, and one in the constant pool of its unit; a function bound. -/
theorem wit_DebugHappenings :
    let f := framedIn summing trapFrame
    let w (s : State) : Warp := (s.warps.get? (wkey 0 0)).getD {}
    let dump := f.modWg 0 fun g => { g with dumping := some (0, 0) }
    let keys := (dump.dumpScope 0 0 0).filter fun k => (dump.wg k).dumping = some (0, 0)
    let pool : UnitImg := { key := (w f).unitKey 0 0, bundles := [], table := [0, 0, 0, 1#64 <<< 32 ||| 1, 112#64 <<< 32 ||| 80, 1#64 <<< 32 ||| 64, 0, 0, 1#64 <<< 32, 0, 0, 0, 0, 1#64 <<< 32, 7#64 <<< 28] }
    let const := f.modDie 0 fun d => { d with units := [pool] }
    let free := f.modDie 0 fun d => { d with units := [{ pool with table := [] }] }
    let tagged := f.modCore 0 fun k => { k with dwAux := (mkVal tyB32 2).tag.setWidth 64 }
    let u (s : State) : Thread := ((w s).thread? 0).getD { lane := 0 }
    let view (s : State) := s.viewOf 0 (w s) (u s)
    let bound := onVf f 0 0
    (!keys.isEmpty && dump.drained keys && (dump.warpsOf keys).all (fun p => !p.2.event.any Event.early && p.2.threads.all fun u => u.home = none) &&
      (0 : W64).toNat % 16 = 0 && ((w f).thread? 0).isSome && (w f).framed && ((view f).2.1.get? 0).any (fun x => x.tag = (mkVal tyB32 2).tag && x.tag ≠ (f.core 0).dwAux.setWidth 6 && x.tag = (tagged.core 0).dwAux.setWidth 6) &&
      ((view f).2.1.get? 1).isNone && ((view const).2.1.get? 0).isSome && const.constVal 0 (w const) (u const) (view const).1 0 && !free.constVal 0 (w free) (u free) (view free).1 0 &&
      decide ((w f).threads.map Thread.lane).Nodup && !(w f).midEffect && ((bound.die 0).vfs.get {} 1).bound && ((bound.die 0).ctxs.get? ((bound.die 0).vfs.get {} 1).slot).isSome) = true := by
  decide +kernel

/-- A good byte; a warp whose register file failed before, and one whose did not; a workgroup alone; a launch with work on the die; a dirty line alone on its die; a die in
reset; a function bound and one that is not. -/
theorem wit_ErrorAndResetHappenings :
    let s : State := { ctx0 with issue := none }
    let again := withWarp s fun w => { w with regErr := true }
    let dirty := State.reset.modDie 0 fun d => { d with tags := [(0x400, { dom := 0, entry := none, dirty := some (List.replicate 128 0) })] }
    let v := onVf s 0 0
    let w (s : State) : Warp := (s.warps.get? (wkey 0 0)).getD {}
    (plain s && plain dirty && deviceByte 0x20000 && !s.poison.contains 0x20000 && (w s).event.isNone && !(w s).framed && !(w s).regErr && !(w s).midEffect && (w again).regErr && (w again).event.isNone &&
      (s.wgs.get? (0 * 16 + 0)).isSome && !(s.wg 0).isGang && !s.losesPad 0 && (s.launch? 0 0).any (fun l => l.status = 0 && s.onDie 0 false l) &&
      (dirty.die 0).ctxs.isEmpty && dirty.launches.isEmpty && dirty.cores.isEmpty && (dirty.die 0).det.isEmpty && ((List.range 128).all fun i => deviceByte (0x400 * 128 + i)) &&
      !(State.reset.die 0).enabled && !(State.reset.die 0).scrubbing && !State.reset.pkg.safeMode && ((v.die 0).vfs.get {} 1).bound && !((s.die 0).vfs.get {} 1).bound) = true := by
  decide +kernel

/-- A descriptor of context 1 in slot 2 of the table at 0 that may be loaded, by its bytes. -/
def descMem : List Host.Cell := [(0x200, 1), (0x202, 0xF1), (0x203, 0xFF), (0x204, 1), (0x220, 4), (0x230, 1), (0x250, 4)]

/-- A save area at 0x10000000 as a save of context 0 with nothing left writes it, but for its digest. -/
def areaMem : List Host.Cell := [(0x10000000, 0x4B), (0x10000001, 0x4B), (0x10000002, 0x53), (0x10000003, 0x41), (0x10000004, 0x56), (0x10000005, 0x45), (0x10000006, 0x30), (0x10000007, 0x31),
  (0x10000008, 1), (0x10000031, 1), (0x10000039, 1), (0x10000041, 1), (0x10000049, 1), (0x10000051, 1)]
def savedCtx : CtxDesc := { words := ((List.replicate 21 0#64).set 17 0x10000000).set 18 256, saved := true }
def areaOnly : State := ({ State.reset with mem := areaMem } : State).modDie 0 fun d => { d with ctxs := [(1, savedCtx)] }

/-- The area with its digest, whatever SHA-512 gives. -/
def digest : BitVec 512 := Config.sha512 (areaOnly.bytesAt 0x10000000 128 ++ zeros 64 ++ areaOnly.bytesAt (0x10000000 + 192) 64)
def areaWhole : State := areaOnly.setBytes 0x10000080 (leBytes 64 digest.toNat)

/-- A slot locked, one taken, a descriptor that is refused and one that is loaded; a context to tear down, saved, to be saved, to be restored; the states of a TDI. -/
theorem wit_ContextAndTrustHappenings :
    let s : State := { ctx0 with issue := none, mem := descMem }
    let ws (slot : Nat) := (List.range 32).map fun i => s.word64 ((s.die 0).ctxBase.toNat / 2 ^ 20 % 2 ^ 37 * 2 ^ 20 + 256 * slot + 8 * i)
    let ill (slot : Nat) : Bool := descBad 0 (ws slot) || s.descDiffers 0 (descAsid (ws slot)) (ws slot)
    let twice := s.modDie 0 fun d => { d with ctxs := d.ctxs ++ [(7, { words := [0x100000001] })] }
    let tdi (t : TdiState) := s.modDie 0 fun d => { d with vfs := [(1, { bound := true, slot := 1, tdi := t })] }
    let rest : State := { described s (fun ws => (ws.set 17 0x10000000).set 18 0x10000) with warps := [], wgs := [] }
    let saved := rest.modDie 0 fun d => { d with ctxs := d.ctxs.map fun c => (c.1, { c.2 with saved := true }) }
    let c (s : State) : CtxDesc := ((s.die 0).ctxs.get? 1).getD { words := [] }
    (plain s && plain rest && ((tdi .locked).die 0).slotLocked 1) = true ∧ ((s.die 0).slotLocked 1 = false ∧ ((s.die 0).ctxs.get? 1).isSome = true ∧ (s.die 0).ctxs.get? 3 = none ∧ ill 3 = true ∧
    (s.die 0).ctxs.get? 2 = none ∧ ill 2 = false ∧ ((s.die 0).ctx? (descAsid (ws 2))).isNone = true ∧ ((twice.die 0).ctx? (descAsid (ws 2))).isSome = true) ∧
    ((c s).closing = false ∧ s.cores = [] ∧ (c saved).saved = true ∧ (s.die 0).ctxCmd.getLsbD 63 = false ∧ (c rest).saved = false ∧ rest.wgs = [] ∧ saved.restoreOk 0 0 (c saved) = false ∧
    (rest.dies.all fun d => d.2.snap.isNone) = true ∧ ((List.range 13).all fun i => deviceByte (0x10000000 + i)) = true) ∧
    (let s2 := ((rest.modDie 0 fun d => { d.modCtx 1 (fun c => { c with saved := true }) with
        hq := d.hq.mapVals fun _ q => if q.asid = 0 && q.en then { q with savedState := q.shown, state := 3 } else q }).ctxBusy 0 1 3).packContext 0 1 0
     ((s2.die 0).ctxs.get? 1).any fun c2 => (s2.saveImage 0 0 c2).total ≤ ((c rest).words.getD 18 0).toNat) = true ∧
    ([TdiState.unlocked, .locked, .run, .error].map fun t => ((tdi t).die 0).vfs.map fun v => v.2.tdi) = [[.unlocked], [.locked], [.run], [.error]] := by
  decide +kernel

theorem setBytes_canonical (s : State) (pa : Nat) (bs : List Byte) (h : s.canonical) : (s.setBytes pa bs).canonical := by
  have hw := State.setBytes_memOk s pa bs h.1
  rw [State.setBytes_rest] at hw ⊢
  exact ⟨hw, h.2⟩

/-- A restore whose checks hold, and whose area is read back as the save wrote it. -/
theorem wit_Restore : areaWhole.canonical ∧ (areaWhole.die 0).ctx? 0 = some (1, savedCtx) ∧ (areaWhole.die 0).ctxs.get? 1 = some savedCtx ∧ savedCtx.saved = true ∧ savedCtx.closing = false ∧
    (areaWhole.die 0).slotLocked 1 = false ∧ (∀ i < 4, (areaWhole.die i).snap = none) ∧ deviceByte ((savedCtx.words.getD 17 0).toNat + 12) = true ∧ areaWhole.restoreOk 0 0 savedCtx = true := by
  have hm : areaOnly.memOk := ⟨by decide, by decide⟩
  have len := leBytes_length 64 digest.toNat
  have dev : ∀ i < (leBytes 64 digest.toNat).length, deviceByte (0x10000080 + i) = true := by rw [len]; decide
  have rest : areaWhole = { areaOnly with mem := areaWhole.mem, poison := areaWhole.poison } := State.setBytes_rest _ _ _
  have hd (i : Nat) : areaWhole.die i = areaOnly.die i := by rw [rest]; rfl
  have out (p n : Nat) (h : p + n ≤ 0x10000080 ∨ 0x100000C0 ≤ p) : areaWhole.bytesAt p n = areaOnly.bytesAt p n :=
    State.setBytes_bytesAt_other _ _ _ hm dev p n (by rw [len]; omega)
  have inn : areaWhole.bytesAt 0x10000080 64 = leBytes 64 digest.toNat := by
    have h := State.setBytes_bytesAt_self areaOnly 0x10000080 _ hm dev
    rwa [len] at h
  refine ⟨setBytes_canonical _ _ _ (plain_canonical _ (by decide)), by rw [hd]; decide, by rw [hd]; decide, rfl, rfl, by rw [hd]; decide, fun i hi => by rw [hd]; revert i; decide, by decide, ?_⟩
  have e : (savedCtx.words.getD 17 0).toNat = 0x10000000 := rfl
  have e' : (savedCtx.words.getD 18 0).toNat = 256 := rfl
  have hr : areaWhole.restoreOk 0 0 savedCtx = decide (leNat (areaWhole.bytesAt (0x10000000 + 0x80) 64) = digest.toNat) := by
    unfold State.restoreOk
    simp only [e, e', show List.range 5 = [0, 1, 2, 3, 4] from rfl, List.map_cons, List.map_nil]
    simp (disch := omega) only [out]
    have o : ∀ i < 5, leNat (areaOnly.bytesAt (0x10000000 + (48 + 8 * i)) 8) = 256 := by decide
    have n : ∀ i < 5, leNat (areaOnly.bytesAt (0x10000000 + (24 + 4 * i)) 4) = 0 := by decide
    have h : leNat (areaOnly.bytesAt (0x10000000 + 0) 8) = 0x3130455641534B4B ∧ leNat (areaOnly.bytesAt (0x10000000 + 8) 1) = 1 ∧ leNat (areaOnly.bytesAt (0x10000000 + 9) 1) = 0 ∧
        leNat (areaOnly.bytesAt (0x10000000 + 10) 2) = 0 := by decide
    rw [o 0, o 1, o 2, o 3, o 4, n 0, n 1, n 2, n 3, n 4, h.1, h.2.1, h.2.2.1, h.2.2.2]
    · have b0 (p : Nat) : areaWhole.bytesAt p 0 = [] := rfl
      simp only [Nat.zero_mul, List.range_zero, List.map_nil, List.map_cons, List.all_nil, List.all_cons, List.append_nil, List.foldr_cons, List.foldr_nil, insertSpan,
        Nat.le_refl, if_true, b0, List.flatten_cons, List.flatten_nil, Nat.add_zero, decide_true, Bool.and_true, Bool.true_and, digest]
      exact decide_eq_decide.mpr Iff.rfl
    all_goals omega
  rw [hr, show 0x10000000 + 0x80 = 0x10000080 from rfl, inn, leNat_leBytes _ _ (by
    rw [show (256 : Nat) = 2 ^ 8 from rfl, ← Nat.pow_mul]; exact digest.isLt)]
  exact decide_eq_true rfl

/-- A snapshot of one frame of context 0 in a pool at 0x8000, but for its digest, and with it. -/
def shardOnly : State :=
  ({ State.reset with mem := [(0x8000, 0x4E), (0x8001, 0x41), (0x8002, 0x50), (0x8003, 0x53), (0x8004, 0x48), (0x8005, 0x41), (0x8006, 0x52), (0x8007, 0x44), (0x8014, 1), (0x8082, 0x10), (0x808A, 0x20)] } : State).modDie 0 fun d =>
    { d with enabled := true, ctxs := [(1, { words := ((List.replicate 21 0#64).set 19 0x8000).set 20 0x10000 })] }
def frames : List (Nat × Nat) := [(0x100000, 0x200000)]
def shard : State := shardOnly.setBytes 0x8018 (manifest [frames])

/-- Shards that agree, with one frame each, and shards that do not. -/
theorem wit_Shards : shard.canonical ∧ mixedQual ((shard.snapDies 0).map fun x => (x.1, shard.readShard (snapPool x.2).1)) = 0 ∧
    ((shard.snapDies 0).map fun x => (shard.readShard (snapPool x.2).1).entries).flatten = frames ∧ (frames.map Prod.fst).Nodup ∧ (shard.launches.any fun l => l.asid = 0) = false ∧
    (∀ i < 4, (shard.die i).snap = none) ∧ (∀ e ∈ frames, e.1 % 65536 = 0 ∧ e.2 % 65536 = 0 ∧ deviceByte e.1 = true ∧ ∀ f ∈ frames, e.1 ≠ f.2) ∧
    mixedQual [(0, { magic := 0, step := 0, commit := 0, digest := [], entries := [] })] ≠ 0 := by
  have hm : shardOnly.memOk := ⟨by decide, by decide⟩
  have len : (manifest [frames]).length = 64 := leBytes_length _ _
  have dev : ∀ i < (manifest [frames]).length, deviceByte (0x8018 + i) = true := by rw [len]; decide
  have rest : shard = { shardOnly with mem := shard.mem, poison := shard.poison } := State.setBytes_rest _ _ _
  have hd (i : Nat) : shard.die i = shardOnly.die i := by rw [rest]; rfl
  have out (p n : Nat) (h : p + n ≤ 0x8018 ∨ 0x8058 ≤ p) : shard.bytesAt p n = shardOnly.bytesAt p n :=
    State.setBytes_bytesAt_other _ _ _ hm dev p n (by rw [len]; omega)
  have inn : shard.bytesAt 0x8018 64 = manifest [frames] := by
    have h := State.setBytes_bytesAt_self shardOnly 0x8018 _ hm dev
    rwa [len] at h
  have dies : shard.snapDies 0 = shardOnly.snapDies 0 := by unfold State.snapDies; simp only [hd]
  have word (p : Nat) (h : p + 8 ≤ 0x8018 ∨ 0x8058 ≤ p) : shard.word64 p = shardOnly.word64 p := by unfold State.word64; rw [out p 8 h]
  have rd : shard.readShard 0x8000 = { magic := snapMagic, step := 0, commit := 0, digest := manifest [frames], entries := frames } := by
    unfold State.readShard
    rw [show (0x8000 + 24 : Nat) = 0x8018 from rfl, inn]
    simp (disch := omega) only [word]
    rw [Shard.mk.injEq]
    exact ⟨by decide, by decide, by decide, rfl, by decide⟩
  have one : (shardOnly.snapDies 0).map (fun x => (x.1, (snapPool x.2).1)) = [(0, 0x8000)] := by decide
  have all : (shard.snapDies 0).map (fun x => (x.1, shard.readShard (snapPool x.2).1)) = [(0, shard.readShard 0x8000)] := by
    rw [dies]
    have h : (shardOnly.snapDies 0).map (fun x => (x.1, shard.readShard (snapPool x.2).1)) = ((shardOnly.snapDies 0).map fun x => (x.1, (snapPool x.2).1)).map fun y => (y.1, shard.readShard y.2) := by
      rw [List.map_map]; rfl
    rw [h, one]; rfl
  have ents : (shard.snapDies 0).map (fun x => (shard.readShard (snapPool x.2).1).entries) = [frames] := by
    have h := congrArg (List.map fun y : Nat × Shard => y.2.entries) all
    rw [List.map_map, rd] at h; exact h
  refine ⟨setBytes_canonical _ _ _ (plain_canonical _ (by decide)), ?_, by rw [ents]; rfl, by decide, by rw [rest]; decide, fun i hi => by rw [hd]; revert i; decide, by decide, by decide⟩
  rw [all, rd]
  unfold mixedQual
  simp [frames]

/-- A limit within the range and beyond it; a watchdog that has run out and one that has not; an error below the threshold and at it; no context in the slot, and one with a launch. -/
theorem wit_ManagementHappenings :
    let s : State := { ctx0 with issue := none }
    let late : State := { s with cycle := 600000 }
    let many := s.modDie 0 fun d => { d with cerrs := List.replicate 63 0 }
    let limit (s : State) : Nat := if (s.die 0).fwwdt.toNat % 2 ^ 32 = 0 then 600000 else (s.die 0).fwwdt.toNat % 2 ^ 32
    let thresh := if (s.die 0).cerrCfg.toNat / 2 ^ 32 % 2 ^ 16 = 0 then 64 else (s.die 0).cerrCfg.toNat / 2 ^ 32 % 2 ^ 16
    let es (s : State) := ((s.die 0).cerrs.filter fun a => s.cycle ≤ a + (s.die 0).cerrCfg.toNat % 2 ^ 32 * 600) ++ [s.cycle]
    plain s = true ∧ 1000 ≤ 3400 ∧ 3400 < 3401 ∧ (s.die 0).cerrs.length < 2 ^ 32 ∧ (late.die 0).fwKickAt + limit late ≤ late.cycle ∧ s.cycle < (s.die 0).fwKickAt + limit s ∧
    (es s).length < thresh ∧ thresh ≤ (es many).length ∧ (s.die 0).ctxs.get? 9 = none ∧ ((s.die 0).ctxs.get? 1).isSome = true ∧ (s.launches.any fun l => l.asid = 0) = true ∧
    (true && false) = false ∧ 0 ∉ s.pkg.ports ∧ (0 < 1 ∧ 1 < 256) := by
  decide +kernel

/-- An issued warp's instruction; words of a block; an agenda of each kind; a word that decodes. -/
theorem wit_StepRunsDecoded :
    issued at0 (fun c => c.active.head?.any fun t => (moduleFunc c.ws t.pc.fsym).any fun f => (instrAt f.blocks t.pc.pix).isSome) = true ∧
    (parseInstrs 3 0 [0x10110000, 0x40000001, 0x40000001, 0x10110000, 1, 0x40000001, 0x06000000]).map (fun p => p.1.length) = some 3 ∧
    (let s : State := { State.reset with agenda := [.happen .nop] }; s.issue = none ∧ s.agenda = [.happen .nop]) ∧
    (let s : State := { State.reset with agenda := [.cycle] }; s.issue = none ∧ s.agenda = [.cycle]) ∧
    (let s : State := { State.reset with agenda := [.hostWrite 0x20000 [1, 2]] }; s.issue = none ∧ (∀ i < 4, (s.die i).snap = none) ∧ plain s = true ∧ ∀ i < 2, deviceByte (0x20000 + i) = true) ∧
    decodeTableWord 32 0 = some .nop := by
  decide

/-- Words that an instruction has. -/
theorem wit_DecodeEncodeRoundTrip : encode (.add tyB32 false false none (r 4) (imm 1)) = some [0x10110000, 4, 0x40000001] := by decide

/-- A state in canonical form from which the step goes on. -/
theorem wit_CanonicalKept : at0.canonical ∧ (match step (State.reset.withFetchWord 32 0) with | .next _ => true | _ => false) = true := ⟨wit_canonical.2, by decide⟩
theorem wit_NoInstructionRefused : at0.cx?.isSome = true := by decide

end Sys2Proof.Tests
end

section
/-! PROOFS. What the registers of a banked block read in any state (host queues, domains, functions, copy tags, frame areas), and
what reset leaves in every one of them. -/

namespace Sys2Proof.Machine

open Sys2Proof

/-! ## The banked registers, by the bank's index -/

/-- Above the last register with an offset of its own, a physical function's block holds the three banks only. -/
theorem State.readPf_banks (s : State) (site : Nat) {off : Nat} (h : 0x0528 ≤ off) :
    s.readPf site off =
      if 0x0600 ≤ off && off < 0x0DF8 && off % 8 = 0 then
        BitVec.ofNat 64 ((if ((s.die site).vfs.get {} ((off - 0x0600) / 8 + 1)).bound then 2 ^ 63 else 0) + ((s.die site).vfs.get {} ((off - 0x0600) / 8 + 1)).slot)
      else if 0x1000 ≤ off && off < 0x1800 then (s.queue site ((off - 0x1000) / 32)).readReg ((off - 0x1000) % 32)
      else if 0x100000 ≤ off && off < 0x140000 then (s.die site).readDom ((off - 0x100000) / 64) ((off - 0x100000) % 64)
      else 0 := by
  rw [State.readPf] <;> omega

/-- The binding register of function `v + 1`. -/
theorem State.readReg_pf_vfBind (s : State) (site : Nat) {v : Nat} (hv : v < 255) :
    s.readReg (.pf site) (0x0600 + 8 * v) =
      BitVec.ofNat 64 ((if ((s.die site).vfs.get {} (v + 1)).bound then 2 ^ 63 else 0) + ((s.die site).vfs.get {} (v + 1)).slot) := by
  have bank : (0x0600 ≤ 0x0600 + 8 * v && 0x0600 + 8 * v < 0x0DF8 && (0x0600 + 8 * v) % 8 = 0) = true := by simp; omega
  have index : (0x0600 + 8 * v - 0x0600) / 8 = v := by omega
  rw [State.readReg, s.readPf_banks site (by omega), if_pos bank, index]

/-- A register of host queue `q` in the physical function's block (R232). -/
theorem State.readReg_pf_queue (s : State) (site : Nat) {q o : Nat} (hq : q < 64) (ho : o < 32) :
    s.readReg (.pf site) (0x1000 + 32 * q + o) = (s.queue site q).readReg o := by
  have notVf : ¬(0x0600 ≤ 0x1000 + 32 * q + o && 0x1000 + 32 * q + o < 0x0DF8 && (0x1000 + 32 * q + o) % 8 = 0) = true := by simp; omega
  have bank : (0x1000 ≤ 0x1000 + 32 * q + o && 0x1000 + 32 * q + o < 0x1800) = true := by simp; omega
  have index : (0x1000 + 32 * q + o - 0x1000) / 32 = q ∧ (0x1000 + 32 * q + o - 0x1000) % 32 = o := by omega
  rw [State.readReg, s.readPf_banks site (by omega), if_neg notVf, if_pos bank, index.1, index.2]

/-- A register of domain `d` in the physical function's block (R309). -/
theorem State.readReg_pf_dom (s : State) (site : Nat) {d o : Nat} (hd : d < 4096) (ho : o < 64) :
    s.readReg (.pf site) (0x100000 + 64 * d + o) = (s.die site).readDom d o := by
  have notVf : ¬(0x0600 ≤ 0x100000 + 64 * d + o && 0x100000 + 64 * d + o < 0x0DF8 && (0x100000 + 64 * d + o) % 8 = 0) = true := by simp; omega
  have notQueue : ¬(0x1000 ≤ 0x100000 + 64 * d + o && 0x100000 + 64 * d + o < 0x1800) = true := by simp; omega
  have bank : (0x100000 ≤ 0x100000 + 64 * d + o && 0x100000 + 64 * d + o < 0x140000) = true := by simp; omega
  have index : (0x100000 + 64 * d + o - 0x100000) / 64 = d ∧ (0x100000 + 64 * d + o - 0x100000) % 64 = o := by omega
  rw [State.readReg, s.readPf_banks site (by omega), if_neg notVf, if_neg notQueue, if_pos bank, index.1, index.2]

/-- TAGSTAT of copy tag `i` (R271). -/
theorem State.readReg_core_tagStat (s : State) (c : Nat) {i : Nat} (hi : i < 64) :
    s.readReg (.core c) (0x0400 + 8 * i) = ((s.core c).tags.get {} i).stat := by
  have bank : (0x0400 ≤ 0x0400 + 8 * i && 0x0400 + 8 * i < 0x0600 && (0x0400 + 8 * i) % 8 = 0) = true := by simp; omega
  have index : (0x0400 + 8 * i - 0x0400) / 8 = i := by omega
  rw [State.readReg, State.readCore, if_pos bank, index] <;> omega

/-- Word `i` of a core's frame areas, sixteen words to a warp slot (R375). -/
theorem State.readReg_core_frame (s : State) (c : Nat) {i : Nat} (hi : i < 256) :
    s.readReg (.core c) (0x0800 + 8 * i) = s.frameWord c (i / 16) (i % 16) := by
  have notTag : ¬(0x0400 ≤ 0x0800 + 8 * i && 0x0800 + 8 * i < 0x0600 && (0x0800 + 8 * i) % 8 = 0) = true := by simp; omega
  have bank : (0x0800 ≤ 0x0800 + 8 * i && 0x0800 + 8 * i < 0x1000 && (0x0800 + 8 * i) % 8 = 0) = true := by simp; omega
  have index : (0x0800 + 8 * i - 0x0800) / 128 = i / 16 ∧ (0x0800 + 8 * i - 0x0800) % 128 / 8 = i % 16 := by omega
  rw [State.readReg, State.readCore, if_neg notTag, if_pos bank, index.1, index.2] <;> omega

/-- The debug registers of a virtual function (R384). -/
theorem State.readReg_vf_debug (s : State) (site : Nat) {vf : Nat} (h0 : 0 < vf) (h1 : vf < 256) :
    s.readReg (.vf site vf) 0x2100 = ((s.die site).vfs.get {} vf).dbgCtl ∧ s.readReg (.vf site vf) 0x2108 = ((s.die site).vfs.get {} vf).haltSet := by
  have real : ¬(vf = 0 || 255 < vf) = true := by simp; omega
  unfold State.readReg State.readVf
  exact ⟨if_neg real, if_neg real⟩

/-! ## What stands in the banks at reset -/

@[simp] theorem State.reset_die : ∀ site : Nat, State.reset.die site = Die.reset site
  | 0 | 1 | 2 | 3 | _ + 4 => rfl

@[simp] theorem State.reset_core (c : Nat) : State.reset.core c = {} := rfl

@[simp] theorem State.reset_queue (site q : Nat) : State.reset.queue site q = {} := by
  rw [State.queue, State.reset_die]; rfl

theorem State.reset_frameWord (core slot i : Nat) : State.reset.frameWord core slot i = 0 := rfl

/-- At reset every register of a queue reads 0, the undefined offsets included. -/
theorem HostQueue.readReg_default (o : Nat) : ({} : HostQueue).readReg o = 0 := by
  unfold HostQueue.readReg
  split <;> rfl

/-- At reset a domain's MAX is its only register that is not 0 (R309). -/
theorem Die.reset_readDom (site d o : Nat) : (Die.reset site).readDom d o = if o = 8 then 0x180000 else 0 := by
  unfold Die.readDom
  split
  case h_8 _ notMax _ _ _ _ _ => exact (if_neg notMax).symm
  all_goals rfl

/-- A free copy tag: OWNER 0xFF, CLASS 1, nothing pending (R271). -/
theorem CopyTag.stat_default : ({} : CopyTag).stat = 0xFF * 2 ^ 32 + 2 ^ 16 := rfl

theorem Die.reset_padOk (site : Nat) : (Die.reset site).padOk := by
  simp [Die.padOk, Die.reset]

theorem State.reset_canonical : State.reset.canonical := by
  refine ⟨⟨rfl, rfl⟩, ?_, ?_, .nil, .nil⟩
  · simp [State.reset]
  · simp [State.reset, Die.reset_padOk]

/-! ## The blocks as they read at reset -/

/-- The control block of a physical function outside its banks: DIE_ORIENT as strapped (R13), SMP_SCFG.PLOG 12 (R413), the rest 0. -/
theorem State.reset_readReg_pf (site : Nat) :
    State.reset.readReg (.pf site) 0x0000 = Config.orient site ∧ State.reset.readReg (.pf site) 0x04A0 = 12 ∧
    ∀ off ∈ [0x0300, 0x0308, 0x0340, 0x0348, 0x0350, 0x0358, 0x0368, 0x0480, 0x0488, 0x0490, 0x0498, 0x04A8, 0x0500, 0x0508, 0x0520], State.reset.readReg (.pf site) off = 0 := by
  have samplerOff : setField (setField 0#64 0 2 (smpModeOf 0#64)) 5 1 0 = 0#64 := by decide
  simp [State.readReg, State.readPf, State.stalled, Die.reset, Die.smpModeRead, samplerOff]

/-- A die's firmware registers: DIE_ORIENT (R12), SCHEDCFG.LOCKSTEP (R240), DETCFG.HOLD (R343), the watchdog (R435), the error
threshold (R436); XBS_CFG bit 8 and the snapshot registers are clear. -/
theorem State.reset_readReg_fw (site : Nat) :
    State.reset.readReg (.fw site) 0x0000 = Config.orient site ∧ (State.reset.readReg (.fw site) 0x0048).getLsbD 32 = true ∧
    State.reset.readReg (.fw site) 0x00E0 = 1024 ∧ State.reset.readReg (.fw site) 0x00F0 = 600000 ∧
    State.reset.readReg (.fw site) 0x00F8 = 64 * 2 ^ 32 + 1000000 ∧ (State.reset.readReg (.fw site) 0x0040).getLsbD 8 = false ∧
    ∀ off ∈ [0x00C0, 0x00C8, 0x00D0], State.reset.readReg (.fw site) off = 0 := by
  simp only [State.readReg, State.readFw, State.reset_die]
  refine ⟨rfl, ?_, rfl, rfl, rfl, ?_, ?_⟩ <;> simp [Die.reset]

/-- A core's block outside its banks: FAIRT.CYC (R182), FWSHARE.LOG2 (R244), HANGCFG.LOG2 (R250), an empty TAGBM (R271) and a closed
debug window. -/
theorem State.reset_readReg_core (c : Nat) :
    State.reset.readReg (.core c) 0x0080 = 512 ∧ State.reset.readReg (.core c) 0x0088 = 5 ∧ State.reset.readReg (.core c) 0x0090 = 32 ∧
    State.reset.readReg (.core c) 0x00A0 = 0 ∧ ∀ off ∈ [0x0700, 0x0708, 0x0710, 0x0718], State.reset.readReg (.core c) off = 0 := by
  have noTag : ({} : Core).tagBm = 0 := by decide
  refine ⟨rfl, rfl, rfl, noTag, ?_⟩
  simp [State.readReg, State.readCore]

/-- No function is bound at reset, and none has a debug register set (R384). -/
theorem State.reset_readReg_vf (site : Nat) {vf : Nat} (h0 : 0 < vf) (h1 : vf < 256) :
    State.reset.readReg (.pf site) (0x0600 + 8 * (vf - 1)) = 0 ∧ State.reset.readReg (.vf site vf) 0x2100 = 0 ∧ State.reset.readReg (.vf site vf) 0x2108 = 0 := by
  obtain ⟨ctl, halt⟩ := State.readReg_vf_debug State.reset site h0 h1
  rw [State.readReg_pf_vfBind _ _ (by omega), ctl, halt, State.reset_die]
  exact ⟨rfl, rfl, rfl⟩

/-- Every host queue's registers are 0 at reset (R232). -/
theorem State.reset_readReg_queue (site : Nat) {q : Nat} (hq : q < 64) : ∀ o ∈ [0, 8, 16, 24], State.reset.readReg (.pf site) (0x1000 + 32 * q + o) = 0 := by
  intro o ho
  have inBank : o < 32 := by revert o; decide
  rw [State.readReg_pf_queue _ _ hq inBank, State.reset_queue, HostQueue.readReg_default]

/-- Every domain's MAX is 0x18_0000 at reset, and its other registers are 0 (R309). -/
theorem State.reset_readReg_dom (site : Nat) {d : Nat} (hd : d < 4096) :
    State.reset.readReg (.pf site) (0x100000 + 64 * d + 8) = 0x180000 ∧
    ∀ o ∈ [0, 16, 24, 32, 40, 48], State.reset.readReg (.pf site) (0x100000 + 64 * d + o) = 0 := by
  refine ⟨by rw [State.readReg_pf_dom _ _ hd (by omega), State.reset_die, Die.reset_readDom, if_pos rfl], fun o ho => ?_⟩
  have other : o < 64 ∧ o ≠ 8 := by revert o; decide
  rw [State.readReg_pf_dom _ _ hd other.1, State.reset_die, Die.reset_readDom, if_neg other.2]

/-- A core's copy tags are free and its frame areas empty at reset (R271, R375). -/
theorem State.reset_readReg_tags (c : Nat) :
    (∀ i < 64, State.reset.readReg (.core c) (0x0400 + 8 * i) = 0xFF * 2 ^ 32 + 2 ^ 16) ∧ ∀ i < 256, State.reset.readReg (.core c) (0x0800 + 8 * i) = 0 := by
  refine ⟨fun i hi => ?_, fun i hi => ?_⟩
  · rw [State.readReg_core_tagStat _ _ hi]
    exact CopyTag.stat_default
  · rw [State.readReg_core_frame _ _ hi, State.reset_frameWord]

end Sys2Proof.Machine

open Sys2Proof Sys2Proof.Machine

/-- Settles O56, block by block: the registers with an offset of their own, then each bank by its index. -/
theorem resetState : Obligations.ResetState := by
  unfold Obligations.ResetState
  refine ⟨State.reset_canonical, rfl, rfl, rfl, rfl, rfl, rfl, rfl, rfl, rfl, rfl, fun site _ => ?_, fun c => ?_⟩
  · obtain ⟨orient, plog, pfZero⟩ := State.reset_readReg_pf site
    obtain ⟨fwOrient, lockstep, hold, watchdog, errors, xbs, fwZero⟩ := State.reset_readReg_fw site
    have noCtx : (State.reset.die site).ctxs = [] := by rw [State.reset_die]; rfl
    exact ⟨noCtx, orient, fwOrient, lockstep, hold, watchdog, errors, plog, xbs, pfZero, fwZero, fun q => State.reset_readReg_queue site,
      fun d => State.reset_readReg_dom site, fun vf => State.reset_readReg_vf site⟩
  · obtain ⟨fairt, fwshare, hangcfg, tagBm, window⟩ := State.reset_readReg_core c
    obtain ⟨tags, frames⟩ := State.reset_readReg_tags c
    exact ⟨fairt, fwshare, hangcfg, tagBm, tags, window, frames⟩
end
